-- ==== Sys2Proof/Word.lean ====
section
/-! DEFINITION. The plain words of the hub: bytes, ticks, finite maps held as sorted lists, and the closed sets of names
that the spec's tables give (statuses, phases, binding states and the like). Nothing here computes an effect. -/

namespace Sys2Proof

/-- One byte. -/
abbrev Byte := BitVec 8

/-- A tick of table time (1 ns). The spec's count is 64 bits and cannot wrap in the service life (R31, R333). -/
abbrev Tick := Nat

/-- A 32-bit handle word, laid out by R8. -/
abbrev Handle := Nat

/-- A finite map with natural keys: strictly rising keys, no entry equal to the map's default. -/
abbrev FMap (α : Type) := List (Nat × α)

/-- Status codes (R13), in the order of their codes. -/
inductive Status where
  | ok | alreadyComplete | aborted | lost | fault | denied | stale | busy | torn | unsupported
  | noResource | version | range | gone | poisoned
  deriving DecidableEq, Repr

/-- The 8-bit code of a status (R13). -/
def Status.code : Status → Nat
  | .ok => 0 | .alreadyComplete => 1 | .aborted => 2 | .lost => 3 | .fault => 4 | .denied => 5 | .stale => 6
  | .busy => 7 | .torn => 8 | .unsupported => 9 | .noResource => 10 | .version => 11 | .range => 12 | .gone => 13
  | .poisoned => 14

/-- The phases of the cold start (R593): the phase named is the one that runs now and has not ended. -/
inductive Phase where
  | fuses | clocks | sram | controlCore | stacks | checkers | fill | release | released
  deriving DecidableEq, Repr

/-- Time alignment states (SYS_TIME_STAT.STATE). -/
inductive TimeState where
  | free | acquire | locked | holdover
  deriving DecidableEq, Repr

/-- Binding states (BND_SEAT.STATE, R64 to R66, R616). -/
inductive BindState where
  | free | bound | armed | suspended | migrating | aliased | refill | failed | unavailable
  deriving DecidableEq, Repr

/-- The four seat kinds (R64). -/
inductive SeatKind where
  | cluster | channel | link | nme
  deriving DecidableEq, Repr

/-- Translation fault causes (R120). -/
inductive Cause where
  | notValid | permission | pteFormat | walkTarget | published | migrate | paRange | slab | noRoot
  deriving DecidableEq, Repr

/-- The cause code of R120. -/
def Cause.code : Cause → Nat
  | .notValid => 1 | .permission => 2 | .pteFormat => 3 | .walkTarget => 4 | .published => 5 | .migrate => 6
  | .paRange => 7 | .slab => 8 | .noRoot => 9

/-- Kinds of access a tile makes (R125). -/
inductive Access where
  | read | write | atomic
  deriving DecidableEq, Repr

/-- Link port states (LNK_PORT_STAT.STATE). -/
inductive PortState where
  | down | training | negotiate | up | failed
  deriving DecidableEq, Repr

/-- Causes of a link port going down (R256, LNK_PORT_STAT.CAUSE). -/
inductive DownCause where
  | none | phy | retry | silence | version | pll | disabled
  deriving DecidableEq, Repr

/-- Host port states (HIF_PORT_STAT.STATE). -/
inductive HostState where
  | down | resetting | training | up | d3hot
  deriving DecidableEq, Repr

/-- Coherence line states (R383, R384). -/
inductive LineState where
  | i | s | f | e | m
  deriving DecidableEq, Repr

/-- Stack states (MEM_STK_STAT.STATE). -/
inductive StackState where
  | absent | working | failed
  deriving DecidableEq, Repr

/-- Key slot states (R188). -/
inductive KeyState where
  | free | reserved | loaded | erasing
  deriving DecidableEq, Repr

/-- Context states (R419), in the order of their table. -/
inductive CtxState where
  | active | parked | saved | lost | destroying
  deriving DecidableEq, Repr

/-- Queue states (R421), in the order of their codes. -/
inductive QueueState where
  | active | stopped | paused | lost | destroying
  deriving DecidableEq, Repr

/-- Memory object states (R422), in the order of their table. -/
inductive MemObjState where
  | live | freePending | refill | free
  deriving DecidableEq, Repr

/-- Memory object kinds (R424). -/
inductive MemKind where
  | device | host | hostback
  deriving DecidableEq, Repr

/-- Counter states (R331). -/
inductive CtrState where
  | free | live | lost
  deriving DecidableEq, Repr

/-- States of a host-backed block (R165). -/
inductive BlockState where
  | host | device | both | moving
  deriving DecidableEq, Repr

/-- Model states (R558). -/
inductive ModelState where
  | discarded | loading | resident | discarding
  deriving DecidableEq, Repr

/-- Channel kinds (R433). -/
inductive ChanKind where
  | hostIn | hostOut | peer | device
  deriving DecidableEq, Repr

/-- Host port choice of a channel (CHANNEL_CREATE, R527). -/
inductive ChanPort where
  | hp0 | hp1 | stripe
  deriving DecidableEq, Repr

/-- Engine states (NME_ENG_STAT.STATE). -/
inductive EngState where
  | idle | running | waitAnte | draining | selftest | failed | stopped
  deriving DecidableEq, Repr

/-- Control-core states (MBX_INFO.CORE), and its gated state under R587 (which reads RUNNING). -/
inductive CoreState where
  | romBoot | running | restarting | handover
  deriving DecidableEq, Repr

/-- Causes of a control-core restart (MBX_WDOG.LAST_CAUSE). -/
inductive CoreCause where
  | none | watchdog | ecc | trap | pll | handoverFail
  deriving DecidableEq, Repr

/-- Step states of R529 (STEP_STATUS). -/
inductive StepState where
  | open_ | committed | heldStep | ended
  deriving DecidableEq, Repr

/-- Sensor classes (PWR_SENSOR.CLASS). -/
inductive PwrClass where
  | unused | link | memory | hub | compute | other
  deriving DecidableEq, Repr

/-- Phases of a member's reseat slot (BND_RESEAT_STAT.PHASE). -/
inductive ReseatPhase where
  | idle | accepted | committed | noDecision
  deriving DecidableEq, Repr

/-- What the decoder of a channel block finds in one codeblock (R190): clean, a number of corrected data and check
symbols, or uncorrectable. -/
inductive Decoded where
  | clean
  | corrected (data check : Nat)
  | uncorrectable
  deriving DecidableEq, Repr

end Sys2Proof
end

