-- ==== Sys2Proof/Operand.lean ====
section
/-! DEFINITION. The records that commands carry: fuse words, packets, tile descriptors, request bodies, descriptors of
queue commands. Each follows the field table of the rule its docstring cites; a field is the number the table's bits spell. -/

namespace Sys2Proof

/-- How a write reaches a 64-bit register (R19, R608): whole, or its low or its high half. -/
inductive RegPart where
  | whole | low | high
  deriving DecidableEq, Repr

/-- The offset of the access in the register. -/
def RegPart.offset : RegPart → Nat
  | .high => 4
  | _ => 0

/-- The bits that a write puts, in the register's place. -/
def RegPart.put (p : RegPart) (v : Nat) : Nat :=
  match p with
  | .whole => v
  | .low => v % 2 ^ 32
  | .high => v % 2 ^ 32 * 2 ^ 32

/-- The register's value after a write of a part. -/
def RegPart.merge (p : RegPart) (old v : Nat) : Nat :=
  match p with
  | .whole => v
  | .low => old / 2 ^ 32 * 2 ^ 32 + v % 2 ^ 32
  | .high => v % 2 ^ 32 * 2 ^ 32 + old % 2 ^ 32

/-- A write of a 64-bit register: its part and its value. -/
structure RegWrite where
  part : RegPart
  value : BitVec 64
  deriving DecidableEq, Repr

/-- The fixed fuse words that the hub latches (R590). -/
structure FuseWords where
  deviceId : Nat := 0
  vendorId : Nat := 0
  subsysId : Nat := 0
  subsysVendorId : Nat := 0
  revisionId : Nat := 0
  checkClass : Nat := 0
  chkSlabs : Nat := 0
  nodeId : Nat := 0
  serial : Nat := 0
  minSvn : Nat := 0
  keyHash : Nat := 0
  identitySecret : Nat := 0
  deriving DecidableEq, Repr

/-- One entry of SPARE_STREAM (R590). -/
structure SpareEntry where
  stack : Nat
  row : Nat
  deriving DecidableEq, Repr

/-- Where a request to TRN comes from: the source codes of TRN_DENIED.SOURCE and R337, with the instance number. For a
CF port the instance is the cluster, and the core is named beside it. -/
inductive Source where
  | cf (cluster : Fin 120) (core : Fin 64)
  | copyEngine (k : Fin 40)
  | engine (e : Fin 16)
  | hostWindow (p : Fin 2)
  | firmware
  | link (lp : Fin 16)
  | queue (q : Handle)
  deriving DecidableEq, Repr

/-- The source code (TRN_DENIED.SOURCE, R337). -/
def Source.code : Source → Nat
  | .cf _ _ => 1 | .copyEngine _ => 2 | .engine _ => 3 | .hostWindow _ => 4 | .firmware => 5 | .link _ => 6 | .queue _ => 7

/-- The source code in TRN_DENIED.SOURCE and in fault records (R123, R155), which gives none to a command's own reads at its issue: they
count as its near-memory engine's (DEDUCED, notes/assumptions/136). -/
def Source.trnCode : Source → Nat
  | .queue _ => 3
  | s => s.code

/-- The instance number of a source (R146). A command's own reads at its issue come after those of the engines, by their queue (DEDUCED,
notes/assumptions/136). -/
def Source.inst : Source → Nat
  | .cf c _ => c.val
  | .copyEngine k => k.val
  | .engine e => e.val
  | .hostWindow p => p.val
  | .firmware => 0
  | .link lp => lp.val
  | .queue q => 16 + q % 2 ^ 20

/-- A tile descriptor (R125) with the atomic code that travels beside its data (R203). -/
structure TileDesc where
  va : Nat
  rowBytes : Nat
  rows : Nat
  pitch : Nat
  op : Nat
  flags : Nat
  tag : Nat
  atom : Nat := 0
  deriving DecidableEq, Repr

/-- A command of a queue, named by its queue and position (R429, R446). -/
structure CmdRef where
  queue : Handle
  pos : Nat
  deriving DecidableEq, Repr

/-- A Gararn caller: the mailbox, and the table handle of the request's header (R514). -/
structure Caller where
  mbx : Fin 64
  table : Handle
  deriving DecidableEq, Repr

/-- Where a message between the firmware of two hubs comes from (R226, R243, R521): its sender, and its place in the sender's sequence. -/
structure CtrlFrom where
  node : Nat
  eseq : Nat
  deriving DecidableEq, Repr

/-- A seat as a message about it names it: its number and its epoch (R75). -/
structure SeatAt where
  seat : Nat
  epoch : Nat
  deriving DecidableEq, Repr

/-- The body of RESEAT (R524). -/
structure ReseatBody where
  globalId : Nat
  seat : Nat
  kind : Nat
  weight : Nat
  newNode : Nat
  newBinding : Nat
  t : Tick
  deriving DecidableEq, Repr

/-- A seat directory entry (R70). -/
structure SeatEntry where
  epoch : Nat := 0
  node : Nat := 0
  binding : Nat := 0
  kind : SeatKind := .cluster
  state : BindState := .free
  weight : Nat := 0
  lastEpoch : Nat := 0
  lastT : Option Tick := none
  deriving DecidableEq, Repr

/-- What PREPARE tells a member (R82, R83): the request, the seat's entry at the lead and the epoch it will take. -/
structure PrepareBody where
  req : ReseatBody
  tenant : Nat
  old : SeatEntry
  newEpoch : Nat
  deriving DecidableEq, Repr

/-- A split-list entry (R268). -/
structure SplitEntry where
  btVa : Nat
  node : Nat
  engine : Nat
  blocks : Nat
  deriving DecidableEq, Repr

/-- A pool descriptor (R262). -/
structure PoolDesc where
  format : Nat
  mode : Nat
  kvHeads : Nat
  dim : Nat
  vdim : Nat
  blockTokens : Nat
  blockBytes : Nat
  deriving DecidableEq, Repr

/-- The sub-command that a CMD packet carries to an NME seat (R284 and its tables), or a LAUNCH for a cluster seat. -/
inductive SubCmd where
  | attnPart (fold cmdTag : Nat) (pool : PoolDesc) (qpos window scale qHeads qFormat btOffset : Nat)
      (entries : List SplitEntry)
  | queryPiece (fold piece : Nat) (bytes : List Byte)
  | attnCancel (fold cmdTag : Nat)
  | launch (coreMask entryVa : Nat) (args : List Byte)
  deriving DecidableEq, Repr

/-- The signal that a packet may carry (R345): ADD with its delta, or MAX with the value of the payload (R346). -/
inductive SigOp where
  | none
  | add (delta : Nat)
  | max (v : Nat)
  deriving DecidableEq, Repr

/-- A packet of the link protocol (R225), less its payload's meaning. How a write of a copied granule says that its codeblock is poisoned (R92), the
header of R225 does not give: poison stands for it (DESIGN CHOICE, notes/assumptions/150). -/
structure Packet where
  src : Nat
  tenant : Nat
  type : Nat
  fwd : Bool := false
  rerun : Bool := false
  relaxed : Bool := false
  hasSig : Bool := false
  replay : Bool := false
  status : Status := .ok
  atom : Nat := 0
  eseq : Nat := 0
  addr : Nat := 0
  tag : Nat := 0
  len : Nat := 0
  epoch : Nat := 0
  sig : SigOp := .none
  sigCounter : Handle := 0
  payload : List Byte := []
  poison : Bool := false
  deriving DecidableEq, Repr

/-- The header of a flit and its trailer (R222), with the outcome of the CRC check over the 256 bytes. -/
structure Flit where
  tenant : Nat
  vc : Nat
  slots : Nat
  dst : Nat
  src : Nat
  hops : Nat
  shared : Bool
  cont : Bool
  lseq : Nat
  ack : Nat
  nak : Bool
  ackValid : Bool
  cred0 : Nat × Nat
  cred1 : Nat × Nat
  crcOk : Bool
  type : Nat
  deriving DecidableEq, Repr

/-- How a coherence message came on a link (R387): port, source node, ESEQ, tenant, and the AGENT it carried. -/
structure CohLink where
  lp : Fin 16
  node : Nat
  eseq : Nat
  tenant : Nat
  agent : Nat := 0
  deriving DecidableEq, Repr

/-- A coherence message (R386, R387): the requesting agent (128 for none), the state, flags, transaction number, the line
(PA[59:8]) and its data. In SNP_RSP the data says what the holder sent with its answer. -/
structure CohMsg where
  agent : Nat
  state : LineState := .i
  dirty : Bool := false
  noCache : Bool := false
  wbp : Bool := false
  status : Status := .ok
  atom : Nat := 0
  txid : Nat := 0
  line : Nat
  table : Nat := 0
  data : List Byte := []
  mask : List Bool := []
  link : Option CohLink := none
  deriving DecidableEq, Repr

/-- A request of a core to TCK (R339). -/
structure CtrReq where
  cluster : Fin 120
  core : Fin 64
  fence : Bool
  tag : Nat
  counter : Nat
  value : Nat
  deriving DecidableEq, Repr

/-- A fault handed to the CAM (R131, R155): its source, table and context, the failing page and how it failed. -/
structure FaultReq where
  source : Source
  table : Nat
  ctx : Handle
  cmd : Option CmdRef
  tag : Nat
  va : Nat
  pa : Nat
  entry : Nat
  level : Nat
  cause : Cause
  access : Nat
  deriving DecidableEq, Repr

/-- The body of HOSTBACK_SET (R525). -/
structure HostbackBody where
  va : Nat
  length : Nat
  hostIova : Nat
  pool : Handle
  permR : Bool
  permW : Bool
  permA : Bool
  readers : List Nat
  deriving DecidableEq, Repr

/-- The body of SCRUB (R526). -/
structure ScrubBody where
  stackMask : BitVec 16
  firstSlab : Nat
  slabs : Nat
  period : Nat
  rewrite : Bool
  deriving DecidableEq, Repr

/-- A request at a channel block: table slot (none for firmware and fills), local address, length and the tag of its issuer. -/
structure MemReq where
  table : Option Nat
  pa : Nat
  len : Nat
  tag : Nat
  deriving DecidableEq, Repr

/-- An entry of LNK_ROUTE. -/
structure RouteEntry where
  valid : Bool := false
  altValid : Bool := false
  alt : Nat := 0
  port : Nat := 0
  deriving DecidableEq, Repr

/-- The payload of HELLO (R236). -/
structure HelloBody where
  versions : Nat
  time : Bool
  node : Nat
  dedicated : Nat
  shared : Nat
  deriving DecidableEq, Repr

/-- The body of QUEUE_CREATE (R527). -/
structure QueueBody where
  context : Handle
  size : Nat
  ringObject : Handle
  cplObject : Handle
  ringOffset : Nat
  cplOffset : Nat
  dbPage : Nat
  dbSlot : Nat
  event : Handle
  cookie : Nat
  deriving DecidableEq, Repr

/-- The body of EVENT_CREATE (R527). -/
structure EventBody where
  ringObject : Handle
  size : Nat
  ringOffset : Nat
  vector : Nat
  moderation : Nat
  dbPage : Nat
  dbSlot : Nat
  deriving DecidableEq, Repr

/-- The body of MIRROR_SET (R527). -/
structure MirrorBody where
  counter : Handle
  event : Handle
  hostAddr : Nat
  cookie : Nat
  threshold : Nat
  deriving DecidableEq, Repr

/-- The body of MODEL_CREATE (R529). -/
structure ModelBody where
  va : Nat
  size : Nat
  backingKind : Nat
  backing : Nat
  offset : Nat
  deriving DecidableEq, Repr

/-- The body of STEP_OPEN (R544). -/
structure StepBody where
  step : Nat
  commitCtr : Handle
  commitValue : Nat
  models : List Handle
  deriving DecidableEq, Repr

/-- The copy body of COPY and FILL. -/
structure CopyBody where
  srcVa : Nat
  dstVa : Nat
  srcPitch : Nat
  dstPitch : Nat
  rowBytes : Nat
  rows : Nat
  channel : Handle
  flags : Nat
  deriving DecidableEq, Repr

/-- The ADVISE body. -/
structure AdviseBody where
  va : Nat
  length : Nat
  mask : Nat
  home : Nat
  shareReads : Nat
  readerCount : Nat
  nodes : List Nat
  deriving DecidableEq, Repr

/-- The bodies of NME commands (R291, R304 to R321), decoded. -/
inductive NmeBody where
  | attnDecode (poolVa splitVa qVa outVa btOffset qpos window scale splitCount qHeads qFormat outMode outFormat : Nat)
  | kvAppend (poolVa entryVa srcVa first tokens srcFormat : Nat)
  | kvCopy (poolVa pairsVa pairs tokens : Nat)
  | kvCompact (poolVa srcBtVa keepVa freeVa dstBtVa resultVa srcBlocks freeCount : Nat)
  | gather (srcVa indexVa dstVa srcPitch dstPitch rowBytes count srcRows : Nat)
  | scatterAdd (srcVa indexVa dstVa weightVa srcPitch dstPitch elems count dstRows srcFormat : Nat)
  | topk (srcVa dstVa srcPitch n indexBase rows k srcFormat : Nat)
  | merge (srcVa dstVa srcStride inputs records outMode outFormat : Nat)
  | attnTask (fold : Nat) (final : Bool) (pool : PoolDesc) (query : List Byte) (qpos window scale qHeads qFormat btOffset : Nat)
      (entries : List SplitEntry)
  | selftest
  deriving DecidableEq, Repr

/-- An NME command: the header of R291 and its body. -/
structure NmeCmd where
  engine : Nat
  tag : Nat
  body : NmeBody
  deriving DecidableEq, Repr

/-- The body of a queue descriptor by its class (R431), decoded. -/
inductive QBody where
  | names (handles : List Handle) (wellFormed : Bool)
  | nme (c : NmeCmd) (raw : List Byte)
  | copy (b : CopyBody)
  | fill (b : CopyBody)
  | prefetch (va length target flags : Nat)
  | advise (b : AdviseBody)
  | invalidate (va pages : Nat)
  | nop
  | launch (seat coreMask entryVa : Nat) (args : List Byte)
  | badNme (status : Status)
  | unsupported
  deriving DecidableEq, Repr

/-- A queue descriptor (R430), decoded. -/
structure Desc where
  phase : Bool
  fencePrev : Bool
  notify : Bool
  step : Bool
  seq : Nat
  cls : Nat
  op : Nat
  sigOp : Nat
  sigNode : Nat
  waitCtr : Handle
  sigCtr : Handle
  waitValue : Nat
  sigValue : Nat
  headerClean : Bool
  body : QBody
  deriving DecidableEq, Repr

/-- The outcome of a fetch read of a ring entry: the 128 bytes, or the failures of R613. -/
inductive FetchRead where
  | bytes (b : List Byte)
  | poisoned
  | fault
  deriving DecidableEq, Repr

/-- Which piece of a partial record a fold port takes (R280, R282): the fold, the record index and the offset in the record. -/
structure FoldPieceIn where
  fold : Nat
  record : Nat
  offset : Nat
  deriving DecidableEq, Repr

/-- The completion of a host read (R478, R479). -/
inductive HostCpl where
  | data (bytes : List Byte)
  | ur
  | ca
  | ep
  deriving DecidableEq, Repr

/-- The completion of an ATS translation (R476, R477): a host address granted, or access denied. -/
inductive AtsCpl where
  | granted (addr : Nat)
  | deniedAccess
  deriving DecidableEq, Repr

/-- The answer of the host to a Page Request (R477). -/
inductive PriResponse where
  | success
  | invalidRequest
  | responseFailure
  deriving DecidableEq, Repr

/-- The messages by which one hub asks for and answers a directory entry (R79, R521): the question carries the epoch that was rejected
(R75). -/
inductive ResolveMsg where
  | ask (src : CtrlFrom) (globalId : Nat) (seat : SeatAt)
  | answer (src : CtrlFrom) (globalId seat : Nat) (e : SeatEntry)
  deriving DecidableEq, Repr

/-- Who sends a message about a directory entry. -/
def ResolveMsg.src : ResolveMsg → CtrlFrom
  | .ask src _ _ => src
  | .answer src _ _ _ => src

/-- M2S messages of CXL.mem HDM-DB (R404). -/
inductive HdmMsg where
  | memRdAny | memRdShared | memRdInvalid | memInvAny | memInvInvalid
  | memWr (bytes : List Byte) | memWrPtl (bytes : List Byte) (mask : List Bool)
  | biRsp (held : LineState)
  deriving DecidableEq, Repr

/-- Partner protocol errors of R488. -/
inductive ProtoErr where
  | malformedTlp | unexpectedCompletion | receiverOverflow | poisonedTlp | linkLayer | completerAbort | ideFailure
  deriving DecidableEq, Repr

/-- Requests that R487 answers UR. -/
inductive BadReq where
  | io | locked | atomicOp | outsideBars | mseClear | nonConfigD3 | badBar0 | bar2Invalid | cfgFunction | peerTranslated
  deriving DecidableEq, Repr

end Sys2Proof
end

