-- ==== Sys2Proof/Syntax.lean ====
section
/-! DEFINITION. The commands of the hub: one constructor per row of spec/opcode_table.json, in the table's order, with the
operands that the rules of the row name. A command that stands for an event inside the hub (a timer, a grant, the end of a
copy) names which object it happens to; whether it is due is checked against the state by its meaning. -/

namespace Sys2Proof

/-- The commands, one per row of spec/opcode_table.json. -/
inductive Instr where
  -- start-up, clocks and telemetry
  | coldReset (lowNs : Nat)
  | fusesPhase (words : FuseWords)
  | fuseRdyTimeout
  | clocksPhase (locked : BitVec 12)
  | sramPhase
  | controlCorePhase
  | stacksPhase (present trained : BitVec 16) (spares : List SpareEntry)
  | checkersPhase (pass : BitVec 16)
  | fillPhase
  | release
  | refclkLoss
  | pllLossOfLock (pll : Fin 12)
  | pllRelock (pll : Fin 12)
  | pllRelockFail (pll : Fin 12)
  | telemetryFrame (frame : BitVec 24)
  | sensorStale (sensor : Fin 32)
  -- BAR0 registers
  | bar0HoleAccess (port : Fin 2) (offset : BitVec 25) (wide write : Bool)
  | bar0BadAccess (port : Fin 2) (offset : BitVec 25) (size : Nat) (write : Bool)
  | registerWrite (port : Fin 2) (offset : BitVec 25) (wide : Bool) (value : BitVec 64)
  | rw1cClear (port : Fin 2) (offset : BitVec 25) (wide : Bool) (value : BitVec 64)
  | countRestart (port : Fin 2) (offset : BitVec 25) (wide : Bool) (value : BitVec 64)
  | sysTimeSrcWrite (port : Fin 2) (value : BitVec 32)
  -- table time and the ante
  | time (lp : Fin 16) (tick : Tick) (sender : TimeState)
  | timeSourceSilence
  | timeSend (lp : Fin 16)
  | anteDrawRequest (cls inst : Nat) (recovery : Bool)
  | anteGrant
  | anteRelease (cls inst : Nat)
  | anteWithdraw (cls inst : Nat)
  | fabricAdmit (src dst vc : Nat) (credit : Bool)
  -- reseating
  | reseat (c : Caller) (b : ReseatBody)
  | reseatFwd (src : CtrlFrom) (b : ReseatBody)
  | prepare (src : CtrlFrom) (p : PrepareBody)
  | prepareAnswer (src : CtrlFrom) (globalId : Nat) (seat : SeatAt) (answer : Status)
  | reseatDecisionDeadline (globalId seat : Nat)
  | decision (src : CtrlFrom) (globalId : Nat) (seat : SeatAt) (commit : Bool)
  | reseatStatusPoll (k : Fin 64)
  | status (src : CtrlFrom) (globalId : Nat) (seat : SeatAt)
  | reseatSwitch (k : Fin 64)
  | clusterClearingEnd (cluster : Fin 120)
  | switched (src : CtrlFrom) (globalId seat epoch binding : Nat)
  | cmd (lp : Fin 16) (p : Packet) (sub : SubCmd)
  | staleAnswer (tag : Nat)
  | staleResendDelay (tag : Nat)
  | resolve (m : ResolveMsg)
  | channelMoveStart
  | granuleCopy (binding : Nat) (decs : List (Nat × Decoded))
  | aliasRelease (c : Caller) (seat : Nat)
  -- translation
  | tile (src : Source) (table : Fin 256) (d : TileDesc) (data : List Byte)
  | pieceComplete (src : Source) (tag piece : Nat) (st : Status) (data : List Byte)
  | walkStart
  | walkPteRead (walker : Fin 96)
  | walkerGroupIdle (group : Fin 12)
  | invalidate (r : CmdRef)
  | gararnInvalidate (c : Caller) (va pages : Nat)
  | shootdownStart
  | microTlbAck (id : Nat) (cluster : Fin 120)
  | shootdownDrainEnd (id : Nat)
  | shootdownAckTimeout (id : Nat) (cluster : Fin 120)
  | setRoot (c : Caller) (root : Nat) (ad : Bool)
  -- faults and migration
  | faultCamLookup (f : FaultReq)
  | faultRingSet (c : Caller) (object event : Handle) (offset : Nat)
  | faultResolve (c : Caller) (record : Nat)
  | faultFail (c : Caller) (record : Nat)
  | waitRestoreRetry (ctx : Handle)
  | hostbackSet (c : Caller) (b : HostbackBody)
  | hostbackClear (c : Caller) (object : Handle)
  | advise (r : CmdRef)
  | backgroundAction (object : Handle)
  | prefetch (r : CmdRef)
  | blockMoveStart
  | blockMoveCopyDone (object : Handle) (block : Nat) (st : Status) (hostData : List Byte)
  | faultForward (src : CtrlFrom) (globalId va : Nat)
  -- memory path
  | refresh (stack : Fin 16) (hot : Bool) (retrainOk : Bool)
  | retrain (c : Caller) (stack kind : Nat)
  | rowMode (c : Caller) (row mode : Nat)
  | slabClass (c : Caller) (stack slab cls : Nat)
  | memoryRead (r : MemReq) (dec : Decoded)
  | memoryWrite (r : MemReq) (data : List Byte)
  | memoryAtomic (r : MemReq) (atom : Nat) (data : List Byte)
  | mergeEntryTimeout (stack : Fin 16) (codeblock : Nat) (dec : Decoded)
  | mergeFlush (stack : Fin 16) (codeblock : Nat) (dec : Decoded)
  | bucketLeak (stack : Fin 16)
  | scrub (c : Caller) (b : ScrubBody)
  | scrubSlice (decs : List (Nat × Decoded))
  | softSpare (stack : Fin 16) (row : Nat) (decs : List Decoded)
  | slabRefillEnd (stack : Fin 16)
  | refillHoldExpiry (stack : Fin 16) (slab : Fin 48)
  | keyEraseEnd (slot : Nat)
  -- links
  | lanesReady (lp : Fin 16)
  | helloRepeat (lp : Fin 16)
  | hello (lp : Fin 16) (b : HelloBody)
  | echo (lp : Fin 16) (seq : Nat)
  | echoReply (lp : Fin 16) (seq : Nat)
  | echoRepeat (lp : Fin 16)
  | flitTransmit (lp : Fin 16)
  | flitReceive (lp : Fin 16) (f : Flit) (packets : List Packet)
  | nakRepeat (lp : Fin 16)
  | flitQueueTimeout (lp : Fin 16)
  | linkAnteIdle (lp : Fin 16)
  | linkSilence (lp : Fin 16)
  | phyLaneLoss (lp : Fin 16)
  | linkRetrainTimer (lp : Fin 16)
  | rd (lp : Fin 16) (p : Packet)
  | atomic (lp : Fin 16) (p : Packet)
  | wr (lp : Fin 16) (p : Packet)
  | rdData (p : Packet)
  | cmpl (p : Packet)
  | e2eAck (src eseq : Nat)
  | e2eAckTimer (src : Nat)
  | e2eReplayTimeout (dst : Nat)
  | e2eGiveup (dst eseq : Nat)
  | e2eSkip (src eseq : Nat)
  | sigApplyHeld (src : Nat)
  | ctrl (lp : Fin 16) (src : CtrlFrom) (globalId code seat : Nat) (st : Status) (detail : Nat)
  | join (src : CtrlFrom) (globalId tenant : Nat)
  | routeSet (c : Caller) (first : Nat) (entries : List RouteEntry)
  | linkDisable (c : Caller) (port : Nat) (timeFlag : Bool)
  | linkEnable (c : Caller) (port : Nat) (timeFlag : Bool)
  | linkRetrain (c : Caller) (port : Nat) (timeFlag : Bool)
  | e2eCfg (c : Caller) (timeout giveup : Nat)
  -- near-memory attention
  | attnDecode (r : CmdRef)
  | attnPart (lp : Fin 16) (p : Packet) (sub : SubCmd)
  | queryPiece (lp : Fin 16) (p : Packet) (sub : SubCmd)
  | attnCancel (lp : Fin 16) (p : Packet) (sub : SubCmd)
  | subcmdResend (tag : Nat)
  | foldSlotWait
  | engineSelect (e : Fin 16)
  | engineCommandStart (e : Fin 16)
  | engineTaskEnd (e : Fin 16)
  | foldPiece (p : FoldPieceIn)
  | partial_ (lp : Fin 16) (p : Packet)
  -- near-memory commands
  | kvAppend (e : Fin 16)
  | kvCopy (e : Fin 16)
  | kvCompact (e : Fin 16)
  | gather (e : Fin 16)
  | scatterAdd (e : Fin 16)
  | topk (e : Fin 16)
  | merge (e : Fin 16)
  | selftest (e : Fin 16)
  | selftestDrainTimeout (e : Fin 16)
  | selftestStart (e : Fin 16)
  | selftestEnd (e : Fin 16) (pass : Bool)
  | nmeSelftest (c : Caller) (engine : Nat)
  -- trick counters
  | signalAdd (r : CtrReq)
  | signalMax (r : CtrReq)
  | read (r : CtrReq)
  | waitGe (r : CtrReq)
  | queueWaitRetry (queue : Handle)
  | signalRelease (id : Nat)
  | sigAdd (lp : Fin 16) (p : Packet)
  | sigMax (lp : Fin 16) (p : Packet)
  | sigRead (lp : Fin 16) (p : Packet)
  | sigAns (p : Packet) (value : Nat)
  | wakeWindow
  | counterWindowAdd (port : Fin 2) (page : Fin 4096) (window : Fin 128) (value : BitVec 64)
  | counterWindowMax (port : Fin 2) (page : Fin 4096) (window : Fin 128) (value : BitVec 64)
  | counterWindowRead (port : Fin 2) (page : Fin 4096) (window : Fin 128)
  | mirrorWrite (index : Nat)
  | contextSave (ctx : Handle)
  | misdealScan
  | renege (table : Fin 256)
  | renegeReport (src : CtrlFrom) (globalId : Nat)
  -- coherence
  | rdShared (m : CohMsg)
  | rdOwn (m : CohMsg)
  | upgrade (m : CohMsg)
  | rdNa (m : CohMsg)
  | wb (m : CohMsg)
  | evictClean (m : CohMsg)
  | wrNa (m : CohMsg)
  | atomH (m : CohMsg)
  | snpData (m : CohMsg)
  | snpInv (m : CohMsg)
  | snpCur (m : CohMsg)
  | snpRsp (from_ : Nat) (m : CohMsg)
  | data (m : CohMsg)
  | grant (m : CohMsg)
  | ack (m : CohMsg)
  | wbAck (m : CohMsg)
  | hdmDbMessage (port : Fin 2) (offset : Nat) (m : HdmMsg) (tag : Nat)
  | snoopTimeout (line agent : Nat)
  | sliceAnteIdle (slice : Fin 8)
  | hostSnoop (port : Fin 2) (addr : Nat)
  -- objects
  | tableCreate (c : Caller) (globalId tenant keySource leadNode : Nat)
  | ctxCreate (c : Caller) (saveObject : Handle) (saveOffset : Nat)
  | queueCreate (c : Caller) (b : QueueBody)
  | memCreate (c : Caller) (kind : Nat) (extents : List (Nat × Nat))
  | eventCreate (c : Caller) (b : EventBody)
  | counterCreate (c : Caller) (context : Handle) (initial : Nat)
  | channelCreate (c : Caller) (context : Handle) (kind port : Nat)
  | destroy (c : Caller) (h : Handle)
  | destroyComplete (h : Handle)
  | objInfo (c : Caller) (h : Handle)
  | cmdAbort (c : Caller) (queue : Handle) (pos seq : Nat)
  | dbPage (c : Caller) (page : Nat)
  | dbPageRelease (c : Caller) (page : Nat)
  | dbCounter (c : Caller) (page window : Nat) (counter : Handle)
  | mirrorSet (c : Caller) (b : MirrorBody)
  | mirrorDetach (c : Caller) (counter : Handle)
  | tableEventSet (c : Caller) (event : Handle) (kinds : Nat)
  -- queues
  | doorbellWrite (port : Fin 2) (page : Fin 4096) (slot : Fin 128) (value : BitVec 32)
  | eventConsumerWrite (port : Fin 2) (page : Fin 4096) (slot : Fin 128) (value : BitVec 32)
  | descriptorFetch (queue : Handle) (r : FetchRead)
  | descriptorReread (queue : Handle) (r : FetchRead)
  | dispatch (queue : Handle)
  | nop (r : CmdRef)
  | copy (r : CmdRef)
  | fill (r : CmdRef)
  | launch (r : CmdRef)
  | done (cluster : Fin 120) (st : Status) (tag : Nat) (cores : BitVec 64)
  | commandCommit (r : CmdRef)
  | completionWrite (r : CmdRef)
  | msixModerationExpiry (event : Handle)
  -- copy engines and the host endpoint
  | copyBurst (k : Fin 40)
  | copyBurstDone (k : Fin 40) (hostData : List Byte)
  | bar2Request (port : Fin 2) (offset : BitVec 30) (write : Bool) (len : Nat) (data : List Byte) (ep : Bool) (tag : Nat)
  | hdmRequest (port : Fin 2) (offset : BitVec 30) (write : Bool) (data : List Byte) (tag : Nat)
  | unsupportedRequest (port : Fin 2) (kind : BadReq) (posted : Bool)
  | protocolError (port : Fin 2) (kind : ProtoErr)
  | commandRegisterWrite (port : Fin 2) (value : BitVec 16)
  | powerStateWrite (port : Fin 2) (d3hot : Bool)
  | hostReadCompletion (port : Fin 2) (tag : Nat) (c : HostCpl)
  | completionTimeout (port : Fin 2) (tag : Nat)
  | translationCompletion (port : Fin 2) (page : Nat) (c : AtsCpl)
  | pageRequestResponse (port : Fin 2) (page : Nat) (r : PriResponse)
  | atsInvalidate (port : Fin 2) (page count itag : Nat)
  | endpointReset (port : Fin 2)
  | confirmRead (port : Fin 2)
  | ideCheckFailed (port : Fin 2) (stream : Fin 8)
  | ideKm (port : Fin 2) (session : Nat) (stream : Fin 8)
  | getVersion (port : Fin 2)
  | getCapabilities (port : Fin 2)
  | negotiateAlgorithms (port : Fin 2)
  | getDigests (port : Fin 2)
  | getCertificate (port : Fin 2) (slot : Nat)
  | challenge (port : Fin 2)
  | getMeasurements (port : Fin 2)
  | keyExchange (port : Fin 2)
  | finish (port : Fin 2) (session : Nat)
  | keyUpdate (port : Fin 2) (session : Nat)
  | heartbeat (port : Fin 2) (session : Nat)
  | endSession (port : Fin 2) (session : Nat)
  | tenantKey (port : Fin 2) (session : Option Nat) (globalId : Nat) (dataKey tweakKey : BitVec 256)
  | attach (c : Caller) (port pasid : Nat)
  | hostPort (c : Caller) (port : Nat)
  | windowSet (c : Caller) (window : Nat) (write clear : Bool) (va : Nat)
  | hdmSet (c : Caller) (port : Nat) (split clear : Bool) (va : Nat)
  | portCfg (c : Caller) (port cxlAllow maxSpeed : Nat)
  -- mailboxes, firmware and dumps
  | mbxGo (port : Fin 2) (mbx : Fin 64) (value : BitVec 32)
  | requestExecute (mbx : Fin 64)
  | gararnHello (c : Caller) (versions : Nat)
  | query (c : Caller) (id index : Nat)
  | mbxAssign (c : Caller) (mailbox : Nat) (table : Handle)
  | fwStage (c : Caller) (offset : Nat) (bytes : List Byte)
  | fwActivate (c : Caller) (keyHashOk signatureOk digestOk : Bool)
  | handoverTimeout
  | dumpRead (c : Caller) (slot offset length : Nat)
  | dumpClear (c : Caller) (slot : Nat)
  | dumpTake (c : Caller) (slot : Nat)
  | renegeSet (c : Caller) (ms : Nat)
  | waitQuota (c : Caller) (quota : Nat)
  | walkLimit (c : Caller) (limit : Nat)
  | watchdogExpiry
  | coreFatalError (ecc : Bool)
  | coreRestart (digestOk : Bool) (badTables badBoxes : List Nat)
  | coreGateEntry
  | coreGateWake
  -- serving
  | stepOpen (c : Caller) (b : StepBody)
  | stepKill (c : Caller) (step action : Nat)
  | stepAbort (src : CtrlFrom) (globalId step action : Nat)
  | stepStatus (c : Caller) (step : Nat)
  | preempt (c : Caller)
  | resume (c : Caller)
  | publish (c : Caller) (va length p : Nat)
  | handSet (c : Caller) (pool : Handle)
  | modelCreate (c : Caller) (b : ModelBody)
  | modelLoad (c : Caller) (model : Handle)
  | modelLoadDone (model : Handle) (ok : Bool) (data : List Byte)
  | modelDiscard (c : Caller) (model : Handle)
  | modelPin (c : Caller) (model : Handle)
  | modelUnpin (c : Caller) (model : Handle)
  -- power
  | powerCap (c : Caller) (watts : Nat)
  | powerMode (c : Caller) (mode periodUs : Nat)
  | powerClear (c : Caller)
  | sensorCfg (c : Caller) (sensor cls mv max : Nat)
  | powerCore (c : Caller) (parkUs coreMw : Nat)
  | powerWindow
  | phaseBoundary
  | coreIdlePark (cluster : Fin 120) (core : Fin 64)
  | coreOnRequest (cluster : Fin 120) (mask : BitVec 64)
  | coreOnAck (cluster : Fin 120)
  -- interrupts and the rest
  | irqClaim (port : Fin 2) (target : Fin 9)
  | irqComplete (port : Fin 2) (target : Fin 9) (value : BitVec 32)
  | irqSrcCfgWrite (port : Fin 2) (source : Fin 1023) (value : BitVec 32)
  | irqTgtCfgWrite (port : Fin 2) (target : Fin 9) (value : RegWrite)
  | hostLinkUp (port : Fin 2) (cxl : Bool) (speed width : Nat)
  | msixEnable (port : Fin 2)
  | memoryObjectRefillEnd (h : Handle)
  | vddAonLoss
  | doeDiscovery (port : Fin 2) (index : Nat)
  deriving DecidableEq, Repr

end Sys2Proof
end

