-- ==== Sys2Proof/Config.lean ====
section
/-! DEFINITION. What the spec leaves open, as constants without a body: nothing in Lean can see a value of them, so a
statement that holds of the model holds for every choice. notes/assumptions says which rule leaves each one open. -/

namespace Sys2Proof

/-- The TENANT of the flit of an E2E_ACK to a node from which no packet of a tenant has come: R222 gives 0 to MGMT and NULL only
(notes/assumptions/149). -/
opaque Config.ackTenant : Nat → Nat

/-- A fresh free 32-bit value for each number: FP32 sums whose order the hardware does not fix (R289). -/
opaque Config.free32 : Nat → BitVec 32

/-- What a byte written under one key reads as under another (R186, R219): a function of the data key and the tweak key read with, the tweak,
the byte's place in its data unit, the key it was written under and the stored byte. The spec calls that value unspecified, and says that it
derives from no other tenant's data. -/
opaque Config.decryptOther : BitVec 256 → BitVec 256 → BitVec 128 → Nat → Nat → Byte → Byte

/-- The keys that the hub's random generator yields (R188), by number. -/
opaque Config.hubKey : Nat → BitVec 256

/-- A byte that the spec leaves unspecified (outputs of an aborted command, R445; overlapping appends, R309). -/
opaque Config.freeByte : Nat → Byte

/-- The order in which the adds of one SCATTER_ADD take effect (R317): the place of each add of a command. -/
opaque Config.addOrder : Nat → Nat → Nat

/-- The leaky bucket of a stack-local row of a stack (R204): the map to pseudo-channel and octant is fixed and not seen. -/
opaque Config.bucketOf : Nat → Nat → Nat

/-- The set of the TLB in which a virtual page of a table lies, and the set of the walk cache for a pointer (R113 to R115). -/
opaque Config.tlbSet : Nat → Nat → Nat
opaque Config.walkCacheSet : Nat → Nat → Nat

/-- The sum of the codeblock cache's set index: the set of a codeblock (128 sets, R195). -/
opaque Config.cacheSet : Nat → Nat

/-- The l of two combined heads (R275) from the two heads' m and l: FP32 rounding and the exponent lanes leave it open. -/
opaque Config.foldL : BitVec 32 → BitVec 32 → BitVec 32 → BitVec 32 → BitVec 32

/-- One element of o of two combined heads (R275), from the two heads' m and their elements. -/
opaque Config.foldO : BitVec 32 → BitVec 32 → BitVec 32 → BitVec 32 → BitVec 32

/-- Whether the average of a phase's learned power and a new window's is rounded up (R569): how it is rounded is left open. -/
opaque Config.phaseRoundsUp : Nat → Nat → Bool

/-- The version number and the security version of the ROM image (R532): the spec gives no value of either. -/
opaque Config.romVersion : Nat
opaque Config.romSvn : Nat

/-- The outcomes of the hash, signature and digest checks of a staged image (R535): the cryptography is not modelled. -/
opaque Config.keyHashOk : List Byte → Bool
opaque Config.signatureOk : List Byte → Bool
opaque Config.digestOk : List Byte → Bool

/-- Section lengths of a crash dump (R540): the trace and journal sizes are not fixed by the spec. -/
opaque Config.dumpLength : Nat → Nat

/-- Bytes of a crash dump at an offset (R541): register and trace contents of the control core are not modelled. -/
opaque Config.dumpByte : Nat → Nat → Byte

end Sys2Proof
end

