-- ==== Sys2Proof/Machine/State.lean ====
section
/-! DEFINITION. Everything the spec gives the hub, as plain data: the registers of its units, its queues, buffers, tables and
counters, what it has sent, and the commands that wait. The default value of a field is its value right after a cold reset. -/

namespace Sys2Proof.Machine

/-- The hub has no condition in which the block itself stops beyond all commands: a stop of the hub (R30, R57) still takes a
cold reset. No command faults. Safe: there is no constructor, so nothing can be claimed of one. -/
inductive Fault where
  deriving DecidableEq, Repr

/-- Refusals. -/
inductive Refusal where
  /-- Raised by exec's arm of a command that has no meaning yet. Safe: nothing is claimed of such a command. -/
  | notModelled (mnemonic : String)
  deriving DecidableEq, Repr

-- outputs ---------------------------------------------------------------------------------------------------------------

/-- What the hub sends at its ports, in the order sent. This record is the model's own field: the spec gives the messages. -/
inductive Out where
  | bar0Read (port : Nat) (data : Nat)
  | ur (port : Nat)
  | aer (port : Nat) (name : String)
  | memDone (tag : Nat) (st : Status) (data : List Byte)
  | tileDone (src : Source) (tag : Nat) (st : Status) (data : List Byte)
  | cfResponse (cluster core tag : Nat) (st : Status) (value : Nat)
  | cfLaunch (cluster table tag coreMask entryVa : Nat) (args : List Byte)
  | cfAbort (cluster tag : Nat)
  | utlbInval (cluster id va pages : Nat)
  | wake (cluster mask : Nat)
  | coreOn (cluster mask : Nat)
  | coreOff (cluster mask : Nat)
  | rate (code : Nat)
  | coh (dst : Nat) (type : Nat) (m : CohMsg)
  | cohHost (port : Nat) (name : String) (m : CohMsg)
  | packet (dst : Nat) (p : Packet)
  | ctrl (dst code globalId seat : Nat) (st : Status) (arg : Nat)
  | seatMsg (dst code globalId seat epoch : Nat) (st : Status) (arg : Nat)
  | prepare (dst : Nat) (p : PrepareBody)
  | reseatFwd (dst : Nat) (b : ReseatBody)
  | seatEntry (dst globalId seat : Nat) (e : SeatEntry)
  | subcmd (dst seat epoch tag tenant : Nat) (c : SubCmd)
  | subReply (dst tag : Nat) (st : Status)
  | link (lp : Nat) (name : String) (arg : Nat)
  | flit (lp : Nat) (f : Flit)
  | hello (lp : Nat) (b : HelloBody)
  | hostWrite (port pasid addr : Nat) (data : List Byte) (relaxed : Bool) (ep : Bool)
  | hostRead (port pasid addr len tag : Nat)
  | msix (port vector : Nat)
  | bar2 (port tag : Nat) (st : Status) (data : List Byte)
  | hdm (port tag : Nat) (st : Status) (data : List Byte)
  | ats (port : Nat) (name : String) (arg : Nat)
  | spdm (port : Nat) (name : String) (st : Status)
  | hostSnoop (port : Nat) (name : String)
  | leaves (dst globalId va : Nat) (bytes : List Byte)
  | coreIrq
  | partialRecord (dst fold record : Nat) (bytes : List Byte)
  deriving DecidableEq, Repr

-- SYS -------------------------------------------------------------------------------------------------------------------

/-- A waiting ante draw (R38 to R41). -/
structure AnteDraw where
  cls : Nat
  inst : Nat
  recovery : Bool
  units : Nat
  since : Tick
  deriving DecidableEq, Repr

/-- A granted ante draw with the parts taken from the ordinary pool and from the kitty (R40). -/
structure AnteHeld where
  cls : Nat
  inst : Nat
  recovery : Bool
  ordinary : Nat
  kitty : Nat
  deriving DecidableEq, Repr

/-- A fabric transfer that its source holds for lack of a credit (R21), since the tick given. -/
structure HeldTransfer where
  src : Nat
  dst : Nat
  vc : Nat
  since : Tick
  deriving DecidableEq, Repr

/-- SYS: identity, start-up, error capture, table time, PLLs, telemetry and the ante. slewGap and slewBack are the last slewed rate (R34):
one tick withheld (slewBack) or added in each slewGap ticks; 0 is no slew. -/
structure SysSt where
  phase : Phase := .fuses
  fuseStuck : Bool := false
  stopped : Bool := false
  fuse : FuseWords := {}
  nodeId : Nat := 0
  swErr : BitVec 3 := 0
  swErrAddr : BitVec 25 := 0
  time : Tick := 0
  timeRuns : Bool := false
  srcEnable : Bool := false
  srcAltValid : Bool := false
  srcAltPort : Nat := 0
  srcPort : Nat := 0
  timeState : TimeState := .free
  offset : Int := 0
  activePort : Nat := 0
  timeFault : Bool := false
  srcLost : Bool := false
  codes : Nat := 0
  lastCode : Tick := 0
  lastSlew : Tick := 0
  withhold : Bool := false
  slewGap : Nat := 0
  slewBack : Bool := false
  pllLost : BitVec 12 := 0
  pllLock : BitVec 12 := 0
  pllFailed : BitVec 12 := 0
  pllOut : BitVec 12 := 0
  telStale : BitVec 32 := 0xFFFFFFFF
  telNow : FMap Nat := []
  telSum : FMap Nat := []
  telCount : FMap Nat := []
  telLast : FMap Nat := []
  anteLimit : Nat := 1520
  anteHeld : List AnteHeld := []
  anteWait : List AnteDraw := []
  anteMaxWait : Nat := 0
  fabricHeld : List HeldTransfer := []
  fabricSent : Nat := 0
  escape : FMap Nat := []
  aonValid : Bool := false
  aonCause : Nat := 0
  aonTime : Tick := 0
  coresOff : Bool := true
  cfOpen : Bool := false
  deriving DecidableEq, Repr

-- BND -------------------------------------------------------------------------------------------------------------------

/-- A binding of the binding table (BND_SEAT, R64), with what an ARMED binding waits for. -/
structure Binding where
  epoch : Nat := 0
  seat : Nat := 0
  table : Nat := 0
  weight : Nat := 0
  state : BindState := .free
  armEpoch : Nat := 0
  armT : Tick := 0
  held : Bool := false
  deriving DecidableEq, Repr

/-- A reseat the lead hub has under way (R81 to R85, R614); newFailed marks that the new binding's hub has told of its failure after COMMIT
(R89). -/
structure LeadReseat where
  req : ReseatBody
  caller : Option (Fin 64)
  fwdFrom : Option Nat
  newEpoch : Nat
  oldNode : Nat
  oldBinding : Nat
  oldBound : Bool
  accepted : List Nat
  decided : Option Bool
  firstRefusal : Option Status
  oldReported : Bool
  newReported : Bool
  newFailed : Bool := false
  deriving DecidableEq, Repr

/-- A reseat slot of a member hub (BND_RESEAT_T, BND_RESEAT_STAT, BND_RESEAT_BIND); cleared marks that the clearing of the old cluster has
been reported before this hub has switched (R83, R85). -/
structure ReseatSlot where
  t : Tick := 0
  newEpoch : Nat := 0
  seat : Nat := 0
  table : Nat := 0
  phase : ReseatPhase := .idle
  oldHere : Bool := false
  newHere : Bool := false
  old : Nat := 0
  new : Nat := 0
  kind : SeatKind := .cluster
  weight : Nat := 0
  newNode : Nat := 0
  unseat : Bool := false
  polled : Nat := 0
  cleared : Bool := false
  deriving DecidableEq, Repr

/-- A channel move with its alias (R90 to R96): the old slab's binding, where its bytes go, and how far the copy is: whether requests to
the next granule are held, and, for a copy to another hub, how many of its writes are unanswered, what they carry, and whether one of
them failed. -/
structure ChannelMove where
  old : Nat
  table : Nat
  seat : Nat
  node : Nat
  new : Nat
  t : Tick
  running : Bool
  granules : Nat
  done : Bool
  hold : Bool := false
  left : Nat := 0
  sent : List Byte := []
  again : Bool := false
  deriving DecidableEq, Repr

/-- What goes to a seat: a message of R226, or a near-memory command of this hub whose share does not take it. -/
inductive SeatMsg where
  | sub (c : SubCmd)
  | nme (c : NmeCmd)
  deriving DecidableEq, Repr

/-- A message of a command that goes to a seat of another binding and has not ended (R79, R80): its tag, how often in a row it was
answered STALE, and the messages that are resent with it. -/
structure StaleTx where
  tag : Nat
  table : Nat
  seat : Nat
  epoch : Nat
  count : Nat
  waiting : Bool
  resolving : Bool
  msg : SeatMsg
  cmd : Option CmdRef
  rest : List SubCmd := []
  rerun : Bool := false
  deriving DecidableEq, Repr

/-- A message held for an ARMED binding or for a cluster that is still being cleared (R77, R85). -/
structure HeldCmd where
  binding : Nat
  epoch : Nat
  packet : Packet
  sub : SubCmd
  deriving DecidableEq, Repr

/-- A request that this hub passed to a lead hub and has not answered: RESEAT (R521) or the JOIN of TABLE_CREATE (R524). -/
structure CtrlAsk where
  code : Nat
  mbx : Fin 64
  dst : Nat
  globalId : Nat
  seat : Nat
  tenant : Nat
  keySource : Nat
  deriving DecidableEq, Repr

/-- A cluster that is being cleared after a reseat (R84): whom to tell when the clearing ends. -/
structure Clearing where
  globalId : Nat
  lead : Nat
  seat : Nat
  epoch : Nat
  newNode : Nat
  newBinding : Nat
  deriving DecidableEq, Repr

/-- BND. -/
structure BndSt where
  seats : FMap Binding := []
  lead : List LeadReseat := []
  slots : FMap ReseatSlot := []
  moves : List ChannelMove := []
  stale : List StaleTx := []
  held : List HeldCmd := []
  asked : List CtrlAsk := []
  clearing : FMap Clearing := []
  staleCnt : Nat := 0
  spareMoves : FMap Tick := []
  deriving DecidableEq, Repr

-- tables ----------------------------------------------------------------------------------------------------------------

/-- The step of a table on this hub (R544 to R554). -/
structure StepPart where
  last : Nat := 0
  isOpen : Bool := false
  state : StepState := .ended
  onHold : Bool := false
  ctr : Handle := 0
  value : Nat := 0
  models : List Handle := []
  reruns : Nat := 0
  reneged : Bool := false
  commitTime : Tick := 0
  deriving DecidableEq, Repr

/-- A table slot: the descriptor of R63, the seat directory (R70, R71), and what the other units keep per table. dirDue counts the entries
of the lead hub's directory that still come after a JOIN. -/
structure Table where
  globalId : Nat
  tenant : Nat
  keySlot : Nat
  lead : Nat
  destroying : Bool := false
  members : List Nat := []
  created : Tick := 0
  keyTenant : Bool := false
  dir : FMap SeatEntry := []
  dirDue : Nat := 0
  root : Option (Nat × Bool) := none
  ring : Option (Handle × Handle × Nat) := none
  serial : Nat := 0
  migEvent : Handle := 0
  memEvent : Handle := 0
  quota : Nat := 4096
  renegeMs : Nat := 1000
  reneges : Nat := 0
  renegeTicks : Nat := 0
  renegedOnce : Bool := false
  step : StepPart := {}
  preempted : Bool := false
  hand : Handle := 0
  deriving DecidableEq, Repr

-- TRN -------------------------------------------------------------------------------------------------------------------

/-- A TLB entry (R112, R114): the pages of one span, the leaf of its first page, the AC and D bits of its members, and the members'
leaves as the walker read them (R155). -/
structure TlbEntry where
  table : Nat
  base : Nat
  level : Nat
  group : Bool
  leaf : Nat
  pteAddr : Nat
  ac : List Bool
  dirty : List Bool
  read : List Nat := []
  deriving DecidableEq, Repr

/-- A walk-cache entry (R115): the pointer read at a level for the virtual address bits above it. -/
structure WalkCacheEntry where
  table : Nat
  level : Nat
  tag : Nat
  frame : Nat
  deriving DecidableEq, Repr

/-- A walk in flight (R115, R135). Its read of a page-table page that has moved to another hub is a transaction of the links, whose tag
it holds until the answer (R91, R107). A walk may wait for a channel block of this hub. -/
structure Walk where
  table : Nat
  page : Nat
  level : Nat
  tablePa : Nat
  discard : Bool
  away : Option Nat := none
  wants : Option Nat := none
  deriving DecidableEq, Repr

/-- How a walk failed (R119 step 1). -/
inductive WalkFail where
  | fault (c : Cause) (entry level pa : Nat)
  | poisoned
  deriving DecidableEq, Repr

/-- A page that a unit's access needs (R116): the source, the table and the page, how its walk failed, or the translation that the unit has
been given for it. With neither, its miss waits or is walked. With a translation it may wait for a channel block. -/
structure UnitWalk where
  src : Source
  table : Nat
  page : Nat
  fail : Option WalkFail := none
  leaf : Option TlbEntry := none
  wants : Option Nat := none
  deriving DecidableEq, Repr

/-- Where a checked piece goes (R102): local device memory, the home slice, another node, or the host bus. -/
inductive Target where
  | device
  | home
  | remote (node : Nat) (coh : Bool)
  | host (addr : Nat)
  deriving DecidableEq, Repr

/-- A piece of a tile (R127) that has passed its check: its place in the tile's data, the 4 KiB pages of the translation it uses, the
shootdowns that have removed that translation (R132), how many parts of it are still unanswered, and its status. -/
structure Piece where
  idx : Nat
  pos : Nat
  va : Nat
  len : Nat
  pa : Nat
  target : Target
  page : Nat := 0
  pages : Nat := 0
  shoot : List Nat := []
  open_ : Nat := 0
  st : Status := .ok
  data : List Byte := []
  deriving DecidableEq, Repr

/-- A tile under way (R126 to R132): the pieces that have issued, those checked and not issued, where the check stands, and what
it waits for: the walk of a page, or (recheck) a slab, a host port or room in the miss queue. A piece that waits after its walk keeps
its translation (held), with the shootdowns that have removed it. hdm is the CXL.mem message that the tile stands for (R472). -/
structure TileRec where
  src : Source
  table : Nat
  d : TileDesc
  data : List Byte
  issued : List Piece := []
  checked : List Piece := []
  row : Nat := 0
  off : Nat := 0
  waitPage : Option Nat := none
  recheck : Bool := false
  failed : Option Status := none
  fault : Option FaultReq := none
  parked : Bool := false
  held : Option TlbEntry := none
  heldShoot : List Nat := []
  hdm : Option HdmMsg := none
  deriving DecidableEq, Repr

/-- Who asked for a shootdown, and so who is answered when it completes. -/
inductive ShootFor where
  | queue (r : CmdRef)
  | mailbox (m : Fin 64)
  | move (object : Handle) (block : Nat) (last : Bool)
  | model (index : Nat)
  | internal
  deriving DecidableEq, Repr

/-- A shootdown that runs or waits (R133 to R139). PAGES 0 means the whole table. -/
structure Shootdown where
  id : Nat
  table : Nat
  va : Nat
  pages : Nat
  clusters : List Nat
  drain : Bool
  who : ShootFor
  started : Tick
  deriving DecidableEq, Repr

/-- A request attached to a CAM entry (R145, R151). -/
structure Attached where
  ctx : Handle
  source : Source
  cmd : Option CmdRef
  tag : Nat
  resumed : Bool := false
  again : Bool := false
  deriving DecidableEq, Repr

/-- A fault-CAM entry (R144, R155); a reader node's also says which node owns its range (R166). -/
structure CamEntry where
  table : Nat
  page : Nat
  serial : Option Nat
  fault : FaultReq
  hostback : Bool
  noBacking : Bool
  window : Bool
  time : Tick
  waiters : List Attached
  resolved : Bool
  forwarded : Option Nat := none
  deriving DecidableEq, Repr

/-- What something waits for before it may follow writes (R343, R444): the tile that makes them, a packet without its CMPL, the writes sent
on a host port up to a number of them, until a read there completes, or writes that a reset has lost and that wait for a port. -/
inductive Guard where
  | tile (src : Source) (tag : Nat)
  | txn (tag : Nat)
  | port (p sent : Nat)
  | lost
  deriving DecidableEq, Repr

/-- A block move that waits or runs (R171, R172): the object, the block, its target and its state before; its guard while the flush reads
after a copy to the host are awaited. -/
structure BlockMove where
  object : Handle
  block : Nat
  target : BlockState
  before : BlockState
  dev : Nat
  running : Bool
  forCmd : Option CmdRef
  node : Option Nat := none
  guard : Option Guard := none
  deriving DecidableEq, Repr

/-- TRN with the fault CAM. -/
structure TrnSt where
  tableMax : Nat := 32
  tlb : List TlbEntry := []
  walkCache : List WalkCacheEntry := []
  missQ : List (Nat × Nat) := []
  walks : FMap Walk := []
  unitWalks : List UnitWalk := []
  lastTable : Nat := 0
  groupIdle : FMap Tick := []
  tiles : List TileRec := []
  shoot : List Shootdown := []
  shootQ : List Shootdown := []
  shootHold : List Shootdown := []
  nextShoot : Nat := 0
  shootTimeout : Bool := false
  cntMiss : Nat := 0
  cntContig : Nat := 0
  denValid : Bool := false
  denTable : Nat := 0
  denSource : Nat := 0
  denNoTable : Bool := false
  denPa : Nat := 0
  denCnt : Nat := 0
  faultQ : List FaultReq := []
  cam : FMap CamEntry := []
  overflow : List FaultReq := []
  faultCnt : Nat := 0
  attachCnt : Nat := 0
  migToHost : Nat := 0
  migToDevice : Nat := 0
  moves : List BlockMove := []
  deriving DecidableEq, Repr

-- MEM -------------------------------------------------------------------------------------------------------------------

/-- A data slab's check class and first check unit (MEM_SLAB_CFG, R191, R192). -/
structure SlabCfg where
  data : Bool := false
  cls : Nat := 0
  chkUnit : Nat := 0
  deriving DecidableEq, Repr

/-- A merge-buffer entry (R197): its codeblock, its bytes with their mask, the key they are under, and its creation tick. -/
structure MergeEntry where
  codeblock : Nat
  key : Nat
  bytes : FMap Byte
  created : Tick
  deriving DecidableEq, Repr

/-- A scrub that waits or runs (R209 to R212). -/
structure Scrub where
  mbx : Fin 64
  seq : Nat
  b : ScrubBody
  started : Option Tick
  lastEnd : Tick
  next : Nat
  read : Nat
  corrected : Nat
  rewritten : Nat
  uncorrectable : Nat
  poisoned : Nat
  skipped : Nat
  maxSymbols : Nat
  firstUe : Option (Nat × Nat)
  aborted : Bool
  deriving DecidableEq, Repr

/-- What a stack re-fills (R219, R220, R426): a slab, or the extents of a freed memory object. -/
inductive Refill where
  | slab (j : Nat)
  | object (i : Nat)
  deriving DecidableEq, Repr

/-- What a request asks of a channel block. -/
inductive BlockOp where
  | read (dec : Decoded)
  | write (data : List Byte)
  | atomic (atom : Nat) (data : List Byte)
  deriving DecidableEq, Repr

/-- A request in the queue of a channel block; lost marks one that was in flight when the block's PLL lost lock (R28). -/
structure BlockReq where
  r : MemReq
  op : BlockOp
  lost : Bool := false
  deriving DecidableEq, Repr

/-- A channel block with its stack. -/
structure StackSt where
  state : StackState := .absent
  chkSlabs : Nat := 0
  slabs : FMap SlabCfg := []
  spares : FMap Nat := []
  fuseRows : List Nat := []
  merge : List MergeEntry := []
  cache : List (Nat × Nat) := []
  weightHigh : Nat := 8
  leakExp : Nat := 20
  threshold : Nat := 256
  ovfValid : Bool := false
  ovfBucket : Nat := 0
  ovfTick : Nat := 0
  ovfCnt : Nat := 0
  levels : FMap Nat := []
  share : Nat := 2
  refills : List Refill := []
  retrainFor : List (Fin 64) := []
  trainFails : Nat := 0
  lastRetrain : Tick := 0
  reads : Nat := 0
  scrubbing : Bool := false
  lastRefresh : Tick := 0
  queue : List BlockReq := []
  drawn : Bool := false
  deriving DecidableEq, Repr

/-- A key slot (R187, R188): its data key and tweak key, which no path reads out, and a generation that tells one key of a slot from the next.
The slabs are those of a destroyed table that enter their re-fill after the erase (R189). -/
structure KeySlot where
  state : KeyState := .free
  table : Nat := 0
  gen : Nat := 0
  eraseAt : Tick := 0
  dataKey : BitVec 256 := 0
  tweakKey : BitVec 256 := 0
  slabs : List Nat := []
  deriving DecidableEq, Repr

/-- MEM. The bytes of device memory are listed by stack * 2^36 + stack-local address; a byte not listed holds zero. -/
structure MemSt where
  stk : FMap StackSt := []
  rowLocal : BitVec 48 := 0
  cells : List Host.Cell := []
  keyOf : FMap Nat := []
  poison : FMap Bool := []
  keys : FMap KeySlot := []
  poisonValid : Bool := false
  poisonTable : Nat := 0
  poisonStack : Nat := 0
  poisonRow : Nat := 0
  corrected : Nat := 0
  uncorrectable : Nat := 0
  scrubs : List Scrub := []
  refillHold : FMap Tick := []
  objRefill : FMap Handle := []
  lastLeak : FMap Tick := []
  deriving DecidableEq, Repr

-- LNK -------------------------------------------------------------------------------------------------------------------

/-- A flit kept for retry with the times it was resent (R233, R234). -/
structure KeptFlit where
  f : Flit
  resent : Nat
  deriving DecidableEq, Repr

/-- A flit that waits at a port (R229, R240, R241): since when, the port by which it came (16 for this hub's own), whether its last packet
goes on in the next flit of its VC, the credit that is owed for its place in the receive buffer, and whether it carries a replay (R247). -/
structure QFlit where
  f : Flit
  since : Tick
  from_ : Nat := 16
  more : Bool := false
  pool : Option Nat := none
  replay : Bool := false
  deriving DecidableEq, Repr

/-- A link port. For each VC, unfinished is the stream (port of entry, TENANT, SRC, DST) whose packet goes on in the next flit sent, and
rxLeft what is still to come of the packet being received, in slots (R223); turn is the sixteenth of the next flit (R67), and echoDue are the
replies that wait for a flit boundary (R238). -/
structure LinkPort where
  state : PortState := .down
  cause : DownCause := .none
  partnerVersions : Nat := 0
  timeIn : Bool := false
  timeOut : Bool := false
  partner : Nat := 0
  lanes : Bool := false
  helloSent : Bool := false
  helloGot : Bool := false
  rtt : Nat := 0
  echoSeq : Nat := 0
  echoAt : Tick := 0
  resent : Nat := 0
  crcErr : Nat := 0
  downCnt : Nat := 0
  credDedicated : FMap Nat := []
  credShared : Nat := 0
  rxUsed : Nat := 0
  owed : List Nat := []
  nextLseq : Nat := 0
  expectLseq : Nat := 0
  kept : List KeptFlit := []
  txQ : List QFlit := []
  unfinished : FMap (Nat × Nat × Nat × Nat) := []
  rxLeft : FMap Nat := []
  turn : Nat := 0
  echoDue : List Nat := []
  nakOut : Bool := false
  nakAt : Tick := 0
  helloAt : Tick := 0
  lastGood : Tick := 0
  lastBusy : Tick := 0
  downAt : Tick := 0
  timeAt : Tick := 0
  deriving DecidableEq, Repr

/-- A sequenced packet that its source keeps until it is acknowledged (R243, R247); a dropped one is not replayed (R417). -/
structure KeptPacket where
  eseq : Nat
  p : Packet
  port : Nat
  first : Tick
  last : Tick
  wait : Nat
  dropped : Bool := false
  deriving DecidableEq, Repr

/-- The sending side of an ordered node pair (R243): the packets kept, those that wait while 4,096 are kept, and the E2E_SKIP that is
repeated (R248), with the TENANT of what it skips. -/
structure TxPair where
  next : Nat := 0
  kept : List KeptPacket := []
  waiting : List Packet := []
  skipTo : Option Nat := none
  skipTenant : Nat := 0
  deriving DecidableEq, Repr

/-- The receiving side of an ordered node pair (R244 to R246, R249): every lower ESEQ than low has been received. -/
structure RxPair where
  low : Nat := 0
  above : List Nat := []
  heldSig : List (Nat × Packet) := []
  unacked : Nat := 0
  firstUnacked : Tick := 0
  tenant : Nat := 0
  deriving DecidableEq, Repr

/-- What a transaction on the links belongs to, so that its answer ends the right thing. -/
inductive TxnFor where
  | piece (src : Source) (tileTag idx off : Nat)
  | subcmd (tag : Nat)
  | signal (cmd : Option CmdRef) (core : Option (Nat × Nat × Nat))
  | launch (r : CmdRef)
  | partialOf (fold : Nat)
  | relay (id off : Nat)
  | granule (old : Nat)
  | walk (walker : Nat)
  | fetch (queue : Handle)
  | other
  deriving DecidableEq, Repr

/-- An open transaction (R252): the tag its answer returns, the destination and what it serves. -/
structure Txn where
  tag : Nat
  dst : Nat
  what : TxnFor
  deriving DecidableEq, Repr

/-- A request of another hub of which parts have been forwarded to a moved slab (R91): where and as what it came, how many parts
are unanswered, and what the answers have given. -/
structure Relay where
  id : Nat
  lp : Nat
  p : Packet
  left : Nat
  st : Status
  data : List Byte
  deriving DecidableEq, Repr

/-- LNK. The requests that wait for their slab (R250) are kept with the port they came by, oldest first. -/
structure LnkSt where
  ports : FMap LinkPort := []
  routes : FMap RouteEntry := []
  timeout : Nat := 20
  giveup : Nat := 100
  dropCnt : Nat := 0
  denValid : Bool := false
  denTenant : Nat := 0
  denPort : Nat := 0
  denVc : Nat := 0
  denType : Nat := 0
  denSrc : Nat := 0
  denCnt : Nat := 0
  tx : FMap TxPair := []
  rx : FMap RxPair := []
  txns : List Txn := []
  nextTag : Nat := 0
  slabWait : List (Nat × Packet) := []
  relays : List Relay := []
  nextRelay : Nat := 0
  deriving DecidableEq, Repr

-- NME -------------------------------------------------------------------------------------------------------------------

/-- A command or engine task in an engine queue (R295, R297): whether it waits for its fault, (effect) the status with which it ends
once its last pieces are answered, and (last) the access that it makes after them: an address, bytes, and an atomic code or 0. -/
structure NmeTask where
  table : Nat
  share : Nat
  cmd : NmeCmd
  ref : Option CmdRef
  srcNode : Nat
  step : Nat
  retried : Bool
  ended : Bool
  parked : Bool := false
  rerun : Bool := false
  effect : Option Status := none
  last : Option (Nat × List Byte × Nat) := none
  deriving DecidableEq, Repr

/-- An engine. -/
structure Engine where
  state : EngState := .idle
  queue : List NmeTask := []
  selected : Option NmeTask := none
  running : Option NmeTask := none
  turn : Nat := 0
  turnsLeft : Nat := 0
  prevTable : Option Nat := none
  dirtyTask : Bool := false
  stepsRun : List (Nat × Nat) := []
  drainFor : Option (Option (Fin 64)) := none
  drainAt : Tick := 0
  drainLate : Bool := false
  cmdCnt : Nat := 0
  kvBytes : Nat := 0
  misplaced : Nat := 0
  errValid : Bool := false
  errStatus : Status := .ok
  errOpcode : Nat := 0
  errTable : Nat := 0
  errTag : Nat := 0
  testResult : Nat := 0
  testEnd : Tick := 0
  deriving DecidableEq, Repr

/-- A partial record (R274): 32-bit words stand for the FP32 values. -/
structure PRecord where
  tag : Nat
  record : Nat
  heads : Nat
  empty : Bool
  dim : Nat
  firstPos : Nat
  lastPos : Nat
  tokens : Nat
  node : Nat
  source : Nat
  status : Status
  m : List (BitVec 32)
  l : List (BitVec 32)
  o : List (List (BitVec 32))
  deriving DecidableEq, Repr

/-- A fold slot (R278 to R283): generation, and while open the command it serves, the inputs it still awaits per record
index, the records combined so far and the pieces of records that have arrived in part. -/
structure Fold where
  gen : Nat := 0
  isOpen : Bool := false
  engine : Nat := 0
  table : Nat := 0
  tag : Nat := 0
  size : Nat := 0
  final : Bool := false
  ref : Option CmdRef := none
  homeNode : Nat := 0
  homeFold : Nat := 0
  outVa : Nat := 0
  outMode : Nat := 0
  outFormat : Nat := 0
  outLen : Nat := 0
  await : List Nat := []
  recs : List PRecord := []
  pieces : List (Nat × Nat × List Byte) := []
  remotes : List Nat := []
  written : Bool := false
  worst : Status := .ok
  deriving DecidableEq, Repr

/-- A sub-command being assembled at a remote hub (R284, R285), with the seat and epoch that its message named. -/
structure SubAsm where
  src : Nat
  fold : Nat
  table : Nat
  tag : Nat
  part : Option SubCmd
  pieces : FMap (List Byte)
  started : Bool
  seat : Nat := 0
  epoch : Nat := 0
  deriving DecidableEq, Repr

/-- A piece of a unit's access that a tile of its own carries: its source, the tile's tag, what it reads or writes, and its answer. -/
structure UnitPiece where
  src : Source
  tag : Nat
  op : Nat
  va : Nat
  len : Nat
  answer : Option (Status × List Byte)
  deriving DecidableEq, Repr

/-- A piece of a partial record presented at a fold port of this hub (R280): by an engine, or (16 and up) from a link port; src is
the engine or 16 + the node that formed it. -/
structure PortPiece where
  engine : Nat
  src : Nat
  fold : Nat
  record : Nat
  offset : Nat
  bytes : List Byte
  deriving DecidableEq, Repr

/-- NME. -/
structure NmeSt where
  engines : FMap Engine := []
  folds : FMap Fold := []
  portQ : List PortPiece := []
  pieces : List UnitPiece := []
  nextPiece : Nat := 0
  subs : List SubAsm := []
  waiting : List CmdRef := []
  busyResend : List (Nat × Tick) := []
  testQ : List (Nat × Fin 64) := []
  deriving DecidableEq, Repr

-- TCK -------------------------------------------------------------------------------------------------------------------

/-- A trick counter (R331). -/
structure Counter where
  state : CtrState := .free
  value : Nat := 0
  table : Nat := 0
  ctx : Handle := 0
  mirror : Option Nat := none
  deriving DecidableEq, Repr

/-- The kinds of waiter (R348). -/
inductive WaitKind where
  | core (cluster core tag : Nat)
  | copyEngine (k : Nat)
  | queue (r : CmdRef)
  deriving DecidableEq, Repr

/-- A waiter slot in use (R348, R369). -/
structure Waiter where
  counter : Nat
  gen : Nat
  target : Nat
  kind : WaitKind
  ctx : Handle
  table : Nat
  registered : Tick
  deriving DecidableEq, Repr

/-- A cluster with pending wakes (R352, R353). -/
structure RampEntry where
  cluster : Nat
  mask : Nat
  since : Tick
  answers : List (Nat × Nat × Status × Nat)
  deriving DecidableEq, Repr

/-- A mirror entry in use (R359 to R362). -/
structure Mirror where
  counter : Nat
  table : Nat
  event : Handle
  addr : Nat
  cookie : Nat
  threshold : Nat
  armed : Bool
  inFlight : Bool
  due : Bool
  heldEvent : Bool
  deriving DecidableEq, Repr

/-- A signal held until the writes it guards are in place (R343). -/
structure HeldSignal where
  id : Nat
  op : SigOp
  node : Nat
  counter : Handle
  table : Nat
  source : Source
  rerun : Bool
  cmd : Option CmdRef
  core : Option (Nat × Nat × Nat)
  guards : List Guard
  deriving DecidableEq, Repr

/-- TCK. -/
structure TckSt where
  counters : FMap Counter := []
  waiters : List Waiter := []
  ramp : List RampEntry := []
  rampActive : Bool := false
  windowAt : Tick := 0
  scanAt : Tick := 0
  windows : FMap Nat := []
  mirrors : FMap Mirror := []
  held : List HeldSignal := []
  nextHeld : Nat := 0
  denValid : Bool := false
  denTenant : Nat := 0
  denSource : Nat := 0
  denOp : Nat := 0
  denCounter : Nat := 0
  denCnt : Nat := 0
  misValid : Bool := false
  misBlock : Nat := 0
  misVc : Nat := 0
  misLength : Nat := 0
  misTick : Nat := 0
  misCnt : Nat := 0
  renValid : Bool := false
  renTable : Nat := 0
  renOutcome : Nat := 0
  renTick : Nat := 0
  wakeCnt : Nat := 0
  errCnt : Nat := 0
  deriving DecidableEq, Repr

-- COH -------------------------------------------------------------------------------------------------------------------

/-- A directory entry (R383). -/
structure DirEntry where
  node : Nat := 0
  proxy : Bool := false
  state : LineState := .i
  busy : Bool := false
  owner : Nat := 0
  table : Nat := 0
  presence : List Nat := []
  used : Nat := 0
  deriving DecidableEq, Repr

/-- An open transaction of a line (R391): its request, the snoops still unanswered, the state it will leave and what has
come in for it. -/
structure LineTxn where
  type : Nat
  m : CohMsg
  waiting : List Nat
  snooped : Nat
  needAck : Bool
  newState : LineState
  newOwner : Nat
  newPresence : List Nat
  got : Option (List Byte)
  gotDirty : Bool
  wbSeen : Bool
  wbpSeen : Bool
  forwarded : Bool
  dataDue : Bool
  opened : Tick
  deriving DecidableEq, Repr

/-- A proxy of a partner node (R400). -/
structure Proxy where
  valid : Bool := false
  node : Nat := 0
  deriving DecidableEq, Repr

/-- COH. -/
structure CohSt where
  dir : FMap DirEntry := []
  txns : FMap LineTxn := []
  retry : List (Nat × CohMsg) := []
  proxies : FMap Proxy := []
  hostEnabled : BitVec 4 := 0
  toValid : Bool := false
  toAgent : Nat := 0
  toLine : Nat := 0
  toPoisoned : Bool := false
  cntReq : Nat := 0
  cntSnoop : Nat := 0
  cntEvict : Nat := 0
  cntCross : Nat := 0
  cntNoCache : Nat := 0
  recalls : List Nat := []
  flush : List Nat := []
  sliceIdle : FMap Tick := []
  wbBuffers : List Nat := []
  clock : Nat := 0
  deriving DecidableEq, Repr

-- objects ---------------------------------------------------------------------------------------------------------------

/-- An index slot of a kind: its generation, the tenant that holds or last held it, and when it was filled (R10, R414, R609). -/
structure SlotInfo where
  gen : Nat := 0
  tenant : Nat := 0
  live : Bool := false
  table : Nat := 0
  created : Tick := 0
  deriving DecidableEq, Repr

/-- A context (R419, R420) with its saved waiter registrations (R369). -/
structure Ctx where
  table : Nat
  saveObj : Handle
  saveOff : Nat
  state : CtxState
  wasParked : Bool
  saved : List Waiter
  created : Tick
  deriving DecidableEq, Repr

/-- Where a fetched command stands. -/
inductive EntryState where
  | fetched
  | waiting
  | dispatched
  | running
  | decided (committed : Bool) (st : Status)
  deriving DecidableEq, Repr

/-- Events presented to the arbiter of R445 for one command, in order of arrival: its commit, its end with a failure, or an
abort (with the mailbox that CMD_ABORT is to answer, if it came from one). -/
inductive ArbEvent where
  | commit
  | fail (st : Status) (cause : Nat)
  | abort (mbx : Option (Fin 64))
  deriving DecidableEq, Repr

/-- A fetched entry that has not retired (R438 to R446). -/
structure QEntry where
  pos : Nat
  d : Desc
  names : Option (Nat × List Handle)
  state : EntryState
  events : List ArbEvent
  sigFail : Bool
  result : Nat
  cause : Nat
  flushed : Bool
  eventsAt : Tick := 0
  eventsFresh : Nat := 0
  ran : Option (Nat × Nat) := none
  deriving DecidableEq, Repr

/-- A queue (R421, R428, R429). -/
structure Queue where
  ctx : Handle
  table : Nat
  size : Nat
  ringObj : Handle
  ringOff : Nat
  cplObj : Handle
  cplOff : Nat
  dbPage : Nat
  dbSlot : Nat
  event : Handle
  cookie : Nat
  state : QueueState
  err : Nat
  fetchPos : Nat
  tail : Nat
  retire : Nat
  entries : List QEntry
  outcomes : FMap (Nat × Bool)
  namesPend : Option (Nat × List Handle × Bool)
  rereads : Nat
  rereadAt : Option Tick
  rewind : Option Nat
  sawStep : Bool
  retryAt : Option Tick
  abortedAt : List Nat
  created : Tick
  deriving DecidableEq, Repr

/-- A block of a host-backed range (R165): its state, its device block and its P bit (R549). -/
structure Block where
  state : BlockState := .host
  dev : Nat := 0
  p : Bool := false
  deriving DecidableEq, Repr

/-- A placement policy that ADVISE has set for a block (R167). -/
structure Policy where
  home : Nat
  shareReads : Bool
  readers : List Nat
  deriving DecidableEq, Repr

/-- What a HOSTBACK object registers (R162 to R168), the policy of blocks that no ADVISE has named, and those of the others. -/
structure Hostback where
  b : HostbackBody
  home : Nat
  shareReads : Bool
  blocks : FMap Block
  policies : FMap Policy := []
  deriving DecidableEq, Repr

/-- A memory object (R422 to R426). -/
structure MemObj where
  table : Nat
  kind : MemKind
  extents : List (Nat × Nat)
  state : MemObjState
  hb : Option Hostback
  created : Tick
  deriving DecidableEq, Repr

/-- An entry of an event ring (R451). -/
structure EventEntry where
  type : Nat
  status : Status
  source : Handle
  cookie : Nat
  detail : Nat
  time : Tick
  deriving DecidableEq, Repr

/-- An event (R450 to R455). -/
structure Event where
  table : Nat
  ringObj : Handle
  ringOff : Nat
  size : Nat
  vector : Nat
  moderation : Nat
  dbPage : Nat
  dbSlot : Nat
  prod : Nat
  cons : Nat
  errRange : Bool
  dropped : Nat
  ring : FMap EventEntry
  heldFrom : Nat
  lastMsg : Option Tick
  msgDue : Bool
  destroying : Bool
  created : Tick
  port : Option Nat := none
  deriving DecidableEq, Repr

/-- A copy that runs on a channel (R481 to R483). -/
structure CopyJob where
  ref : CmdRef
  b : CopyBody
  isFill : Bool
  step : Bool
  doneBytes : Nat
  written : Nat
  nextPort : Nat
  parked : Bool := false
  poisoned : Bool := false
  deriving DecidableEq, Repr

/-- A channel (R433, R480). -/
structure Channel where
  ctx : Handle
  table : Nat
  kind : ChanKind
  port : ChanPort
  engine : Nat
  jobs : List CopyJob
  destroying : Bool
  created : Tick
  deriving DecidableEq, Repr

/-- A model of the hand (R556 to R560). -/
structure Model where
  table : Nat
  b : ModelBody
  state : ModelState
  blocks : List Nat
  pins : Nat
  lastUse : Tick
  loadFor : List (Fin 64)
  again : Bool
  discardFor : List (Fin 64)
  destroying : Bool
  created : Tick
  deriving DecidableEq, Repr

/-- A LAUNCH that a cluster runs (R434 to R436). -/
structure Launched where
  tag : Nat
  cluster : Nat
  table : Nat
  mask : Nat
  ref : Option CmdRef
  replyTo : Option (Nat × Nat)
  waitCore : Bool
  body : SubCmd
  rerun : Bool := false
  deriving DecidableEq, Repr

/-- The DONE of a LAUNCH that another hub sent, until the writes of its cores are in place (R341, R444): the CMPL and what it waits for. -/
structure DoneWait where
  node : Nat
  table : Nat
  tag : Nat
  st : Status
  guards : List Guard
  deriving DecidableEq, Repr

/-- A DESTROY that has been accepted and not yet answered (R415, R416). -/
structure Destroying where
  h : Handle
  mbx : Fin 64
  accepted : Tick
  deriving DecidableEq, Repr

/-- Contexts, queues, memory objects, events, channels, models and the doorbell area. -/
structure ObjSt where
  slots : FMap SlotInfo := []
  ctxs : FMap Ctx := []
  queues : FMap Queue := []
  mems : FMap MemObj := []
  events : FMap Event := []
  channels : FMap Channel := []
  models : FMap Model := []
  dying : List Destroying := []
  pages : FMap Nat := []
  dbSlots : FMap Handle := []
  launched : List Launched := []
  doneWaits : List DoneWait := []
  nextLaunch : Nat := 0
  deriving DecidableEq, Repr

-- HIF -------------------------------------------------------------------------------------------------------------------

/-- A posted write that no read on its port has confirmed yet (R492): one of a copy engine's burst, one of a tile, another write of a table,
or a message. -/
inductive Unconfirmed where
  | burst (k table addr : Nat) (data : List Byte) (ep : Bool)
  | piece (src : Source) (tag idx table addr : Nat) (data : List Byte)
  | write (table addr : Nat) (data : List Byte)
  | msix (vector : Nat)
  deriving DecidableEq, Repr

/-- What an outstanding host read serves (R478). -/
inductive ReadFor where
  | piece (src : Source) (tileTag idx : Nat)
  | burst (k : Nat)
  | fetch (q : Handle)
  | flush
  deriving DecidableEq, Repr

/-- An outstanding non-posted request of a host port; its completion confirms the unconfirmed writes before it, a number of them. -/
structure HostRead where
  tag : Nat
  table : Nat
  addr : Nat
  what : ReadFor
  after : Nat := 0
  deriving DecidableEq, Repr

/-- A host port with its function's registers. -/
structure HostPort where
  state : HostState := .down
  cxl : Bool := false
  speed : Nat := 0
  width : Nat := 0
  bme : Bool := false
  mse : Bool := false
  serr : Bool := false
  intxDisable : Bool := false
  msix : Bool := false
  resets : Nat := 0
  cxlAllow : Bool := true
  maxSpeed : Nat := 7
  aerSticky : List String := []
  atsEnable : Bool := false
  priEnable : Bool := false
  relaxedEnable : Bool := true
  atc : FMap Nat := []
  atsWait : List (Nat × Out) := []
  pageReqs : List Nat := []
  reads : List HostRead := []
  nextTag : Nat := 0
  unconfirmed : List Unconfirmed := []
  sent : Nat := 0
  lastConfirm : Tick := 0
  msixPend : List Nat := []
  ideKeyed : BitVec 8 := 0
  ideInsecure : BitVec 8 := 0
  spdmStage : Nat := 0
  sessions : List (Nat × Bool) := []
  nextSession : Nat := 1
  held : List (Nat × Out) := []
  drawn : Bool := false
  pageWait : List Nat := []
  resetAt : Tick := 0
  deriving DecidableEq, Repr

/-- HIF_TBL: a table's attachments (R473, R474). -/
structure HifTbl where
  att0 : Bool := false
  att1 : Bool := false
  pasid0 : Nat := 0
  pasid1 : Nat := 0
  primary : Nat := 0
  deriving DecidableEq, Repr

/-- HIF_WIN and HIF_HDM entries. -/
structure WinEntry where
  valid : Bool := false
  write : Bool := false
  split : Bool := false
  va : Nat := 0
  table : Nat := 0
  deriving DecidableEq, Repr

/-- A WINDOW_SET that waits until the requests admitted to its sub-window have completed (R467). -/
structure WinAsk where
  mbx : Fin 64
  window : Nat
  table : Nat
  write : Bool
  clear : Bool
  va : Nat
  deriving DecidableEq, Repr

/-- A copy engine: the channel whose burst is in flight with its bytes and port, the channel served
last (R481), whether its copies wait for a port, and whether the burst has made its writes. -/
structure CopyEngine where
  busy : Option Handle := none
  burst : Nat := 0
  port : Nat := 0
  turn : Nat := 0
  waitPort : Bool := false
  moved : Bool := false
  deriving DecidableEq, Repr

/-- A write of a doorbell slot or a counter window (R358, R457), or of MBX_DOOR with the request area as it then stands (R486, R513). -/
inductive PageWrite where
  | slot (page slot value : Nat)
  | window (op page window off value : Nat)
  | go (mbx value : Nat) (area : List Byte)
  deriving DecidableEq, Repr

/-- A write of the host that waits for its posted writes received before it on its port (R358, R457, R486). -/
structure HeldPage where
  port : Nat
  w : PageWrite
  guards : List Guard
  deriving DecidableEq, Repr

/-- HIF. -/
structure HifSt where
  ports : FMap HostPort := []
  tbl : FMap HifTbl := []
  win : FMap WinEntry := []
  hdm : FMap WinEntry := []
  ce : FMap CopyEngine := []
  errValid : Bool := false
  errPort : Nat := 0
  errKind : Nat := 0
  errTable : Nat := 0
  errAddr : Nat := 0
  winWait : List WinAsk := []
  pageHeld : List HeldPage := []
  lostWrites : List Unconfirmed := []
  deriving DecidableEq, Repr

-- MBX -------------------------------------------------------------------------------------------------------------------

/-- A Gararn response (R515). -/
structure Response where
  opcode : Nat
  status : Status
  detail : Nat
  seq : Nat
  handle : Handle
  time : Tick
  body : List Byte
  deriving DecidableEq, Repr

/-- What a request is answered. -/
structure Reply where
  st : Status
  detail : Nat := 0
  handle : Handle := 0
  body : List Byte := []
  deriving DecidableEq, Repr

/-- A mailbox (R510 to R519). early marks a request whose GO came before Release (R595); owed is an answer that waits for the control core
(R507). -/
structure Mailbox where
  busy : Bool := false
  done : Bool := false
  assigned : Option Nat := none
  version : Nat := 0
  lastSeq : Nat := 0
  req : List Byte := []
  seq : Nat := 0
  opcode : Nat := 0
  executing : Bool := false
  early : Bool := false
  journalled : Bool := false
  resp : Option Response := none
  stored : Option Response := none
  owed : Option Reply := none
  deriving DecidableEq, Repr

/-- A message of another hub's firmware that waits for the control core (R507): the checks of a PREPARE, a reseat for the lead hub, a
JOIN, a RESOLVE to the lead hub, and a forwarded fault. -/
inductive CtrlHeld where
  | prepare (node : Nat) (p : PrepareBody)
  | reseatFwd (node : Nat) (b : ReseatBody)
  | join (node globalId tenant : Nat)
  | resolve (node globalId seat : Nat)
  | faultForward (node globalId va : Nat)
  deriving DecidableEq, Repr

/-- A crash dump (R540): its header fields and the IDs of its sections. -/
structure Dump where
  seq : Nat
  kind : Nat
  cause : Nat
  time : Tick
  node : Nat
  fw : Nat
  sections : List Nat
  length : Nat
  deriving DecidableEq, Repr

/-- MBX: the control core and the mailboxes. image holds the header of the updated image that runs (R534). -/
structure MbxSt where
  boxes : FMap Mailbox := []
  area : FMap Byte := []
  core : CoreState := .romBoot
  source : Bool := false
  generation : Nat := 0
  restarts : Nat := 0
  lastCause : CoreCause := .none
  restartLog : List Tick := []
  gated : Bool := false
  staged : List Byte := []
  image : List Byte := []
  activating : Option (Fin 64) := none
  since : Tick := 0
  dumps : FMap Dump := []
  dumpSeq : Nat := 0
  ctrlHeld : List CtrlHeld := []
  deriving DecidableEq, Repr

-- PWR -------------------------------------------------------------------------------------------------------------------

/-- PWR_SENSOR. -/
structure Sensor where
  cls : PwrClass := .unused
  mv : Nat := 0
  max : Nat := 0
  deriving DecidableEq, Repr

/-- A deferred core-on request (R566): the cluster and cores, and the window boundaries seen since it arrived. -/
structure Deferred where
  cluster : Nat
  mask : Nat
  ramp : Bool
  seen : Nat
  deriving DecidableEq, Repr

/-- PWR. Powers are in units of 0.125 W. -/
structure PwrSt where
  mode : Bool := false
  periodUs : Nat := 400
  distrust : Bool := false
  capUnmet : Bool := false
  rate : Nat := 15
  run : Nat := 0
  cores : FMap Nat := []
  idleSince : FMap Tick := []
  onAsked : FMap Nat := []
  onGranted : FMap Nat := []
  phaseNow : Nat := 0
  estimate : Nat := 0
  measured : Nat := 0
  allowance : Nat := 0
  cap : Nat := 16000
  capNext : Nat := 16000
  link : Nat := 0
  memory : Nat := 0
  hub : Nat := 0
  compute : Nat := 0
  other : Nat := 0
  parkUs : Nat := 10
  coreMw : Nat := 140
  cntDefer : Nat := 0
  sensors : FMap Sensor := []
  phases : FMap Nat := []
  deferred : List Deferred := []
  lowWindows : Nat := 0
  overWindows : Nat := 0
  windowGranted : Bool := false
  lastWindow : Tick := 0
  deriving DecidableEq, Repr

-- IRQ -------------------------------------------------------------------------------------------------------------------

/-- An interrupt source (R574 to R577): its latch, configuration, count, and the target at which it is in service. -/
structure IrqSrc where
  latch : Bool := false
  target : Nat := 0
  prio : Nat := 0
  count : Nat := 0
  insvc : Option Nat := none
  deriving DecidableEq, Repr

/-- A target (R578 to R585). -/
structure IrqTgt where
  valid : Bool := false
  threshold : Nat := 0
  event : Handle := 0
  armed : Bool := false
  held : Bool := false
  deriving DecidableEq, Repr

/-- IRQ. -/
structure IrqSt where
  srcs : FMap IrqSrc := []
  tgts : FMap IrqTgt := []
  errTarget : Bool := false
  errEvent : Bool := false
  errComplete : Bool := false
  retThreshold : Nat := 0
  retArmed : Bool := false
  retInsvc : List Nat := []
  deriving DecidableEq, Repr

-- the whole -------------------------------------------------------------------------------------------------------------

/-- The state of the hub. The last three fields are the model's own: what has been sent, the counter of free values, and
the commands that wait, oldest first. -/
structure State where
  sys : SysSt := {}
  bnd : BndSt := {}
  tables : FMap Table := []
  trn : TrnSt := {}
  mem : MemSt := {}
  lnk : LnkSt := {}
  nme : NmeSt := {}
  tck : TckSt := {}
  coh : CohSt := {}
  obj : ObjSt := {}
  hif : HifSt := {}
  mbx : MbxSt := {}
  pwr : PwrSt := {}
  irq : IrqSt := {}
  out : List Out := []
  fresh : Nat := 0
  pending : List Instr := []
  deriving DecidableEq, Repr

/-- The hub right after a cold reset: XH_COLD_N has returned high, the Fuses phase runs and no command waits (R24, R593). -/
def State.reset : State := {}

end Sys2Proof.Machine
end

