-- ==== Sys2Proof/Machine/Ops.lean ====
section
/-! DEFINITION. The operations that every unit shares: maps, sending, handles, interrupt levels, error capture, the ante,
object and tenant checks, and the frame in which a command runs. -/

namespace Sys2Proof.Machine

-- maps ------------------------------------------------------------------------------------------------------------------

/-- The entry of a key, if the map lists it. -/
def mapGet {α : Type} : FMap α → Nat → Option α
  | [], _ => none
  | (k, v) :: r, n => if k = n then some v else mapGet r n

/-- The entry of a key, or the default. -/
def mapGetD {α : Type} (m : FMap α) (n : Nat) (d : α) : α := (mapGet m n).getD d

/-- Sets the entry of a key, keeping the keys strictly rising. -/
def mapPut {α : Type} : FMap α → Nat → α → FMap α
  | [], n, v => [(n, v)]
  | (k, w) :: r, n, v =>
    if n < k then (n, v) :: (k, w) :: r else if n = k then (n, v) :: r else (k, w) :: mapPut r n v

/-- Removes the entry of a key. -/
def mapDel {α : Type} : FMap α → Nat → FMap α
  | [], _ => []
  | (k, w) :: r, n => if n = k then r else (k, w) :: mapDel r n

/-- Sets the entry of a key in a map whose unlisted keys hold d: writing d removes the entry. -/
def mapPutD {α : Type} [DecidableEq α] (d : α) (m : FMap α) (n : Nat) (v : α) : FMap α :=
  if v = d then mapDel m n else mapPut m n v

/-- Changes the entry of a key, or the default in its place. -/
def mapUp {α : Type} (m : FMap α) (n : Nat) (d : α) (f : α → α) : FMap α := mapPut m n (f (mapGetD m n d))

/-- Changes the entry of a key if the map lists it. -/
def mapMod {α : Type} (m : FMap α) (n : Nat) (f : α → α) : FMap α :=
  match mapGet m n with
  | some v => mapPut m n (f v)
  | none => m

/-- The lowest number below a bound that the map does not list. -/
def mapFree {α : Type} (m : FMap α) (bound : Nat) : Option Nat :=
  (List.range bound).find? (fun k => (mapGet m k).isNone)

/-- The map's keys rise strictly and none of its entries is the default. -/
def mapWf {α : Type} [DecidableEq α] (d : α) : FMap α → Bool
  | [] => true
  | [(_, v)] => v ≠ d
  | (k, v) :: (k', v') :: r => v ≠ d && k < k' && mapWf d ((k', v') :: r)

/-- The memory's canonical form: addresses strictly rising and no listed zero (an unlisted byte reads as zero). -/
abbrev Memory.wf (m : List Host.Cell) : Bool := mapWf (0 : Byte) m

-- numbers ---------------------------------------------------------------------------------------------------------------

/-- A count that saturates at the top of 32 bits. -/
def sat32 (n : Nat) : Nat := min n 0xFFFFFFFF

/-- A count that saturates at the top of 64 bits. -/
def sat64 (n : Nat) : Nat := min n 0xFFFFFFFFFFFFFFFF

/-- Bits hi..lo of a number. -/
def bitsOf (n hi lo : Nat) : Nat := n / 2 ^ lo % 2 ^ (hi + 1 - lo)

/-- A Bool as a bit. -/
def b2n (b : Bool) : Nat := if b then 1 else 0

/-- x rounded up to a multiple of m. -/
def roundUp (x m : Nat) : Nat := (x + m - 1) / m * m

/-- The bytes of n as a little-endian field of the given size. -/
def leBytes : Nat → Nat → List Byte
  | 0, _ => []
  | k + 1, n => BitVec.ofNat 8 n :: leBytes k (n / 256)

/-- The number that little-endian bytes spell. -/
def leNat : List Byte → Nat
  | [] => 0
  | b :: r => b.toNat + 256 * leNat r

/-- The little-endian field of a record at an offset; bytes past the end read 0. -/
def fieldAt (bs : List Byte) (off size : Nat) : Nat := leNat ((bs.drop off).take size)

-- sending ---------------------------------------------------------------------------------------------------------------

/-- Table time. -/
abbrev now (s : State) : Tick := s.sys.time

/-- Sends one message. -/
def emit (o : Out) (s : State) : State := { s with out := s.out ++ [o] }

/-- Takes the next free value's number. -/
def freshUp (s : State) : State := { s with fresh := s.fresh + 1 }

-- handles (R8) ----------------------------------------------------------------------------------------------------------

/-- KIND of a handle. -/
def hKind (h : Handle) : Nat := bitsOf h 31 28

/-- GEN of a handle. -/
def hGen (h : Handle) : Nat := bitsOf h 27 20

/-- INDEX of a handle. -/
def hIdx (h : Handle) : Nat := bitsOf h 19 0

/-- The handle of a kind, generation and index. -/
def mkHandle (kind gen idx : Nat) : Handle := kind * 2 ^ 28 + gen * 2 ^ 20 + idx

/-- The index limit of a kind (R412, R533). -/
def kindLimit : Nat → Nat
  | 1 => 4096 | 2 => 65536 | 3 => 262144 | 4 => 16384 | 5 => 256 | 6 => 262144 | 7 => 4096 | 8 => 1024 | _ => 0

/-- The key of an index slot in the slot map. -/
def slotKey (kind idx : Nat) : Nat := kind * 2 ^ 20 + idx

/-- The index slot of a kind. -/
def slotOf (s : State) (kind idx : Nat) : SlotInfo := mapGetD s.obj.slots (slotKey kind idx) {}

/-- The next generation of a slot: 1 to 255, and after 255 again 1 (R10). -/
def nextGen (g : Nat) : Nat := if g ≥ 255 then 1 else g + 1

/-- The handle that names what the slot holds now. -/
def liveHandle (s : State) (kind idx : Nat) : Handle := mkHandle kind (slotOf s kind idx).gen idx

/-- The check of a handle (R11, R609): kind and limit first, then the tenants (for a requester that has one), then the
generation; a free slot that the requester's own tenant held last, or that none has held, is GONE. -/
def checkHandle (s : State) (tenant : Option Nat) (kind : Nat) (h : Handle) : Status :=
  if hKind h ≠ kind ∨ hIdx h ≥ kindLimit kind then .gone
  else
    let i := slotOf s kind (hIdx h)
    if i.gen = 0 then .gone
    else match tenant with
      | some t => if i.tenant ≠ t then .denied else if i.live = false ∨ i.gen ≠ hGen h then .gone else .ok
      | none => if i.live = false ∨ i.gen ≠ hGen h then .gone else .ok

/-- The check of a handle that must belong to one table of the tenant (R413): another table's object is GONE. -/
def checkOwned (s : State) (tenant table kind : Nat) (h : Handle) : Status :=
  match checkHandle s (some tenant) kind h with
  | .ok => if (slotOf s kind (hIdx h)).table = table then .ok else .gone
  | st => st

/-- Takes a free index slot of a kind for a tenant and table, with its next generation (R10). Which free slot a new object takes is left open
by the spec; the model takes the lowest (DESIGN CHOICE, notes/assumptions/128). -/
def takeSlot (s : State) (kind tenant table : Nat) : Option (Nat × State) :=
  match (List.range (kindLimit kind)).find? (fun i => (slotOf s kind i).live = false) with
  | none => none
  | some i =>
    let old := slotOf s kind i
    let new : SlotInfo := { gen := nextGen old.gen, tenant := tenant, live := true, table := table, created := now s }
    some (i, { s with obj := { s.obj with slots := mapPut s.obj.slots (slotKey kind i) new } })

/-- Frees an index slot. Its generation stays until the slot is used again (R10, R609). -/
def freeSlot (s : State) (kind idx : Nat) : State :=
  { s with obj := { s.obj with slots := mapMod s.obj.slots (slotKey kind idx) (fun i => { i with live := false }) } }

-- statuses (R16) --------------------------------------------------------------------------------------------------------

/-- The place of a status in the order of R16; the successes come last. -/
def statusRank : Status → Nat
  | .version => 0 | .unsupported => 1 | .denied => 2 | .gone => 3 | .lost => 4 | .stale => 5 | .range => 6
  | .noResource => 7 | .busy => 8 | .fault => 9 | .poisoned => 10 | .torn => 11 | .aborted => 12
  | .alreadyComplete => 13 | .ok => 14

/-- The status that R16 chooses of two. -/
def worse (a b : Status) : Status := if statusRank b < statusRank a then b else a

/-- The status that R16 chooses of many; OK of none. -/
def worst (l : List Status) : Status := l.foldl worse .ok

/-- The first of a list of conditions in R16's order that holds, else OK: each entry gives a condition and its status. -/
def firstFailure (l : List (Bool × Status)) : Status := worst ((l.filter (fun x => x.1)).map (fun x => x.2))

-- interrupt levels (R574, R575) -----------------------------------------------------------------------------------------

/-- The sources that a latch holds. -/
def irqLatched (id : Nat) : Bool :=
  id = 10 || id = 11 || (16 ≤ id && id ≤ 31) || id = 48 || id = 54 || id = 55 || id = 58 || id = 59 || (96 ≤ id && id ≤ 223)

/-- The sources fixed to target 0. -/
def irqFixed (id : Nat) : Bool := id = 10 || id = 11 || (160 ≤ id && id ≤ 223)

/-- The stack entry, absent by default. -/
def stackOf (s : State) (k : Nat) : StackSt := mapGetD s.mem.stk k {}

/-- The engine entry. -/
def engineOf (s : State) (e : Nat) : Engine := mapGetD s.nme.engines e {}

/-- The source entry. -/
def irqSrcOf (s : State) (id : Nat) : IrqSrc := mapGetD s.irq.srcs id {}

/-- The target entry; target 0 is always valid. -/
def irqTgtOf (s : State) (t : Nat) : IrqTgt :=
  let g := mapGetD s.irq.tgts t {}
  if t = 0 then { g with valid := true } else g

/-- The level of a source: the bit that R575 names for it, or its latch. -/
def irqLevel (s : State) (id : Nat) : Bool :=
  if irqLatched id then (irqSrcOf s id).latch
  else if id = 1 then s.sys.pllLost ≠ 0
  else if id = 2 then s.sys.timeFault
  else if id = 3 then s.sys.swErr ≠ 0
  else if id = 8 then s.trn.denValid
  else if id = 9 then s.trn.shootTimeout
  else if 32 ≤ id ∧ id ≤ 47 then (stackOf s (id - 32)).ovfValid
  else if id = 49 then s.lnk.denValid
  else if id = 50 then s.tck.denValid
  else if id = 51 then s.tck.misValid
  else if id = 52 then s.tck.renValid
  else if id = 53 then s.coh.toValid
  else if id = 56 then s.hif.errValid
  else if id = 57 then s.pwr.capUnmet || s.pwr.distrust
  else if 64 ≤ id ∧ id ≤ 79 then (engineOf s (id - 64)).errValid
  else false

/-- A raise (R574): the count advances, and the latch of a latched source is set. Arming follows when the command ends. -/
def irqRaise (id : Nat) (s : State) : State :=
  let up (i : IrqSrc) : IrqSrc := { i with count := sat32 (i.count + 1), latch := i.latch || irqLatched id }
  { s with irq := { s.irq with srcs := mapUp s.irq.srcs id {} up } }

/-- A source is pending when its level is 1 and it is not in service (R577). -/
def irqPending (s : State) (id : Nat) : Bool := irqLevel s id && (irqSrcOf s id).insvc.isNone

/-- A pending source is eligible at its target when its priority exceeds the threshold, and a host target is valid (R577). -/
def irqEligible (s : State) (t id : Nat) : Bool :=
  let i := irqSrcOf s id
  let g := irqTgtOf s t
  irqPending s id && i.target = t && decide (i.prio > g.threshold) && g.valid

/-- The better of two sources for a claim: the higher priority, and the lower ID among equals (R579). -/
def irqBetter (s : State) (best : Option Nat) (id : Nat) : Option Nat :=
  match best with
  | none => some id
  | some b => if (irqSrcOf s id).prio > (irqSrcOf s b).prio then some id else some b

/-- The ID a claim of the target would return now, or 0 (R579). A source not listed has priority 0 and never delivers. -/
def irqTop (s : State) (t : Nat) : Nat :=
  (((s.irq.srcs.map (fun x => x.1)).filter (irqEligible s t)).foldl (irqBetter s) none).getD 0

-- BAR0 error capture (R6, R18, R50) -------------------------------------------------------------------------------------

/-- Sets a bit of SYS_SW_ERR (0 RSV_WRITE, 1 HOLE, 2 SIZE); the first while all are 0 captures the offset (R50). -/
def swErrSet (bit off : Nat) (s : State) : State :=
  let s := irqRaise 3 s
  { s with sys := { s.sys with
      swErrAddr := if s.sys.swErr = 0 then BitVec.ofNat 25 off else s.sys.swErrAddr
      swErr := s.sys.swErr ||| BitVec.ofNat 3 (2 ^ bit) } }

-- the ante (R38 to R45) -------------------------------------------------------------------------------------------------

/-- AU of one unit of a class (R38). -/
def anteUnits : Nat → Nat
  | 0 => 150 | 1 => 26 | 2 => 38 | 3 => 8 | 4 => 6 | 5 => 1 | 6 => 4 | 7 => 6 | 8 => 4 | 9 => 2 | _ => 0

/-- AU granted from the ordinary pool. -/
def anteOrdinary (s : State) : Nat := (s.sys.anteHeld.map (fun d => d.ordinary)).sum

/-- AU granted from the kitty. -/
def anteKitty (s : State) : Nat := (s.sys.anteHeld.map (fun d => d.kitty)).sum

/-- SYS_ANTE_USED.USED: all that is granted with the standing draw. -/
def anteUsed (s : State) : Nat := 150 + anteOrdinary s + anteKitty s

/-- The free ordinary pool: the limit less the standing draw, the kitty and what is granted (R40, R44). -/
def anteFree (s : State) : Nat := s.sys.anteLimit - 150 - 64 - anteOrdinary s

/-- Whether draw a goes before draw b (R41): RECOVERY first, then the tick of arrival, the class and the instance. -/
def anteBefore (a b : AnteDraw) : Bool :=
  if a.recovery ≠ b.recovery then a.recovery
  else if a.since ≠ b.since then decide (a.since < b.since)
  else if a.cls ≠ b.cls then decide (a.cls < b.cls)
  else decide (a.inst < b.inst)

/-- Places a draw in the waiting order of R41, behind every draw it does not go before. -/
def anteInsert (d : AnteDraw) : List AnteDraw → List AnteDraw
  | [] => [d]
  | e :: r => if anteBefore d e then d :: e :: r else e :: anteInsert d r

/-- An operation requests its draw (R38, R40). One operation asks once. -/
def anteRequest (cls inst : Nat) (recovery : Bool) (s : State) : State :=
  if s.sys.anteWait.any (fun d => d.cls = cls && d.inst = inst) || s.sys.anteHeld.any (fun d => d.cls = cls && d.inst = inst) then s
  else
    let d : AnteDraw := { cls := cls, inst := inst, recovery := recovery, units := anteUnits cls, since := now s }
    { s with sys := { s.sys with anteWait := anteInsert d s.sys.anteWait } }

/-- Whether an operation's draw is granted. -/
def anteHas (s : State) (cls inst : Nat) : Bool := s.sys.anteHeld.any (fun d => d.cls = cls && d.inst = inst)

/-- Whether an operation's draw waits. -/
def anteWaits (s : State) (cls inst : Nat) : Bool := s.sys.anteWait.any (fun d => d.cls = cls && d.inst = inst)

/-- The parts that a draw would take (R40): all of a NORMAL draw from the ordinary pool; of a RECOVERY draw what the
ordinary pool holds, and the rest from the kitty. None when it does not fit. -/
def anteFit (s : State) (d : AnteDraw) : Option (Nat × Nat) :=
  if d.recovery then
    let o := min d.units (anteFree s)
    if d.units - o ≤ 64 - anteKitty s then some (o, d.units - o) else none
  else if d.units ≤ anteFree s then some (d.units, 0) else none

/-- Grants the first waiting draw if it fits (R41: a waiting draw is never passed). SYS_ANTE_MAXWAIT counts a wait when its draw is granted;
whether a draw that still waits or was withdrawn counts, the spec does not say (DESIGN CHOICE, notes/assumptions/129). -/
def anteGrantHead (s : State) : State :=
  match s.sys.anteWait with
  | [] => s
  | d :: r =>
    match anteFit s d with
    | none => s
    | some (o, k) => { s with sys := { s.sys with
        anteWait := r
        anteHeld := s.sys.anteHeld ++ [{ cls := d.cls, inst := d.inst, recovery := d.recovery, ordinary := o, kitty := k }]
        anteMaxWait := sat32 (max s.sys.anteMaxWait (now s - d.since)) } }

/-- An operation that runs within one row takes its draw (R38 to R41): whether it has it, and the state. It asks once; a draw that stands
first and fits is granted at once, and otherwise it waits its turn while the operation waits (R45). -/
def anteTake (cls inst : Nat) (recovery : Bool) (s : State) : Bool × State :=
  if anteHas s cls inst then (true, s)
  else
    let s := anteRequest cls inst recovery s
    match s.sys.anteWait with
    | d :: _ =>
      if d.cls = cls && d.inst = inst && !s.sys.pllOut.getLsbD 11 then
        let s := anteGrantHead s
        (anteHas s cls inst, s)
      else (false, s)
    | [] => (false, s)

/-- Returns a draw to the pools it came from (R40, R42). -/
def anteFreeDraw (cls inst : Nat) (s : State) : State :=
  { s with sys := { s.sys with anteHeld := s.sys.anteHeld.filter (fun d => !(d.cls = cls && d.inst = inst)) } }

/-- Withdraws a waiting draw uncharged; a draw already granted is returned instead (R45). -/
def anteDrop (cls inst : Nat) (s : State) : State :=
  let w := { s with sys := { s.sys with anteWait := s.sys.anteWait.filter (fun d => !(d.cls = cls && d.inst = inst)) } }
  anteFreeDraw cls inst w

-- tables ----------------------------------------------------------------------------------------------------------------

/-- The table in a slot. -/
def tableAt (s : State) (t : Nat) : Option Table := mapGet s.tables t

/-- The slot that holds a global table ID on this hub. -/
def slotOfGlobal (s : State) (g : Nat) : Option Nat :=
  (s.tables.find? (fun x => x.2.globalId = g)).map (fun x => x.1)

/-- Changes the table in a slot. -/
def tableMod (t : Nat) (f : Table → Table) (s : State) : State := { s with tables := mapMod s.tables t f }

/-- The tenant of the table in a slot. -/
def tenantOf (s : State) (t : Nat) : Option Nat := (tableAt s t).map (fun x => x.tenant)

/-- The table handle of a slot. -/
def tableHandle (s : State) (t : Nat) : Handle := liveHandle s 5 t

/-- Whether the mailbox is an operator mailbox (0 to 3). -/
def isOperator (m : Fin 64) : Bool := m.val < 4

/-- The mailbox entry. -/
def boxOf (s : State) (m : Nat) : Mailbox := mapGetD s.mbx.boxes m {}

/-- The table slot on which a Gararn request acts (R510, R522): the header's handle for an operator mailbox, and the
assignment of a table mailbox. A table that is being destroyed is GONE (R415). -/
def callerTable (s : State) (c : Caller) : Except Status Nat :=
  let slot : Except Status Nat :=
    if isOperator c.mbx then
      match checkHandle s none 5 c.table with
      | .ok => .ok (hIdx c.table)
      | st => .error st
    else
      match (boxOf s c.mbx).assigned with
      | some t => .ok t
      | none => .error .denied
  match slot with
  | .error st => .error st
  | .ok t =>
    match tableAt s t with
    | some tb => if tb.destroying then .error .gone else .ok t
    | none => .error .gone

/-- Requests that only an operator mailbox may send (R510, R520). -/
def operatorOnly (c : Caller) : Status := if isOperator c.mbx then .ok else .denied

/-- Requests that only a table mailbox may send (R520): from an operator mailbox there is no such request. -/
def tableOnly (c : Caller) : Status := if isOperator c.mbx then .denied else .ok

/-- The table advances (R373): the renege timer restarts from 0 (R374), and no renege stands before it. -/
def advance (t : Nat) (s : State) : State :=
  tableMod t (fun tb => { tb with renegeTicks := 0, renegedOnce := false }) s

-- bindings --------------------------------------------------------------------------------------------------------------

/-- The binding at an index. -/
def bindAt (s : State) (i : Nat) : Binding := mapGetD s.bnd.seats i {}

/-- Sets a binding. -/
def bindPut (i : Nat) (b : Binding) (s : State) : State :=
  { s with bnd := { s.bnd with seats := mapPutD ({} : Binding) s.bnd.seats i b } }

/-- The kind of a binding index (R64). -/
def kindOfIndex (i : Nat) : SeatKind :=
  if i < 120 then .cluster else if i < 888 then .channel else if i < 1144 then .link else .nme

/-- The binding index of a slab (R64). -/
def slabIndex (stack slab : Nat) : Nat := 120 + 48 * stack + slab

/-- The binding of a sixteenth of a link port (R64). -/
def linkIndex (lp j : Nat) : Nat := 888 + 16 * lp + j

/-- The binding index of an NME share (R64). -/
def nmeIndex (engine share : Nat) : Nat := 1144 + 16 * engine + share

/-- The BOUND share of an engine that a table holds, lowest first (R68: at most one). -/
def shareOf (s : State) (engine table : Nat) : Option Nat :=
  (List.range 16).find? (fun j =>
    let b := bindAt s (nmeIndex engine j)
    b.table = table && b.state = .bound)

/-- What a near-memory command of this hub finds at an engine for its table: the share that serves it; a share ARMED for a tick that has
not come, for which it waits (R77); a share that answers STALE, with its seat (R76, R87, R89); or none. -/
inductive ShareFind where
  | serves (j : Nat)
  | waits
  | stale (seat : Nat)
  | lacking
  deriving DecidableEq, Repr

/-- Looks for a table's share of an engine. -/
def shareFind (s : State) (engine table : Nat) : ShareFind :=
  match shareOf s engine table with
  | some j => .serves j
  | none =>
    let mine := ((List.range 16).map (fun j => bindAt s (nmeIndex engine j))).filter (fun b => b.table = table
      && (b.state = .armed || b.state = .suspended || (b.state = .failed && b.epoch ≠ 0)))
    match mine.find? (fun b => b.state ≠ .armed || decide (now s ≥ b.armT)), mine with
    | some b, _ => .stale b.seat
    | none, [] => .lacking
    | none, _ => .waits

/-- The clusters bound to a table on this hub. -/
def clustersOf (s : State) (t : Nat) : List Nat :=
  (List.range 120).filter (fun c => let b := bindAt s c; b.state = .bound && b.table = t)

-- power (R69, R84) -----------------------------------------------------------------------------------------------------

/-- Changes PWR. -/
def pwrMod (f : PwrSt → PwrSt) (s : State) : State := { s with pwr := f s.pwr }

/-- Turns cores of a cluster off. -/
def coreOffSend (cl m : Nat) (s : State) : State :=
  let left (x : Nat) : Nat := x &&& (2 ^ 64 - 1 - m)
  emit (.coreOff cl m) (pwrMod (fun p => { p with
    cores := mapPutD 0 p.cores cl (left (mapGetD p.cores cl 0))
    idleSince := p.idleSince.filter (fun x => !(x.1 / 64 = cl && m / 2 ^ (x.1 % 64) % 2 = 1)) }) s)

/-- Turns all cores of a cluster off, and forgets what it had asked for (R69, R84). -/
def clusterOff (cl : Nat) (s : State) : State :=
  coreOffSend cl (2 ^ 64 - 1) (pwrMod (fun p => { p with
    onAsked := mapDel p.onAsked cl
    onGranted := mapDel p.onGranted cl
    deferred := p.deferred.filter (fun d => d.ramp || d.cluster ≠ cl) }) s)

-- the frame of a command ------------------------------------------------------------------------------------------------

/-- What a step answers. -/
abbrev Result := Host.Outcome State Fault Refusal

/-- Whether the domains that a PLL feeds are clocked: they stop while it is out of lock (R27). -/
def pllOn (s : State) (k : Nat) : Bool := !s.sys.pllOut.getLsbD k

/-- Whether the hub takes work: start-up has ended, the hub has not stopped, and its fabric is clocked (R27, R30, R57, R597). -/
abbrev running (s : State) : Bool := s.sys.phase = .released && !s.sys.stopped && pllOn s 9

end Sys2Proof.Machine
end

