-- ==== Sys2Proof/Machine/Flags.lean ====
section
/-! DEFINITION. Arithmetic on the number formats of the rules: FP32 with round to nearest even, exact dyadic values in
between, and the element operations of atomics (R203). -/

namespace Sys2Proof.Machine

/-- A value of a binary floating-point format: NaN, an infinity, or sign, magnitude and power of two. -/
inductive Num where
  | nan
  | inf (neg : Bool)
  | fin (neg : Bool) (m : Nat) (e : Int)
  deriving DecidableEq, Repr

/-- Decodes a format with an IEEE layout: eb exponent bits, mb fraction bits, an all-ones exponent for the infinities and
NaN when ieee holds (FP8 E4M3 has neither infinity, and one NaN pattern). -/
def numOf (eb mb : Nat) (ieee : Bool) (w : Nat) : Num :=
  let neg := w / 2 ^ (eb + mb) % 2 = 1
  let ex := w / 2 ^ mb % 2 ^ eb
  let fr := w % 2 ^ mb
  let bias : Int := 2 ^ (eb - 1) - 1
  if ex = 2 ^ eb - 1 ∧ ieee then (if fr = 0 then .inf neg else .nan)
  else if ex = 2 ^ eb - 1 ∧ fr = 2 ^ mb - 1 then .nan
  else if ex = 0 then .fin neg fr (1 - bias - mb)
  else .fin neg (2 ^ mb + fr) (ex - bias - mb)

/-- m divided by 2^k, rounded to nearest, ties to even. -/
def rneShift (m k : Nat) : Nat :=
  let q := m / 2 ^ k
  let r := m % 2 ^ k
  if k = 0 then m
  else if r * 2 > 2 ^ k ∨ (r * 2 = 2 ^ k ∧ q % 2 = 1) then q + 1 else q

/-- The magnitude m * 2^e rounded to a format of mb fraction bits whose least quantum is 2^qmin: the exponent and fraction
bits as one number, not limited above. -/
def magRound (mb : Nat) (qmin : Int) (m : Nat) (e : Int) : Nat :=
  if m = 0 then 0
  else
    let q : Int := max ((Nat.log2 m : Int) + e - mb) qmin
    let r := if e ≥ q then m * 2 ^ (e - q).toNat else rneShift m (q - e).toNat
    (q - qmin).toNat * 2 ^ mb + r

/-- The canonical NaN of the hub's FP32 results (R203). -/
def f32NaN : Nat := 0x7FC00000

/-- An FP32 pattern from a value, rounded to nearest even. -/
def f32Of : Num → Nat
  | .nan => f32NaN
  | .inf neg => b2n neg * 2 ^ 31 + 0x7F800000
  | .fin neg m e => b2n neg * 2 ^ 31 + min (magRound 23 (-149) m e) 0x7F800000

/-- The value of an FP32 pattern. -/
def f32Num (w : Nat) : Num := numOf 8 23 true w

/-- The signed magnitude of a finite value over a common power of two. -/
def signedOver (neg : Bool) (m : Nat) (e base : Int) : Int :=
  let v : Int := m * 2 ^ (e - base).toNat
  if neg then -v else v

/-- The exact sum of two values. A sum of two zeros of unlike sign, and an exact cancellation, is +0. -/
def numAdd : Num → Num → Num
  | .nan, _ => .nan
  | _, .nan => .nan
  | .inf a, .inf b => if a = b then .inf a else .nan
  | .inf a, .fin .. => .inf a
  | .fin .., .inf b => .inf b
  | .fin a m e, .fin b n f =>
    let base := min e f
    let v := signedOver a m e base + signedOver b n f base
    .fin (if v = 0 then a && b else decide (v < 0)) v.natAbs base

/-- The exact product of two values. -/
def numMul : Num → Num → Num
  | .nan, _ => .nan
  | _, .nan => .nan
  | .inf a, .inf b => .inf (a != b)
  | .inf a, .fin b n _ => if n = 0 then .nan else .inf (a != b)
  | .fin a m _, .inf b => if m = 0 then .nan else .inf (a != b)
  | .fin a m e, .fin b n f => .fin (a != b) (m * n) (e + f)

/-- FP32 ADD with round to nearest even; a NaN result is 0x7FC0_0000 (R203). -/
def f32Add (x y : Nat) : Nat := f32Of (numAdd (f32Num x) (f32Num y))

/-- FP32 product, rounded once to nearest even. -/
def f32Mul (x y : Nat) : Nat := f32Of (numMul (f32Num x) (f32Num y))

/-- The quotient of two magnitudes as an FP32 pattern of the sign given: 64 extra bits and a sticky bit decide the rounding. -/
def magDiv (neg : Bool) (m : Nat) (e : Int) (n : Nat) (f : Int) : Num :=
  let q := m * 2 ^ 96 / n
  let sticky := if m * 2 ^ 96 % n = 0 then 0 else 1
  .fin neg (2 * q + sticky) (e - f - 97)

/-- The FP32 quotient, rounded once to nearest even. -/
def f32Div (x y : Nat) : Nat :=
  match f32Num x, f32Num y with
  | .nan, _ => f32NaN
  | _, .nan => f32NaN
  | .inf _, .inf _ => f32NaN
  | .inf a, .fin b _ _ => f32Of (.inf (a != b))
  | .fin a _ _, .inf b => f32Of (.fin (a != b) 0 0)
  | .fin a m e, .fin b n f =>
    if n = 0 then (if m = 0 then f32NaN else f32Of (.inf (a != b)))
    else f32Of (magDiv (a != b) m e n f)

/-- Whether a value is NaN. -/
def numIsNan : Num → Bool
  | .nan => true
  | _ => false

/-- Whether the first of two numbers, neither NaN, is the smaller; the two zeros are equal. -/
def numLt : Num → Num → Bool
  | .nan, _ => false
  | _, .nan => false
  | .inf a, .inf b => a && !b
  | .inf a, .fin .. => a
  | .fin .., .inf b => !b
  | .fin a m e, .fin b n f =>
    let base := min e f
    decide (signedOver a m e base < signedOver b n f base)

-- atomics (R203) --------------------------------------------------------------------------------------------------------

/-- The element width that an atomic code selects. -/
def atomWidth (code : Nat) : Nat := if bitsOf code 4 4 = 1 then 8 else 4

/-- Whether a row of the given length with the given code is refused RANGE (R203). -/
def atomBad (code rowBytes : Nat) : Bool :=
  let op := bitsOf code 3 0
  let w := atomWidth code
  op = 0 || op > 8 || (op = 2 && w = 8) || bitsOf code 7 5 ≠ 0 || rowBytes % w ≠ 0 || (op = 4 && rowBytes ≠ 2 * w)

/-- The bytes of memory that an atomic row spans: all of the row, or the first element for compare-and-swap. -/
def atomSpan (code rowBytes : Nat) : Nat := if bitsOf code 3 0 = 4 then atomWidth code else rowBytes

/-- The new value of one element (R203), from the old value and the operand. Compare-and-swap is `atomApply`'s. -/
def atomElem (op w old x : Nat) : Nat :=
  match op with
  | 1 => (old + x) % 2 ^ (8 * w)
  | 2 => f32Add old x
  | 3 => x
  | 5 => max old x
  | 6 => min old x
  | 7 => old &&& x
  | 8 => old ||| x
  | _ => old

/-- The new bytes of an element-wise atomic over a number of elements. -/
def atomRow (op w : Nat) : Nat → List Byte → List Byte → List Byte
  | 0, _, _ => []
  | n + 1, old, x => leBytes w (atomElem op w (leNat (old.take w)) (leNat (x.take w))) ++ atomRow op w n (old.drop w) (x.drop w)

/-- The new bytes of an atomic row's span from the old bytes and the row's data (R203). -/
def atomApply (code : Nat) (old data : List Byte) : List Byte :=
  let w := atomWidth code
  let op := bitsOf code 3 0
  if op = 4 then (if old.take w = data.take w then (data.drop w).take w else old.take w)
  else atomRow op w (data.length / w) old data

end Sys2Proof.Machine
end

