-- ==== Sys2Proof/Machine/Packets.lean ====
section
/-! DEFINITION. Sending packets: link ports, routes, queues of flits, end-to-end sequences and transactions (R222 to R243). -/

namespace Sys2Proof.Machine

-- ports and routes ------------------------------------------------------------------------------------------------------

/-- A link port. -/
def lnkPort (s : State) (p : Nat) : LinkPort := mapGetD s.lnk.ports p {}

/-- Changes a link port. -/
def lnkPortMod (p : Nat) (f : LinkPort → LinkPort) (s : State) : State :=
  { s with lnk := { s.lnk with ports := mapUp s.lnk.ports p {} f } }

/-- Whether a port is UP. -/
def lnkUp (s : State) (p : Nat) : Bool := (lnkPort s p).state = .up

/-- The routing entry of a node (R239). -/
def routeOf (s : State) (n : Nat) : RouteEntry := mapGetD s.lnk.routes n {}

/-- The port on which a flit for a node is queued (R240): the primary if UP, else the alternate if UP, else the primary, where it
waits. None without a valid entry. -/
def portFor (s : State) (n : Nat) : Option Nat :=
  let e := routeOf s n
  if e.valid then
    (if lnkUp s e.port then some e.port else if e.altValid && lnkUp s e.alt then some e.alt else some e.port)
  else none

/-- Counts a dropped flit or packet (R226, R242). -/
def lnkDrop (s : State) : State := { s with lnk := { s.lnk with dropCnt := sat64 (s.lnk.dropCnt + 1) } }

/-- The stream of a flit within its VC: the port by which it came, and what all packets of a flit share (R223). -/
def flitKey (x : QFlit) : Nat × Nat × Nat × Nat := (x.from_, x.f.tenant, x.f.src, x.f.dst)

/-- A flit leaves the receive buffer of the port by which it came, which owes its credit to the pool it came from (R229). -/
def flitLeft (x : QFlit) (s : State) : State :=
  match x.pool with
  | some c => lnkPortMod x.from_ (fun l => { l with owed := l.owed ++ [c], rxUsed := l.rxUsed - 1 }) s
  | none => s

/-- A waiting flit is dropped and counted (R242). -/
def flitDrop (x : QFlit) (s : State) : State := lnkDrop (flitLeft x s)

/-- The port at which the packet that a flit goes on with leaves or waits (R223). -/
def contPort (s : State) (x : QFlit) : Option Nat :=
  (List.range 16).find? (fun p => mapGet (lnkPort s p).unfinished x.f.vc = some (flitKey x)
    || (lnkPort s p).txQ.any (fun y => y.more && y.f.vc = x.f.vc && flitKey y = flitKey x))

/-- Queues a flit for its destination: one that begins a packet at the port its route gives, and any other after its packet's others. It is
dropped when the destination has no valid entry (R242); the rest of a packet whose beginning was lost is discarded (DESIGN CHOICE,
notes/assumptions/148). -/
def flitQueue (x : QFlit) (s : State) : State :=
  let at_ (p : Nat) : State := lnkPortMod p (fun l => { l with txQ := l.txQ ++ [{ x with since := now s }] }) s
  if x.f.cont then
    match contPort s x with
    | some p => at_ p
    | none => if (portFor s x.f.dst).isNone then flitDrop x s else flitLeft x s
  else
    match portFor s x.f.dst with
    | some p => at_ p
    | none => flitDrop x s

/-- The waiting flits of packets that have begun to leave by a port, by VC, and all others. -/
def splitBegun : FMap (Nat × Nat × Nat × Nat) → List QFlit → List QFlit × List QFlit
  | _, [] => ([], [])
  | m, x :: r =>
    if x.f.cont && mapGet m x.f.vc = some (flitKey x) then
      let y := splitBegun (if x.more then m else mapDel m x.f.vc) r
      (x :: y.1, y.2)
    else
      let y := splitBegun m r
      (y.1, x :: y.2)

/-- Moves the flits that wait at a port to the port that their route gives now (R240, R257), where they begin to wait anew (R242). The rest of
a packet that has begun to leave by a port stays there. -/
def lnkReroute (s : State) : State :=
  (List.range 16).foldl (fun s p =>
    let q := splitBegun (lnkPort s p).unfinished (lnkPort s p).txQ
    let here (x : QFlit) : Bool := portFor s x.f.dst = some p
    let go := q.2.filter (fun x => !here x)
    if go.isEmpty then s
    else go.foldl (fun s x => flitQueue x s) (lnkPortMod p (fun l => { l with txQ := q.1 ++ q.2.filter here }) s)) s

/-- Whether a type is listed (R226, R346); 0x30 to 0x3F are the coherence messages. -/
def typeListed (t : Nat) : Bool :=
  t = 0x01 || t = 0x02 || t = 0x03 || t = 0x10 || t = 0x11 || t = 0x12 || t = 0x20 || t = 0x21 || t = 0x22
    || (0x30 ≤ t && t ≤ 0x3F) || (0x40 ≤ t && t ≤ 0x43) || (0x50 ≤ t && t ≤ 0x53)

/-- Whether a type is sequenced (R226). -/
def typeSequenced (t : Nat) : Bool :=
  t = 0x01 || t = 0x02 || t = 0x03 || t = 0x10 || t = 0x11 || t = 0x12 || t = 0x20
    || (0x30 ≤ t && t ≤ 0x3F) || (0x40 ≤ t && t ≤ 0x4F) || t = 0x53

/-- The VC of a type (R226). -/
def typeVc (t : Nat) : Nat :=
  if t ≤ 0x0F then 0 else if t ≤ 0x1F then 2 else if t ≤ 0x2F then 1 else if t ≤ 0x3F then 3 else if t ≤ 0x4F then 4 else 5

/-- The flits that carry a packet of a length to a node (R222, R223). -/
def flitsOf (s : State) (dst : Nat) (p : Packet) : List QFlit :=
  let slots := 2 + (p.len + 15) / 16
  let n := (slots + 13) / 14
  (List.range n).map (fun i =>
    { f := { tenant := p.tenant, vc := typeVc p.type, slots := min 14 (slots - 14 * i), dst := dst, src := s.sys.nodeId, hops := 0,
             shared := false, cont := decide (i > 0), lseq := 0, ack := 0, nak := false, ackValid := false, cred0 := (7, 0),
             cred1 := (7, 0), crcOk := true, type := p.type },
      since := now s, more := decide (i + 1 < n), replay := p.replay })

/-- Puts the flits of a replay ahead of the new packets of its pair that wait at the port (R247). -/
def replayQueue (dst : Nat) (xs : List QFlit) (s : State) : State :=
  match portFor s dst with
  | some p =>
    let new (y : QFlit) : Bool := y.from_ = 16 && y.f.dst = dst && !y.f.cont && !y.replay
    lnkPortMod p (fun l => { l with txQ := l.txQ.takeWhile (fun y => !new y) ++ xs ++ l.txQ.dropWhile (fun y => !new y) }) s
  | none => xs.foldl (fun s x => flitDrop x s) s

/-- Puts a packet on its way to a node. One that this hub sends to itself takes no link (DESIGN CHOICE, notes/assumptions/134). -/
def packetOut (dst : Nat) (p : Packet) (s : State) : State :=
  let s := emit (.packet dst p) s
  if dst = s.sys.nodeId then s
  else if p.replay then replayQueue dst (flitsOf s dst p) s
  else (flitsOf s dst p).foldl (fun s f => flitQueue f s) s

/-- The sending side of a pair. -/
def txOf (s : State) (dst : Nat) : TxPair := mapGetD s.lnk.tx dst {}

/-- A sequenced packet takes the pair's next ESEQ, is kept until acknowledged, and goes (R243). -/
def packetNew (dst : Nat) (p : Packet) (s : State) : State :=
  let x := txOf s dst
  let p : Packet := { p with eseq := x.next }
  let k : KeptPacket := { eseq := x.next, p := p, port := (portFor s dst).getD 0, first := now s, last := now s,
                          wait := s.lnk.timeout * 1000 }
  packetOut dst p { s with lnk := { s.lnk with
    tx := mapPut s.lnk.tx dst { x with next := (x.next + 1) % 2 ^ 32, kept := x.kept ++ [k] } } }

/-- Originates a packet to a node (R243): of a sequenced type, it waits while its pair holds 4,096 unacknowledged packets. -/
def packetSend (dst : Nat) (p : Packet) (s : State) : State :=
  let p : Packet := { p with src := s.sys.nodeId }
  if typeSequenced p.type then
    let x := txOf s dst
    if x.kept.length ≥ 4096 || !x.waiting.isEmpty then
      { s with lnk := { s.lnk with tx := mapPut s.lnk.tx dst { x with waiting := x.waiting ++ [p] } } }
    else packetNew dst p s
  else packetOut dst p s

/-- The CMPL of a message to a seat. -/
def seatReply (t : Nat) (to_ : Nat × Nat) (st : Status) (s : State) : State :=
  packetSend to_.1 { src := 0, tenant := (tenantOf s t).getD 0, type := 0x20, status := st, tag := to_.2 } s

/-- Packets that wait for room in their pair go, in order, at most as many as a fuel. -/
def pairGo : Nat → Nat → State → State
  | 0, _, s => s
  | n + 1, dst, s =>
    let x := txOf s dst
    match x.waiting with
    | p :: r =>
      if x.kept.length ≥ 4096 then s
      else pairGo n dst (packetNew dst p { s with lnk := { s.lnk with tx := mapPut s.lnk.tx dst { x with waiting := r } } })
    | [] => s

/-- Whatever of a pair waits and has room now goes (R243). -/
def pairNext (dst : Nat) (s : State) : State := pairGo 4096 dst s

/-- Opens a transaction and gives its tag (R225). -/
def txnOpen (dst : Nat) (w : TxnFor) (s : State) : Nat × State :=
  let t := s.lnk.nextTag
  (t, { s with lnk := { s.lnk with
    nextTag := (t + 1) % 2 ^ 32
    txns := s.lnk.txns ++ [{ tag := t, dst := dst, what := w }] } })

end Sys2Proof.Machine
end

