-- ==== Sys2Proof/Machine/Store.lean ====
section
/-! DEFINITION. Device memory as the channel blocks hold it: where an address lies (R183), bytes under their keys (R186),
poison (R207), the merge buffer (R197 to R201) and the codeblock cache (R195). -/

namespace Sys2Proof.Machine

-- addresses (R100, R183) ------------------------------------------------------------------------------------------------

/-- The node ID in PA[59:48]. -/
def paNode (pa : Nat) : Nat := bitsOf pa 59 48

/-- PA[47]: a host-bus target. -/
def paHost (pa : Nat) : Bool := bitsOf pa 47 47 = 1

/-- Where a device address lies: stack, slab and offset within the slab. -/
structure Loc where
  stack : Nat
  slab : Nat
  off : Nat
  deriving DecidableEq, Repr

/-- The stack and slab offset of an address by the mode of its memory row (R183). -/
def locate (s : State) (pa : Nat) : Loc :=
  let k := bitsOf pa 39 34
  if s.mem.rowLocal.getLsbD k then { stack := bitsOf pa 33 30, slab := k, off := bitsOf pa 29 0 }
  else
    { stack := bitsOf pa 19 16 ^^^ bitsOf pa 23 20 ^^^ bitsOf pa 27 24 ^^^ bitsOf pa 31 28 ^^^ bitsOf pa 33 32
      slab := k
      off := bitsOf pa 33 20 * 65536 + bitsOf pa 15 0 }

/-- The alias of a slab, while a channel move or its forwarding is in force (R90). -/
def aliasOf (s : State) (l : Loc) : Option ChannelMove := s.bnd.moves.find? (fun m => m.old = slabIndex l.stack l.slab)

/-- Whether a location lies in a granule whose copy has begun and not ended (R91). -/
def granuleHeld (s : State) (l : Loc) : Bool :=
  s.bnd.moves.any (fun m => m.hold && m.old = slabIndex l.stack l.slab && m.granules = l.off / 65536)

/-- Whether a range touches a granule that is being copied. -/
def rangeHeld (s : State) (pa len : Nat) : Bool :=
  s.bnd.moves.any (fun m => m.hold)
    && (List.range (len / 65536 + 2)).any (fun i => granuleHeld s (locate s (min (pa + 65536 * i) (pa + len - 1))))

/-- Where the bytes of a location are now, on this hub: a granule already copied to another slab of this hub is found there
(R91). A chain of aliases is followed a few times. -/
def settleLoc (s : State) : Nat → Loc → Loc
  | 0, l => l
  | n + 1, l =>
    match aliasOf s l with
    | some m =>
      if m.node = s.sys.nodeId && decide (l.off / 65536 < m.granules) then
        settleLoc s n { stack := (m.new - 120) / 48, slab := (m.new - 120) % 48, off := l.off }
      else l
    | none => l

/-- The location of an address after aliases on this hub. -/
def placeOf (s : State) (pa : Nat) : Loc := settleLoc s 4 (locate s pa)

/-- The location that a forwarded request carries in ADDR (R227). -/
def fwdAddr (node stack slab off : Nat) : Nat :=
  off % 1024 * 2 ^ 42 + node * 2 ^ 30 + stack * 2 ^ 26 + slab * 2 ^ 20 + off / 1024

/-- The other hub to which a location's requests are forwarded, with the forwarded address, once its granule is copied. -/
def remoteOf (s : State) (l : Loc) : Option (Nat × Nat) :=
  match aliasOf s l with
  | some m =>
    if m.node ≠ s.sys.nodeId && decide (l.off / 65536 < m.granules) then
      some (m.node, fwdAddr m.node ((m.new - 120) / 48) ((m.new - 120) % 48) l.off)
    else none
  | none => none

/-- The stack-local address of a location. -/
def Loc.local_ (l : Loc) : Nat := l.slab * 2 ^ 30 + l.off

/-- The key in the cell list of a stack-local byte. -/
def cellKey (stack addr : Nat) : Nat := stack * 2 ^ 36 + addr

/-- The key of a codeblock in the poison map: the stack and the stack-local row (R177). -/
def rowKey (stack row : Nat) : Nat := stack * 2 ^ 26 + row

/-- Whether a codeblock is poisoned. -/
def poisoned (s : State) (stack row : Nat) : Bool := mapGetD s.mem.poison (rowKey stack row) false

/-- Sets or clears the poison of a codeblock. -/
def poisonPut (stack row : Nat) (p : Bool) (s : State) : State :=
  { s with mem := { s.mem with poison := mapPutD false s.mem.poison (rowKey stack row) p } }

/-- Changes the entry of a stack. -/
def stackMod (k : Nat) (f : StackSt → StackSt) (s : State) : State :=
  { s with mem := { s.mem with stk := mapUp s.mem.stk k {} f } }

/-- Whether a stack works. -/
def stackWorks (s : State) (k : Nat) : Bool := (stackOf s k).state = .working

-- keys (R187) -----------------------------------------------------------------------------------------------------------

/-- The tag of the key that a table slot's bytes lie under: the key slot and its generation. The null key has tag 0. -/
def tableKey (s : State) (t : Nat) : Nat :=
  match tableAt s t with
  | some tb => if tb.keySlot = 0 then 0 else tb.keySlot + 1024 * (mapGetD s.mem.keys tb.keySlot {}).gen
  | none => 0

/-- The table that a slab is bound to, in any state that keeps its binding (R64). -/
def slabTable (s : State) (stack slab : Nat) : Option Nat :=
  let b := bindAt s (slabIndex stack slab)
  match b.state with
  | .bound | .armed | .suspended | .migrating | .aliased => some b.table
  | _ => none

/-- The key tag of a slab: that of its table, or the null key. -/
def slabKey (s : State) (stack slab : Nat) : Nat :=
  match slabTable s stack slab with
  | some t => tableKey s t
  | none => 0

/-- The data key and the tweak key that a key tag names; the null key has neither (R187). -/
def keysOf (s : State) (key : Nat) : BitVec 256 × BitVec 256 :=
  let k := mapGetD s.mem.keys (key % 1024) {}
  if key = 0 then (0, 0) else (k.dataKey, k.tweakKey)

/-- The tweak of a codeblock (R186): its location, zero-extended. -/
def xtsTweak (node stack slab cb : Nat) : BitVec 128 := BitVec.ofNat 128 (node * 2 ^ 30 + stack * 2 ^ 26 + slab * 2 ^ 20 + cb)

-- bytes -----------------------------------------------------------------------------------------------------------------

/-- One stored byte read under a key: the byte, or what decryption under another key gives (R186, R219). -/
def loadByte (s : State) (stack key addr : Nat) : Byte :=
  let a := cellKey stack addr
  let b := mapGetD s.mem.cells a 0
  let k := mapGetD s.mem.keyOf a 0
  if k = key then b
  else
    let ks := keysOf s key
    Config.decryptOther ks.1 ks.2 (xtsTweak s.sys.nodeId stack (addr / 2 ^ 30) (addr / 1024 % 2 ^ 20)) (addr % 1024) k b

/-- Stored bytes read under a key. -/
def loadBytes (s : State) (stack key : Nat) : Nat → Nat → List Byte
  | 0, _ => []
  | n + 1, addr => loadByte s stack key addr :: loadBytes s stack key n (addr + 1)

/-- Stores bytes under a key. -/
def storeBytes (stack key : Nat) : Nat → List Byte → MemSt → MemSt
  | _, [], m => m
  | addr, b :: r, m =>
    storeBytes stack key (addr + 1) r
      { m with cells := mapPutD (0 : Byte) m.cells (cellKey stack addr) b, keyOf := mapPutD 0 m.keyOf (cellKey stack addr) key }

/-- Stores the bytes of a merge-buffer entry. -/
def storeEntry (stack key base : Nat) : FMap Byte → MemSt → MemSt
  | [], m => m
  | (i, b) :: r, m => storeEntry stack key base r (storeBytes stack key (base + i) [b] m)

/-- Removes every listed cell with a key from lo up to hi: a re-fill leaves zeros under the null key (R219). -/
def clearRange (lo hi : Nat) (s : State) : State :=
  { s with mem := { s.mem with
      cells := s.mem.cells.filter (fun c => !(lo ≤ c.1 && c.1 < hi))
      keyOf := s.mem.keyOf.filter (fun c => !(lo ≤ c.1 && c.1 < hi)) } }

/-- Clears the poison of rows lo up to hi of a stack. -/
def clearPoison (stack lo hi : Nat) (s : State) : State :=
  { s with mem := { s.mem with poison := s.mem.poison.filter (fun c => !(rowKey stack lo ≤ c.1 && c.1 < rowKey stack hi)) } }

-- codeblock cache (R195) ------------------------------------------------------------------------------------------------

/-- A line's codeblock becomes the most recently used of its set; the least recently used of 17 leaves. -/
def cacheFill (stack cb key : Nat) (s : State) : State :=
  let up (k : StackSt) : StackSt :=
    let rest := k.cache.filter (fun x => !(x.1 = cb && x.2 = key))
    let same := if rest.length < 16 then [] else rest.filter (fun x => Config.cacheSet x.1 = Config.cacheSet cb)
    match same.drop 15 with
    | [] => { k with cache := (cb, key) :: rest }
    | old :: _ => { k with cache := (cb, key) :: rest.filter (fun x => x ≠ old) }
  stackMod stack up s

/-- Invalidates the lines of a codeblock: a poisoned codeblock is never held (R196). -/
def cacheDrop (stack cb : Nat) (s : State) : State :=
  stackMod stack (fun k => { k with cache := k.cache.filter (fun x => x.1 ≠ cb) }) s

/-- Invalidates the lines under a key in every stack (R189 step 4). -/
def cacheDropKey (key : Nat) (s : State) : State :=
  { s with mem := { s.mem with stk := s.mem.stk.map (fun x => (x.1, { x.2 with cache := x.2.cache.filter (fun y => y.2 ≠ key) })) } }

-- the merge buffer (R197 to R201) ---------------------------------------------------------------------------------------

/-- The merge-buffer entry of a codeblock. -/
def mergeOf (s : State) (stack cb : Nat) : Option MergeEntry :=
  (stackOf s stack).merge.find? (fun e => e.codeblock = cb)

/-- Removes the merge-buffer entry of a codeblock. -/
def mergeDel (stack cb : Nat) (s : State) : State :=
  stackMod stack (fun k => { k with merge := k.merge.filter (fun e => e.codeblock ≠ cb) }) s

/-- Captures a poisoned codeblock or a lost merge entry in MEM_POISON_LAST when that register holds no capture, counts it and
raises the stack's uncorrectable-error source (R201, R208). -/
def poisonCapture (stack row : Nat) (s : State) : State :=
  let t := (slabTable s stack (row / 2 ^ 20)).getD 0
  let m := s.mem
  irqRaise (16 + stack)
    { s with mem := { m with
        uncorrectable := sat32 (m.uncorrectable + 1)
        poisonValid := true
        poisonTable := if m.poisonValid then m.poisonTable else t
        poisonStack := if m.poisonValid then m.poisonStack else stack
        poisonRow := if m.poisonValid then m.poisonRow else row } }

/-- Flushes a merge-buffer entry (R198): a full one is written without a read; a partial one is merged over its codeblock, or
lost when that is poisoned (R201). -/
def mergeFlushEntry (stack : Nat) (e : MergeEntry) (s : State) : State :=
  let s := mergeDel stack e.codeblock s
  if e.bytes.length < 1024 && poisoned s stack e.codeblock then poisonCapture stack e.codeblock s
  else
    let s := { s with mem := storeEntry stack e.key (e.codeblock * 1024) e.bytes s.mem }
    poisonPut stack e.codeblock false s

/-- Flushes the entry of a codeblock, if it has one. -/
def mergeFlushCb (stack cb : Nat) (s : State) : State :=
  match mergeOf s stack cb with
  | some e => mergeFlushEntry stack e s
  | none => s

/-- Flushes all the entries that a list names, oldest first. -/
def mergeFlushList (stack : Nat) : List MergeEntry → State → State
  | [], s => s
  | e :: r, s => mergeFlushList stack r (mergeFlushEntry stack e s)

/-- A fence over a range of codeblocks of a stack (R200). -/
def fenceRows (stack lo hi : Nat) (s : State) : State :=
  mergeFlushList stack ((stackOf s stack).merge.filter (fun e => lo ≤ e.codeblock && e.codeblock < hi)) s

/-- A fence over one slab. -/
def fenceSlab (stack slab : Nat) (s : State) : State := fenceRows stack (slab * 2 ^ 20) ((slab + 1) * 2 ^ 20) s

/-- A fence over every entry under a key, on every stack (R189, R200). -/
def fenceKey (key : Nat) (s : State) : State :=
  (List.range 16).foldl (fun s k => mergeFlushList k ((stackOf s k).merge.filter (fun e => e.key = key)) s) s

/-- Puts bytes into an entry's map from an offset; later bytes overwrite earlier ones (R197). -/
def putBytes : Nat → List Byte → FMap Byte → FMap Byte
  | _, [], m => m
  | o, b :: r, m => putBytes (o + 1) r (mapPut m o b)

/-- Admits a narrow write of one codeblock into the merge buffer (R197, R198): the oldest entry makes room when all 128 are in
use, and a full mask flushes at once. -/
def mergeWrite (stack key cb off : Nat) (bs : List Byte) (s : State) : State :=
  match mergeOf s stack cb with
  | some e =>
    let e' : MergeEntry := { e with bytes := putBytes off bs e.bytes, key := key }
    let s := stackMod stack (fun k => { k with merge := k.merge.map (fun x => if x.codeblock = cb then e' else x) }) s
    if e'.bytes.length < 1024 then s else mergeFlushEntry stack e' s
  | none =>
    let ms := (stackOf s stack).merge
    let s := if ms.length < 128 then s else match ms with
      | e :: _ => mergeFlushEntry stack e s
      | [] => s
    let e : MergeEntry := { codeblock := cb, key := key, bytes := putBytes off bs [], created := now s }
    stackMod stack (fun k => { k with merge := k.merge ++ [e] }) s

/-- A write within one codeblock of a working stack, as the channel block admits it (R194). A whole codeblock goes to the
write queue, replaces its merge-buffer entry and its poison. -/
def writeCb (stack key addr : Nat) (bs : List Byte) (s : State) : State :=
  let cb := addr / 1024
  if bs.length = 1024 ∧ addr % 1024 = 0 then
    let s := mergeDel stack cb s
    let s := { s with mem := storeBytes stack key addr bs s.mem }
    poisonPut stack cb false s
  else mergeWrite stack key cb (addr % 1024) bs s

/-- The bytes of an entry over the bytes of its codeblock (R199). -/
def overlay (e : Option MergeEntry) : Nat → List Byte → List Byte
  | _, [] => []
  | o, b :: r => (match e with | some e => mapGetD e.bytes o b | none => b) :: overlay e (o + 1) r

/-- A read within one codeblock: the bytes under the key with the entry's bytes over them, and whether it is poisoned. -/
def readCb (s : State) (stack key addr len : Nat) : Status × List Byte :=
  let cb := addr / 1024
  let bs := overlay (mergeOf s stack cb) (addr % 1024) (loadBytes s stack key len addr)
  if poisoned s stack cb then (.poisoned, bs) else (.ok, bs)

/-- A range cut at codeblock boundaries: address and length of each part. -/
def cbParts : Nat → Nat → Nat → List (Nat × Nat)
  | 0, _, _ => []
  | f + 1, a, n =>
    if n = 0 then []
    else
      let k := min n (1024 - a % 1024)
      (a, k) :: cbParts f (a + k) (n - k)

/-- A range cut at codeblock boundaries, whatever its length. -/
def partsOf (a n : Nat) : List (Nat × Nat) := cbParts (n / 1024 + 2) a n

-- the channel blocks' draws (R27, R38) -----------------------------------------------------------------------------------

/-- The working stacks of this hub that hold the bytes of a range of device memory. -/
def rangeStacks (s : State) (pa len : Nat) : List Nat :=
  ((((partsOf pa len).map (fun p => placeOf s p.1)).filter (fun l => (remoteOf s l).isNone && stackWorks s l.stack)).map (fun l => l.stack)).eraseDups

/-- Whether a channel block serves a request now: its domain is clocked (R27), and its class 0x1 draw is granted (R38). A request that ends
in its row returns the draw in the row; one that must wait leaves the block's draw in the arbiter's queue (R45). -/
def blockTake (k : Nat) (s : State) : Bool × State :=
  if !pllOn s (k / 4) then (false, s)
  else if anteHas s 1 k then (true, s)
  else
    let r := anteTake 1 k false s
    if r.1 then (true, anteFreeDraw 1 k r.2) else (false, stackMod k (fun x => { x with drawn := true }) r.2)

/-- The first of some channel blocks that does not serve now, if there is one; they are asked one after another. -/
def blocksTake : List Nat → State → Option Nat × State
  | [], s => (none, s)
  | k :: r, s =>
    let x := blockTake k s
    if x.1 then blocksTake r x.2 else (some k, x.2)

/-- Returns the draw of every channel block that has asked for it itself and for which nothing waits any more (R38). -/
def blocksIdle (s : State) : State :=
  (s.mem.stk.filter (fun x => x.2.drawn && x.2.queue.isEmpty && anteHas s 1 x.1
      && !s.trn.unitWalks.any (fun w => w.wants = some x.1))).foldl (fun s x =>
    stackMod x.1 (fun k => { k with drawn := false }) (anteFreeDraw 1 x.1 s)) s

/-- A read of less than a codeblock that ends well leaves the codeblocks that it meets in their caches (R195). -/
def readFill (key pa len : Nat) (s : State) : State :=
  (partsOf pa len).foldl (fun s p =>
    let l := placeOf s p.1
    if p.2 < 1024 && (remoteOf s l).isNone && stackWorks s l.stack && !poisoned s l.stack (l.local_ / 1024) then
      cacheFill l.stack (l.local_ / 1024) key s
    else s) s

-- whole accesses by physical address ------------------------------------------------------------------------------------

/-- What a read that ends within its row finds in a slab that has moved to another hub (R90, R91): the bytes are another hub's state,
which nothing here constrains (notes/assumptions/101). -/
opaque Config.farByte : State → Nat → Byte

/-- Whether such a read finds a poisoned codeblock. -/
opaque Config.farPoisoned : State → Nat → Bool

/-- A read of local device memory under a table's key. A failed stack answers POISONED (R182). -/
def devRead (s : State) (key pa len : Nat) : Status × List Byte :=
  (partsOf pa len).foldl (fun acc p =>
    let l := placeOf s p.1
    if (remoteOf s l).isSome then
      (worse acc.1 (if Config.farPoisoned s p.1 then .poisoned else .ok), acc.2 ++ (List.range p.2).map (fun i => Config.farByte s (p.1 + i)))
    else if stackWorks s l.stack then
      let r := readCb s l.stack key l.local_ p.2
      (worse acc.1 r.1, acc.2 ++ r.2)
    else (worse acc.1 .poisoned, acc.2 ++ List.replicate p.2 0)) (.ok, [])

/-- Forwards a write of a hub's own units into a slab that has moved to another hub (R90, R91, R227). -/
def farWrite (l : Loc) (node addr : Nat) (bs : List Byte) (s : State) : State :=
  let o := txnOpen node .other s
  let tenant := ((slabTable s l.stack l.slab).bind (tenantOf s)).getD 0
  packetSend node { src := 0, tenant := tenant, type := 0x10, fwd := true, addr := addr, tag := o.1, len := bs.length, payload := bs } o.2

/-- A write of local device memory under a table's key, part by part; parts on a failed stack are lost (R182), and parts that have moved to
another hub go there (R91). -/
def devWriteParts (key : Nat) : List (Nat × Nat) → List Byte → State → State
  | [], _, s => s
  | p :: r, bs, s =>
    let l := placeOf s p.1
    let s := match remoteOf s l with
      | some (n, a) => farWrite l n a (bs.take p.2) s
      | none => if stackWorks s l.stack then writeCb l.stack key l.local_ (bs.take p.2) s else s
    devWriteParts key r (bs.drop p.2) s

/-- A write of local device memory under a table's key. -/
def devWrite (key pa : Nat) (bs : List Byte) (s : State) : State := devWriteParts key (partsOf pa bs.length) bs s

/-- Whether every part of a range lies on a working stack, or has moved to another hub. -/
def devWorks (s : State) (pa len : Nat) : Bool :=
  (partsOf pa len).all (fun p => (remoteOf s (placeOf s p.1)).isSome || stackWorks s (placeOf s p.1).stack)

/-- Re-fills a range of local device memory: zeros under the null key, part by part (R219, R426). -/
def devZero (pa len : Nat) (s : State) : State :=
  (partsOf pa len).foldl (fun s p =>
    let l := placeOf s p.1
    let s := mergeDel l.stack (l.local_ / 1024) s
    let s := clearRange (cellKey l.stack l.local_) (cellKey l.stack (l.local_ + p.2)) s
    if p.2 = 1024 then poisonPut l.stack (l.local_ / 1024) false s else s) s

/-- Re-fills a slab (R219). -/
def slabZero (stack slab : Nat) (s : State) : State :=
  let s := stackMod stack (fun k => { k with merge := k.merge.filter (fun e => e.codeblock / 2 ^ 20 ≠ slab) }) s
  let s := clearRange (cellKey stack (slab * 2 ^ 30)) (cellKey stack ((slab + 1) * 2 ^ 30)) s
  clearPoison stack (slab * 2 ^ 20) ((slab + 1) * 2 ^ 20) s

/-- Executes an atomic row at the merge-buffer entry of its codeblock (R203): the status and old bytes, and the new state. -/
def devAtomic (key pa code rowBytes : Nat) (data : List Byte) (s : State) : (Status × List Byte) × State :=
  let n := atomSpan code rowBytes
  let old := devRead s key pa n
  if old.1 = .ok then (old, devWrite key pa (atomApply code old.2 data) s) else (old, s)

-- non-coherent writes of lines that caches hold (R379) ------------------------------------------------------------------

/-- The lines of a range of local device memory that a cache holds. -/
def heldLines (s : State) (pa len : Nat) : List Nat :=
  (s.coh.dir.filter (fun e => decide (pa / 256 ≤ e.1) && decide (e.1 * 256 < pa + len) && !e.2.presence.isEmpty
    && (remoteOf s (placeOf s (e.1 * 256))).isNone)).map (fun e => e.1)

/-- Leaves the bytes of a line free (R379). -/
def lineLoosen (key : Nat) (s : State) (line : Nat) : State :=
  devWrite key (line * 256) ((List.range 256).map (fun i => Config.freeByte (s.fresh + i))) { s with fresh := s.fresh + 256 }

/-- What a non-coherent write leaves in the lines of its range that a cache holds: unspecified content (R379). What it leaves in the
lines of a slab that has moved to another hub is not followed (notes/assumptions/157). -/
def linesLoosen (key pa len : Nat) (s : State) : State := (heldLines s pa len).foldl (lineLoosen key) s

/-- A non-coherent write of local device memory under a table's key (R379). -/
def ncWrite (key pa : Nat) (bs : List Byte) (s : State) : State := linesLoosen key pa bs.length (devWrite key pa bs s)

/-- A non-coherent atomic row of local device memory (R203, R379). -/
def ncAtomic (key pa code rowBytes : Nat) (data : List Byte) (s : State) : (Status × List Byte) × State :=
  let r := devAtomic key pa code rowBytes data s
  if r.1.1 = .ok then (r.1, linesLoosen key pa (atomSpan code rowBytes) r.2) else r

end Sys2Proof.Machine
end

