-- ==== Sys2Proof/Machine/Notify.lean ====
section
/-! DEFINITION. How the hub reaches its host and tells it things: posted writes on a table's primary port (R473, R474, R492),
memory objects as places for rings (R612), event rings (R450 to R455), the arming of interrupt targets (R578), Gararn answers
(R513 to R516), and the frame in which a command runs. -/

namespace Sys2Proof.Machine

-- host ports ------------------------------------------------------------------------------------------------------------

/-- A host port. -/
def portOf (s : State) (p : Nat) : HostPort := mapGetD s.hif.ports p {}

/-- Changes a host port. -/
def portMod (p : Nat) (f : HostPort → HostPort) (s : State) : State :=
  { s with hif := { s.hif with ports := mapUp s.hif.ports p {} f } }

/-- Whether a port can carry the hub's requests (R464). -/
def portCarries (s : State) (p : Nat) : Bool := (portOf s p).state = .up && (portOf s p).bme

/-- A table's attachments. -/
def hifTbl (s : State) (t : Nat) : HifTbl := mapGetD s.hif.tbl t {}

/-- Whether a table is attached to a port (R473). -/
def attachedTo (s : State) (t p : Nat) : Bool := if p = 0 then (hifTbl s t).att0 else (hifTbl s t).att1

/-- The PASID of a table on a port. -/
def pasidOf (s : State) (t p : Nat) : Nat := if p = 0 then (hifTbl s t).pasid0 else (hifTbl s t).pasid1

/-- Whether a table can use a port now. -/
def portUsable (s : State) (t p : Nat) : Bool := attachedTo s t p && portCarries s p

/-- The port that carries a table's requests now: its primary port, else the other one, else none (R474). -/
def primaryOf (s : State) (t : Nat) : Option Nat :=
  let p := (hifTbl s t).primary
  if portUsable s t p then some p else if portUsable s t (1 - p) then some (1 - p) else none

/-- Makes the other port primary where the primary port can no longer carry requests (R474). -/
def reprimary (t : Nat) (s : State) : State :=
  match primaryOf s t with
  | some p => { s with hif := { s.hif with tbl := mapMod s.hif.tbl t (fun h => { h with primary := p }) } }
  | none => s

/-- A request with another address: the translated one (R476). -/
def outAt (a : Nat) : Out → Out
  | .hostWrite p pasid _ bs r e => .hostWrite p pasid a bs r e
  | .hostRead p pasid _ n t => .hostRead p pasid a n t
  | o => o

/-- Whether a host port is active now: clocked (R27), with its class 0x4 draw granted (R38). What ends in its row returns the draw in the
row; what must wait leaves the port's draw in the arbiter's queue (R45). -/
def portTake (p : Nat) (s : State) : Bool × State :=
  if !pllOn s 8 then (false, s)
  else if anteHas s 4 p then (true, s)
  else
    let r := anteTake 4 p false s
    if r.1 then (true, anteFreeDraw 4 p r.2) else (false, portMod p (fun h => { h with drawn := true }) r.2)

/-- Sends a request to a host address on an active port: at once, or after the translation that ATS asks for (R476). -/
def hostOut (p addr : Nat) (o : Out) (s : State) : State :=
  let hp := portOf s p
  let page := addr / 4096
  if hp.atsEnable && (mapGet hp.atc page).isNone then
    portMod p (fun h => { h with atsWait := h.atsWait ++ [(page, o)] })
      (if hp.atsWait.any (fun x => x.1 = page) then s else emit (.ats p "TRANSLATION_REQUEST" page) s)
  else if hp.atsEnable then emit (outAt (mapGetD hp.atc page 0 + addr % 4096) o) s
  else emit o s

/-- Whether a port has room for a request: at most 2,048 of its reads are outstanding (R458), and at most 256 of the cores' (R485). A posted
write needs none. -/
def hostRoom (h : HostPort) (o : Out) : Bool := match o with
  | .hostRead _ _ _ _ tag =>
    let waits (r : HostRead) : Bool := h.held.any (fun x => match x.2 with
      | .hostRead _ _ _ _ t => t = r.tag
      | _ => false)
    let core (r : HostRead) : Bool := match r.what with
      | .piece (.cf _ _) _ _ => true
      | _ => false
    let out := h.reads.filter (fun r => r.tag ≠ tag && !waits r)
    decide (out.length < 2048) && (!h.reads.any (fun r => r.tag = tag && core r) || decide ((out.filter core).length < 256))
  | _ => true

/-- Sends those of a list of held requests that the port has room for. -/
def hostDrainOf (p : Nat) : List (Nat × Out) → State → State
  | [], s => s
  | x :: r, s => hostDrainOf p r
      (if hostRoom (portOf s p) x.2 then hostOut p x.1 x.2 (portMod p (fun h => { h with held := h.held.erase x }) s) else s)

/-- Sends what a port holds, in order, as far as it has room; nothing while the port may not carry requests (R464). -/
def hostDrain (p : Nat) (s : State) : State := if portCarries s p then hostDrainOf p (portOf s p).held s else s

/-- Sends a request to a host address on a port, behind those that wait for the port's draw (R38) or for room (R458, R485). -/
def hostSend (p addr : Nat) (o : Out) (s : State) : State :=
  let x := portTake p s
  if x.1 && (portOf s p).held.isEmpty && hostRoom (portOf s p) o then hostOut p addr o x.2
  else
    let s := portMod p (fun h => { h with held := h.held ++ [(addr, o)] }) x.2
    if x.1 then hostDrain p s else s

/-- Lets a port send what it holds, once a read has ended or the port may carry requests again. -/
def portKick (p : Nat) (s : State) : State :=
  if (portOf s p).held.isEmpty || !portCarries s p then s
  else
    let x := portTake p s
    if x.1 then hostDrain p x.2 else x.2

/-- Captures a request in HIF_HOST_ERR when it holds no capture (R468, R478). -/
def hifErr (kind p t addr : Nat) (s : State) : State :=
  if s.hif.errValid then s
  else irqRaise 56 { s with hif := { s.hif with errValid := true, errPort := p, errKind := kind, errTable := t, errAddr := addr } }

/-- The table of a posted write. -/
def Unconfirmed.table : Unconfirmed → Option Nat
  | .burst _ t _ _ _ => some t
  | .piece _ _ _ t _ _ => some t
  | .write t _ _ => some t
  | .msix _ => none

/-- Whether a posted write is one of a copy engine's. -/
def Unconfirmed.ofEngine (k : Nat) : Unconfirmed → Bool
  | .burst j _ _ _ _ => j = k
  | _ => false

/-- Whether a posted write is one of a tile of some source. -/
def Unconfirmed.ofSource (mine : Source → Bool) : Unconfirmed → Bool
  | .piece x _ _ _ _ _ => mine x
  | _ => false

/-- A host port as a guard (R343): the writes sent on it up to now have not been followed by a completed read. -/
def portGuard (s : State) (p : Nat) : Guard := .port p (portOf s p).sent

/-- Whether a guard still stands. -/
def guardStands (s : State) : Guard → Bool
  | .tile src tag => s.trn.tiles.any (fun x => x.src = src && x.d.tag = tag)
  | .txn tag => s.lnk.txns.any (fun x => x.tag = tag)
  | .port p n => decide ((portOf s p).sent - (portOf s p).unconfirmed.length < n)
  | .lost => true

/-- The host paths on which posted writes of some kind have not been followed by a completed read (R343, R444). -/
def pathGuards (s : State) (mine : Unconfirmed → Bool) : List Guard :=
  ((List.range 2).filter (fun p => (portOf s p).unconfirmed.any mine)).map (portGuard s) ++ (if s.hif.lostWrites.any mine then [.lost] else [])

/-- The tiles of some source that write and have not ended. -/
def tileGuards (s : State) (mine : Source → Bool) : List Guard :=
  (s.trn.tiles.filter (fun x => mine x.src && x.d.op ≠ 1)).map (fun x => .tile x.src x.d.tag)

/-- Whether a source is a core of a cluster that a mask names. -/
def ofCores (cl mask : Nat) : Source → Bool
  | .cf c o => c.val = cl && mask / 2 ^ o.val % 2 = 1
  | _ => false

/-- The writes of a cluster's cores that are not yet in place. -/
def coresGuards (s : State) (cl mask : Nat) : List Guard :=
  tileGuards s (ofCores cl mask) ++ pathGuards s (Unconfirmed.ofSource (ofCores cl mask))

/-- Adds an unconfirmed write (R492). The confirming interval runs from the first. -/
def unconfirm (p : Nat) (u : Unconfirmed) (s : State) : State :=
  portMod p (fun h => { h with
    unconfirmed := h.unconfirmed ++ [u]
    sent := h.sent + 1
    lastConfirm := if h.unconfirmed.isEmpty then now s else h.lastConfirm }) s

/-- Posts a write of a table to host memory on its primary port; none when no port can carry it. -/
def hostWrite (t addr : Nat) (bs : List Byte) (s : State) : Option State :=
  match primaryOf s t with
  | some p => some (unconfirm p (.write t addr bs) (hostSend p addr (.hostWrite p (pasidOf s t p) addr bs false false) s))
  | none => none

-- memory objects --------------------------------------------------------------------------------------------------------

/-- The memory object that a handle names, whatever its generation. -/
def memOf (s : State) (h : Handle) : Option MemObj := mapGet s.obj.mems (hIdx h)

/-- The address of an offset within extents taken back to back (R612). -/
def extentAt : List (Nat × Nat) → Nat → Option Nat
  | [], _ => none
  | (b, n) :: r, off => if off < n then some (b + off) else extentAt r (off - n)

/-- The length of extents taken together. -/
def extentsLen (l : List (Nat × Nat)) : Nat := (l.map (fun x => x.2)).sum

/-- Whether the place that an object gives can be written now: device memory always, host memory while a port carries it. -/
def objReachable (s : State) (t : Nat) (h : Handle) : Bool :=
  match memOf s h with
  | some o => if o.kind = .host then (primaryOf s t).isSome else true
  | none => false

/-- Writes bytes at an offset of a memory object of a table; none when they lie in host memory that no port can reach. -/
def objWrite (t : Nat) (h : Handle) (off : Nat) (bs : List Byte) (s : State) : Option State :=
  match memOf s h with
  | none => some s
  | some o =>
    match extentAt o.extents off with
    | none => some s
    | some a => if o.kind = .host then hostWrite t a bs s else some (devWrite (tableKey s t) a bs s)

-- events (R450 to R455) -------------------------------------------------------------------------------------------------

/-- Positions of rings count modulo 131,072 (R429). -/
def posMod : Nat := 131072

/-- How far position a lies beyond position b. -/
def posDist (a b : Nat) : Nat := (a + posMod - b) % posMod

/-- The phase of a position in a ring of a size (R429). -/
def phaseAt (pos size : Nat) : Bool := pos / size % 2 = 0

/-- The event that a handle names, whatever its generation. -/
def eventOf (s : State) (h : Handle) : Option Event := mapGet s.obj.events (hIdx h)

/-- Changes an event. -/
def eventMod (h : Handle) (f : Event → Event) (s : State) : State :=
  { s with obj := { s.obj with events := mapMod s.obj.events (hIdx h) f } }

/-- Whether a handle names a live event that still takes entries. -/
def eventLive (s : State) (h : Handle) : Bool :=
  checkHandle s none 4 h = .ok && (match eventOf s h with | some e => !e.destroying | none => false)

/-- The 32 bytes of an event entry at a position (R451). -/
def entryBytes (e : EventEntry) (phase : Bool) : List Byte :=
  leBytes 1 e.type ++ leBytes 1 (b2n phase * 128) ++ leBytes 1 e.status.code ++ leBytes 1 0 ++ leBytes 4 e.source
    ++ leBytes 8 e.cookie ++ leBytes 8 e.detail ++ leBytes 8 e.time

/-- Sends a message of a vector on a port, or sets its pending bit while the function's MSI-X is off (R454, R475, R492). -/
def msixSend (p vector : Nat) (s : State) : State :=
  if (portOf s p).msix then unconfirm p (.msix vector) (emit (.msix p vector) s)
  else portMod p (fun h => { h with msixPend := if vector ∈ h.msixPend then h.msixPend else h.msixPend ++ [vector] }) s

/-- An event's message, held back within its moderation interval (R454), on the port that wrote its entry (R475). -/
def eventMessage (h : Handle) (s : State) : State :=
  match eventOf s h with
  | none => s
  | some e =>
    if e.vector = 0xFFFF then s
    else
      let early := match e.lastMsg with
        | some l => decide (now s < l + e.moderation)
        | none => false
      match (match e.port with
        | some p => if portUsable s e.table p then some p else primaryOf s e.table
        | none => primaryOf s e.table) with
      | some p =>
        if early then eventMod h (fun e => { e with msgDue := true }) s
        else eventMod h (fun e => { e with msgDue := false, lastMsg := some (now s) }) (msixSend p e.vector s)
      | none => eventMod h (fun e => { e with msgDue := true }) s

/-- Writes the held entries of an event from its first held position, a number of them at most (R455). -/
def eventFlushN : Nat → Handle → State → State
  | 0, _, s => s
  | n + 1, h, s =>
    match eventOf s h with
    | none => s
    | some e =>
      if e.heldFrom = e.prod then s
      else
        match mapGet e.ring e.heldFrom with
        | none => eventFlushN n h (eventMod h (fun e => { e with heldFrom := (e.heldFrom + 1) % posMod }) s)
        | some x =>
          match objWrite e.table e.ringObj (e.ringOff + 32 * (e.heldFrom % e.size)) (entryBytes x (phaseAt e.heldFrom e.size)) s with
          | none => s
          | some s' =>
            let host : Bool := match memOf s e.ringObj with
              | some o => o.kind = .host
              | none => false
            let up (e : Event) : Event := { e with
              ring := mapDel e.ring e.heldFrom
              heldFrom := (e.heldFrom + 1) % posMod
              port := if host then primaryOf s e.table else none }
            eventFlushN n h (eventMessage h (eventMod h up s'))

/-- A target's held entry has been written once its event holds none (R585). -/
def irqHeldAgain (s : State) : State :=
  { s with irq := { s.irq with tgts := s.irq.tgts.map (fun x => (x.1, match eventOf s x.2.event with
      | some e => if x.2.held && e.heldFrom = e.prod then { x.2 with held := false } else x.2
      | none => x.2)) } }

/-- Writes what an event holds, as far as its ring can be reached; an event that is destroyed raises nothing more (R455). -/
def eventFlush (h : Handle) (s : State) : State :=
  match eventOf s h with
  | some e => if e.destroying then s else irqHeldAgain (eventFlushN (posDist e.prod e.heldFrom) h s)
  | none => s

/-- Appends an entry to an event's ring and writes it if it can be written. -/
def eventAppend (h : Handle) (x : EventEntry) (s : State) : State :=
  let up (e : Event) : Event := { e with ring := mapPut e.ring e.prod x, prod := (e.prod + 1) % posMod }
  eventFlush h (eventMod h up s)

/-- Writes an entry to an event (R452): while two slots are free; into the last free slot goes an OVERFLOW entry instead with
the count of those dropped. A handle that names no live event takes nothing (R455). -/
def eventWrite (h : Handle) (x : EventEntry) (s : State) : State :=
  if eventLive s h then
    match eventOf s h with
    | none => s
    | some e =>
      let free := e.size - posDist e.prod e.cons
      if free ≥ 2 then eventAppend h x s
      else
        let s := eventMod h (fun e => { e with dropped := e.dropped + 1 }) s
        if free = 1 then
          let o : EventEntry := { type := 8, status := .ok, source := h, cookie := 0, detail := e.dropped + 1, time := now s }
          eventAppend h o s
        else s
  else s

-- interrupt targets (R578, R584, R585) ----------------------------------------------------------------------------------

/-- Sets a target's entry. -/
def irqTgtMod (t : Nat) (f : IrqTgt → IrqTgt) (s : State) : State :=
  { s with irq := { s.irq with tgts := mapUp s.irq.tgts t {} f } }

/-- Arms a target that has an eligible source and is not armed: target 0 asserts the core's interrupt, a host target writes a
DEVICE entry with the ID a claim would return (R578). -/
def irqArm (s : State) (t : Nat) : State :=
  let top := irqTop s t
  if top = 0 ∨ (irqTgtOf s t).armed then s
  else
    let s := irqTgtMod t (fun g => { g with armed := true }) s
    if t = 0 then emit .coreIrq s
    else
      let h := (irqTgtOf s t).event
      let x : EventEntry := { type := 9, status := .ok, source := 0, cookie := 0, detail := top, time := now s }
      let s := eventWrite h x s
      let stuck : Bool := match eventOf s h with
        | some e => e.heldFrom ≠ e.prod && mapGet e.ring ((e.prod + posMod - 1) % posMod) = some x
        | none => false
      irqTgtMod t (fun g => { g with held := stuck }) s

/-- Arms every target that is to be armed, in order of number, while the hub fabric domain, in which IRQ lies, is clocked (R25, R27). -/
def irqSettle (s : State) : State := if pllOn s 9 then (List.range 9).foldl irqArm s else s

/-- A command of the hub that has run: interrupts settle, and the state is the next one. -/
def finish (s : State) : Result := .next (irqSettle s)

/-- A command that needs a released, running hub; otherwise nothing happens (R30, R57, R597). -/
def live (s : State) (f : State → State) : Result := if running s then finish (f s) else .next s

/-- A command that runs in a domain which a PLL feeds: nothing happens while that PLL is out of lock (R25, R27). -/
def liveOn (pll : Nat) (s : State) (f : State → State) : Result := if pllOn s pll then live s f else .next s

-- Gararn answers (R513 to R516) -----------------------------------------------------------------------------------------

/-- The outcome of executing a request: an answer now, or none yet, and the state. -/
structure Outcome where
  reply : Option Reply
  s : State

/-- An answer with the state. -/
def done (st : Status) (s : State) : Outcome := { reply := some { st := st }, s := s }

/-- An answer that hands out a handle. -/
def doneWith (h : Handle) (s : State) : Outcome := { reply := some { st := .ok, handle := h }, s := s }

/-- An answer with a body. -/
def doneBody (b : List Byte) (s : State) : Outcome := { reply := some { st := .ok, body := b }, s := s }

/-- No answer yet. -/
def later (s : State) : Outcome := { reply := none, s := s }

/-- Changes a mailbox. -/
def boxMod (m : Nat) (f : Mailbox → Mailbox) (s : State) : State :=
  { s with mbx := { s.mbx with boxes := mapUp s.mbx.boxes m {} f } }

/-- Writes the answer of the request a mailbox executes: STATE becomes DONE, the response is stored with its SEQ, and source
96 + m is raised (R513, R515, R516). -/
def answerNow (m : Nat) (r : Reply) (s : State) : State :=
  let b := boxOf s m
  let resp : Response := ⟨b.opcode, r.st, r.detail, b.seq, r.handle, now s, r.body⟩
  let up (b : Mailbox) : Mailbox := { b with
    busy := false
    done := true
    executing := false
    journalled := false
    lastSeq := b.seq
    resp := some resp
    stored := some resp
    owed := none }
  irqRaise (96 + m) (boxMod m up s)

/-- Whether the control core runs and is clocked, so that Snisol answers (R27, R507). -/
def coreAnswers (s : State) : Bool := s.mbx.core = .running && pllOn s 11

/-- Answers the request a mailbox executes: now, or when the control core runs again (R507). -/
def answer (m : Nat) (r : Reply) (s : State) : State :=
  if coreAnswers s then answerNow m r s else boxMod m (fun b => { b with owed := some r }) s

/-- A message of another hub's firmware that only a running control core takes (R507): now, or when it runs again. -/
def ctrlCore (m : CtrlHeld) (f : State → State) (s : State) : State :=
  if coreAnswers s then f s else { s with mbx := { s.mbx with ctrlHeld := s.mbx.ctrlHeld ++ [m] } }

/-- Whether the control core takes requests (R507). -/
abbrev coreRuns (s : State) : Bool := s.mbx.core = .running && !s.mbx.gated && pllOn s 11

/-- The letters of the opcode table (R520). -/
inductive Letter where
  | o | t | ot
  deriving DecidableEq, Repr

/-- Whether a mailbox may send a request of a letter (R510). -/
def letterOk (s : State) (m : Fin 64) (l : Letter) : Bool :=
  if isOperator m then l ≠ .t else (boxOf s m).assigned.isSome && l ≠ .o

/-- The checks before any request other than HELLO (R510, R519): the version, then the sender. -/
def gateStatus (s : State) (m : Fin 64) (l : Letter) : Status :=
  if (boxOf s m).version ≠ 4 then .version else if letterOk s m l then .ok else .denied

/-- Journals a request of a mailbox (R517), does it, and answers if it has an answer. -/
def executeAny (op : Nat) (m : Fin 64) (f : State → Outcome) (s : State) : State :=
  let r := f (boxMod m (fun b => { b with opcode := op, executing := true, journalled := true }) s)
  match r.reply with
  | some a => answer m a r.s
  | none => r.s

/-- Executes a request of a mailbox behind the checks of its version and its sender. -/
def execute (op : Nat) (l : Letter) (m : Fin 64) (f : State → Outcome) (s : State) : State :=
  executeAny op m (fun s => match gateStatus s m l with
    | .ok => f s
    | st => done st s) s

/-- A Gararn request of a running hub with a running control core. -/
def gararn (op : Nat) (l : Letter) (c : Caller) (f : State → Outcome) (s : State) : Result :=
  live s (fun s => if coreRuns s then execute op l c.mbx f s else s)

end Sys2Proof.Machine
end

