-- ==== Sys2Proof/Machine/Interrupts.lean ====
section
/-! DEFINITION. The interrupt controller's commands (R573 to R589) and the frame of an access to BAR0. -/

namespace Sys2Proof.Machine

/-- Whether the host's accesses reach the hub: it has not stopped, and the host port and fabric domains are clocked (R27). -/
def hostOn (s : State) : Bool := !s.sys.stopped && pllOn s 8 && pllOn s 9

/-- Whether a port takes requests to its BARs: it is up with Memory Space Enable 1 (R464), and the host's accesses reach the hub. Before
Release BAR0 is readable once the port has trained (R595). -/
def barOpen (s : State) (p : Nat) : Bool := hostOn s && (portOf s p).state = .up && (portOf s p).mse

-- AER (R487, R488) ------------------------------------------------------------------------------------------------------

/-- Logs an error in the AER registers of a port, which an endpoint reset leaves (R491). -/
def aerLog (p : Nat) (name : String) (s : State) : State :=
  emit (.aer p name) (portMod p (fun h => { h with aerSticky := if name ∈ h.aerSticky then h.aerSticky else h.aerSticky ++ [name] }) s)

/-- Completes a request UR, or discards a posted one, and logs it (R487). -/
def urDone (p : Nat) (posted : Bool) (s : State) : State :=
  aerLog p "UNSUPPORTED_REQUEST" (if posted then s else emit (.ur p) s)

/-- Whether a port's link is up, in D0 or D3hot. -/
def portLinked (s : State) (p : Nat) : Bool := hostOn s && ((portOf s p).state = .up || (portOf s p).state = .d3hot)

/-- An access to BAR0 on a port, posted or not: UR while the port takes no memory request (R487), nothing while its link is down. -/
def bar (p : Nat) (posted : Bool) (f : State → State) (s : State) : Result :=
  if barOpen s p then finish (f s)
  else if portLinked s p then finish (urDone p posted s)
  else .next s

/-- Changes a source's entry. -/
def irqSrcMod (id : Nat) (f : IrqSrc → IrqSrc) (s : State) : State :=
  { s with irq := { s.irq with srcs := mapUp s.irq.srcs id {} f } }

/-- A claim of target t (R579): the ID it returns and the state after. -/
def claim (t : Nat) (s : State) : Nat × State :=
  let top := irqTop s t
  let armed := (irqTgtOf s t).armed
  if top ≠ 0 then (top, irqTgtMod t (fun g => { g with armed := false }) (irqSrcMod top (fun i => { i with insvc := some t }) s))
  else if armed then (1023, irqTgtMod t (fun g => { g with armed := false }) s)
  else (0, s)

/-- A completion of an ID at target t (R580). -/
def complete (t id : Nat) (s : State) : State :=
  if id ≠ 0 ∧ id ≠ 1023 ∧ (irqSrcOf s id).insvc = some t then irqSrcMod id (fun i => { i with insvc := none }) s
  else { s with irq := { s.irq with errComplete := true } }

/-- Who makes an access to a target's registers: the control core at target 0 (R586), the host at every other. -/
def targetAccess (p : Nat) (posted : Bool) (t : Nat) (f : State → State) (s : State) : Result :=
  if t = 0 then (if coreRuns s && !s.sys.stopped && pllOn s 9 then finish (f s) else .next s) else bar p posted f s

/-- IRQ_CLAIM: a read of IRQ_TGT_CLAIM (R579). At target 0 it is the control core's own. -/
def execIrqClaim (port : Fin 2) (target : Fin 9) (s : State) : Result :=
  targetAccess port.val false target.val (fun s =>
    let r := claim target.val s
    if target.val = 0 then r.2 else emit (.bar0Read port.val r.1) r.2) s

/-- IRQ_COMPLETE: a write of IRQ_TGT_CLAIM (R6, R580). -/
def execIrqComplete (port : Fin 2) (target : Fin 9) (value : BitVec 32) (s : State) : Result :=
  targetAccess port.val true target.val (fun s =>
    let t := target.val
    let s := if bitsOf value.toNat 31 10 ≠ 0 then swErrSet 0 (0x204008 + 0x20 * t) s else s
    complete t (bitsOf value.toNat 9 0) s) s

/-- IRQ_SRC_CFG_WRITE (R576, R582, R586): a fixed source keeps its configuration, and a target above 8 keeps the field. -/
def execIrqSrcCfgWrite (port : Fin 2) (source : Fin 1023) (value : BitVec 32) (s : State) : Result :=
  bar port.val true (fun s =>
    let i := source.val
    let v := value.toNat
    if i = 0 then swErrSet 1 0x201000 s
    else
      let s := if bitsOf v 30 8 ≠ 0 then swErrSet 0 (0x201000 + 4 * i) s else s
      if irqFixed i then s
      else
        let t := bitsOf v 7 4
        let s := irqSrcMod i (fun x => { x with prio := bitsOf v 3 0, target := if t ≤ 8 then t else x.target }) s
        if t > 8 then { s with irq := { s.irq with errTarget := true } } else s) s

/-- Binds a host target (R584). A binding to another event, or of a target that was not bound, delivers afresh: the target is disarmed
(the model's reading, log 26). Otherwise it stays as it is, and an armed target that is bound no more answers its next claim 1,023. -/
def bindTarget (t v : Nat) (s : State) : State :=
  let h := bitsOf v 31 0
  let want := bitsOf v 63 63 = 1
  let ok := want && eventLive s h
  let up (g : IrqTgt) : IrqTgt :=
    let same := g.valid && g.event = h
    { g with valid := ok, threshold := bitsOf v 35 32, event := h, armed := g.armed && (same || !ok), held := g.held && same }
  let s := irqTgtMod t up s
  if want && !ok then { s with irq := { s.irq with errEvent := true } } else s

/-- IRQ_TGT_CFG as it reads. -/
def tgtCfg (g : IrqTgt) : Nat := b2n g.valid * 2 ^ 63 + g.threshold * 2 ^ 32 + g.event

/-- IRQ_TGT_CFG_WRITE (R6, R584, R608): the whole register, or one half of it, the other half staying as it reads. At target 0 the control
core sets THRESHOLD, its writes of VALID are ignored, and EVENT is reserved. -/
def execIrqTgtCfgWrite (port : Fin 2) (target : Fin 9) (value : RegWrite) (s : State) : Result :=
  targetAccess port.val true target.val (fun s =>
    let t := target.val
    let v := value.part.merge (tgtCfg (irqTgtOf s t)) value.value.toNat
    let put := value.part.put value.value.toNat
    let off := 0x204000 + 0x20 * t + value.part.offset
    let s := if bitsOf put 62 36 ≠ 0 ∨ (t = 0 ∧ bitsOf put 31 0 ≠ 0) then swErrSet 0 off s else s
    if t = 0 then irqTgtMod 0 (fun g => { g with threshold := bitsOf v 35 32 }) s else bindTarget t v s) s

/-- CORE_GATE_ENTRY (R587): the control core's domain is gated with its target-0 context in retention registers, unless a
source is eligible at target 0. -/
def execCoreGateEntry (s : State) : Result :=
  live s (fun s =>
    if coreRuns s && irqTop s 0 = 0 then
      { s with
        mbx := { s.mbx with gated := true }
        irq := { s.irq with
          retThreshold := (irqTgtOf s 0).threshold
          retArmed := (irqTgtOf s 0).armed
          retInsvc := (s.irq.srcs.filter (fun x => x.2.insvc = some 0)).map (fun x => x.1) } }
    else s)

/-- CORE_GATE_WAKE (R587): the first source eligible at target 0 wakes the domain, and the context is restored. -/
def execCoreGateWake (s : State) : Result :=
  live s (fun s =>
    if s.mbx.gated && irqTop s 0 ≠ 0 then
      let s := { s with mbx := { s.mbx with gated := false } }
      let s := irqTgtMod 0 (fun g => { g with threshold := s.irq.retThreshold, armed := g.armed || s.irq.retArmed }) s
      s.irq.retInsvc.foldl (fun s i => irqSrcMod i (fun x => { x with insvc := some 0 }) s) s
    else s)

/-- The target-0 context and its retention copy are cleared at a control-core restart (R588). -/
def irqRestart (s : State) : State :=
  { s with irq := { s.irq with
      srcs := s.irq.srcs.map (fun x => (x.1, if x.2.insvc = some 0 then { x.2 with insvc := none } else x.2))
      tgts := mapDel s.irq.tgts 0
      retThreshold := 0
      retArmed := false
      retInsvc := [] } }

/-- A destroyed event unbinds every target it is bound to (R584). -/
def irqUnbind (h : Handle) (s : State) : State :=
  { s with irq := { s.irq with
      tgts := s.irq.tgts.map (fun x => (x.1, if x.1 ≠ 0 ∧ x.2.event = h then { x.2 with valid := false, held := false } else x.2)) } }

/-- Sends the messages whose pending bits are set, once the port.s MSI-X is enabled (R475), those
of unconfirmed messages lost in a reset among them (R492). -/
def msixRelease (p : Nat) (s : State) : State :=
  let ms := (portOf s p).msixPend
  ms.foldl (fun s v => unconfirm p (.msix v) (emit (.msix p v) s)) (portMod p (fun h => { h with msixPend := [] }) s)

/-- MSIX_ENABLE: the host sets MSI-X Enable of a function that is up. -/
def execMsixEnable (port : Fin 2) (s : State) : Result :=
  if (portOf s port.val).state = .up ∧ hostOn s then
    finish (msixRelease port.val (portMod port.val (fun h => { h with msix := true }) s))
  else .next s

end Sys2Proof.Machine
end

