-- ==== Sys2Proof/Machine/Commands.lean ====
section
/-! DEFINITION. Commands of queues, their retirement and their losses, and the counters that join them: what every unit shares
about R331 to R370 and R428 to R449. -/

namespace Sys2Proof.Machine

-- queues and entries ----------------------------------------------------------------------------------------------------

/-- The queue that a handle names, whatever its generation. -/
def queueOf (s : State) (h : Handle) : Option Queue := mapGet s.obj.queues (hIdx h)

/-- The code of a queue state (R421). -/
def QueueState.code : QueueState → Nat
  | .active => 1 | .stopped => 2 | .paused => 3 | .lost => 4 | .destroying => 5

/-- Changes a queue. -/
def queueMod (h : Handle) (f : Queue → Queue) (s : State) : State :=
  { s with obj := { s.obj with queues := mapMod s.obj.queues (hIdx h) f } }

/-- The entry of a command. -/
def entryOf (s : State) (r : CmdRef) : Option QEntry :=
  (queueOf s r.queue).bind (fun q => q.entries.find? (fun e => e.pos = r.pos))

/-- Changes the entry of a command. -/
def entryMod (r : CmdRef) (f : QEntry → QEntry) (s : State) : State :=
  queueMod r.queue (fun q => { q with entries := q.entries.map (fun e => if e.pos = r.pos then f e else e) }) s

/-- Whether an entry is decided. -/
def QEntry.isDecided (e : QEntry) : Bool :=
  match e.state with
  | .decided .. => true
  | _ => false

/-- The context that a handle names, whatever its generation. -/
def ctxOf (s : State) (h : Handle) : Option Ctx := if hKind h = 1 then mapGet s.obj.ctxs (hIdx h) else none

/-- Changes a context. -/
def ctxMod (h : Handle) (f : Ctx → Ctx) (s : State) : State :=
  if hKind h = 1 then { s with obj := { s.obj with ctxs := mapMod s.obj.ctxs (hIdx h) f } } else s

/-- The handle of the queue at an index. -/
def queueHandle (s : State) (i : Nat) : Handle := liveHandle s 2 i

/-- The queues of a context, by handle. -/
def queuesOfCtx (s : State) (c : Handle) : List Handle :=
  (s.obj.queues.filter (fun x => x.2.ctx = c)).map (fun x => queueHandle s x.1)

/-- The queues of a table, by handle. -/
def queuesOfTable (s : State) (t : Nat) : List Handle :=
  (s.obj.queues.filter (fun x => x.2.table = t)).map (fun x => queueHandle s x.1)

/-- The source of what a command itself reads and writes in memory: its queue, with its position above the handle. -/
def cmdSource (r : CmdRef) : Source := .queue (r.queue + 2 ^ 32 * r.pos)

/-- The undecided commands of a queue. -/
def openCmds (s : State) (q : Handle) : List CmdRef :=
  match queueOf s q with
  | some x => (x.entries.filter (fun e => !e.isDecided)).map (fun e => { queue := q, pos := e.pos })
  | none => []

/-- Whether a command belongs to the open step of its table (R546). -/
def inStep (s : State) (r : CmdRef) : Bool :=
  match queueOf s r.queue, entryOf s r with
  | some q, some e => e.d.step && (match tableAt s q.table with | some tb => tb.step.isOpen && tb.step.state = .open_ | none => false)
  | _, _ => false

/-- Presents an event for a command to the arbiter of R445: in order of arrival, and a commit before the other events of its tick. -/
def present (r : CmdRef) (ev : ArbEvent) (s : State) : State :=
  entryMod r (fun e =>
    if e.isDecided then e
    else
      let fresh := if e.eventsAt = now s then e.eventsFresh else 0
      let k := e.events.length - fresh
      { e with
        events := if ev = .commit then e.events.take k ++ ev :: e.events.drop k else e.events ++ [ev]
        eventsAt := now s
        eventsFresh := fresh + 1 }) s

/-- Ends a command with a status and, for FAULT, a cause (R442). -/
def failCmd (r : CmdRef) (st : Status) (cause : Nat) (s : State) : State := present r (.fail st cause) s

/-- Ends a command with a status that a unit's access came to: a FAULT among them is a host error (R478) or a remote refusal, with cause
PERMISSION. -/
def failUnit (r : CmdRef) (st : Status) (s : State) : State := failCmd r st (if st = .fault then 2 else 0) s

/-- Presents a command's commit. -/
def commitCmd (r : CmdRef) (s : State) : State := present r .commit s

/-- The command channel's ABORT of a launched command (R435). -/
def abortLaunch (r : CmdRef) (s : State) : State :=
  (s.obj.launched.filter (fun l => l.ref = some r && !l.waitCore)).foldl (fun s l => emit (.cfAbort l.cluster l.tag) s) s

/-- Takes tasks off the engines: those in queues go; a selected one, which has not started, goes with its draw, waiting or granted (R45);
a running one is marked as ended (R328). -/
def tasksEnd (mine : NmeTask → Bool) (s : State) : State :=
  let hit := (s.nme.engines.filter (fun x => x.2.selected.any mine)).map (fun x => x.1)
  let up (e : Engine) : Engine :=
    { e with
      queue := e.queue.filter (fun t => !mine t)
      selected := e.selected.filter (fun t => !mine t)
      state := if e.selected.any mine && e.state = .waitAnte then .idle else e.state
      running := e.running.map (fun t => if mine t then { t with ended := true } else t) }
  hit.foldl (fun s e => anteDrop 2 e s) { s with nme := { s.nme with engines := s.nme.engines.map (fun x => (x.1, up x.2)) } }

/-- Removes a command's task from the engines before it has started, and marks a running one as ended (R328). -/
def endTask (r : CmdRef) (s : State) : State := tasksEnd (fun t => t.ref = some r) s

/-- Ends a command by an abort or a loss: the event goes to the arbiter, its work on an engine or a cluster is stopped, and its
waiter slot is freed (R447). -/
def endCommand (r : CmdRef) (ev : ArbEvent) (s : State) : State :=
  let s := present r ev (endTask r (abortLaunch r s))
  { s with
    tck := { s.tck with waiters := s.tck.waiters.filter (fun w => w.kind ≠ .queue r) }
    trn := { s.trn with moves := s.trn.moves.map (fun m => if m.forCmd = some r then { m with forCmd := none } else m) } }

-- retirement (R442, R444) -----------------------------------------------------------------------------------------------

/-- The bytes of a completion record (R442). -/
def recordBytes (phase sigFail : Bool) (seq : Nat) (st : Status) (detail result time : Nat) : List Byte :=
  leBytes 1 (b2n phase * 128 + b2n sigFail) ++ leBytes 1 seq ++ leBytes 1 st.code ++ leBytes 1 detail ++ leBytes 4 result
    ++ leBytes 8 time

/-- Writes a record at a position of a queue's completion ring; none when the ring cannot be reached. -/
def recordWrite (q : Queue) (pos : Nat) (sigFail : Bool) (st : Status) (detail result : Nat) (s : State) : Option State :=
  objWrite q.table q.cplObj (q.cplOff + 16 * (pos % q.size))
    (recordBytes (phaseAt pos q.size) sigFail (pos % 256) st detail result (now s)) s

/-- The oldest position of a queue that has not retired (R437). -/
def retirePos (q : Queue) : Nat :=
  let names (e : QEntry) : Nat := match e.names with
    | some n => n.1
    | none => e.pos
  match q.entries with
  | e :: _ => names e
  | [] => match q.namesPend with
    | some n => n.1
    | none => q.fetchPos

/-- Whether a memory object is named by something (R426). -/
def objNamed (s : State) (i : Nat) : Bool :=
  let is (h : Handle) : Bool := h ≠ 0 && hIdx h = i
  s.obj.queues.any (fun x => is x.2.ringObj || is x.2.cplObj
      || x.2.entries.any (fun e => match e.names with | some n => n.2.any is | none => false)
      || (match x.2.namesPend with | some n => n.2.1.any is | none => false))
    || s.obj.events.any (fun x => is x.2.ringObj)
    || s.obj.ctxs.any (fun x => is x.2.saveObj)
    || s.tables.any (fun x => match x.2.ring with | some r => is r.1 | none => false)

/-- The working stacks on which the extents of a device object lie. -/
def extentStacks (s : State) (xs : List (Nat × Nat)) : List Nat :=
  (((xs.map (fun x => (List.range ((x.2 + 65535) / 65536)).map (fun i => (placeOf s (x.1 + 65536 * i)).stack))).flatten).filter
    (stackWorks s)).eraseDups

/-- Whether running moves take their device blocks from a pool object (R173). -/
def poolMoving (s : State) (i : Nat) : Bool :=
  s.trn.moves.any (fun m => m.running && (match (mapGet s.obj.mems m.object).bind (fun o => o.hb) with
    | some h => hIdx h.b.pool = i
    | none => false))

/-- Lets go of a FREE_PENDING object that nothing names any more (R426), that registers no range still to be released (R174) and that no
running move uses (R173): a device object is re-filled, in its turn on each of its stacks
(R220); any other is free. -/
def memRelease (i : Nat) (s : State) : State :=
  match mapGet s.obj.mems i with
  | none => s
  | some o =>
    if o.state = .freePending && !objNamed s i && o.hb.isNone && !poolMoving s i then
      if o.kind = .device then
        let s : State := { s with
          obj := { s.obj with mems := mapPut s.obj.mems i { o with state := .refill } }
          mem := { s.mem with objRefill := mapPut s.mem.objRefill i (liveHandle s 3 i) } }
        (extentStacks s o.extents).foldl (fun s k => stackMod k (fun x => { x with refills := x.refills ++ [.object i] }) s) s
      else freeSlot { s with obj := { s.obj with mems := mapDel s.obj.mems i } } 3 i
    else s

/-- Lets go of every FREE_PENDING object that nothing names. -/
def memReleaseAll (s : State) : State := (s.obj.mems.map (fun x => x.1)).foldl (fun s i => memRelease i s) s

/-- Retires a decided command (R442): the record, a NOTIFY entry, the outcome kept for R446, and the objects it named let go.
When its completion ring cannot be reached it stays as it is. -/
def retire (r : CmdRef) (s : State) : State :=
  match queueOf s r.queue, entryOf s r with
  | some q, some e =>
    match e.state with
    | .decided committed st =>
      let fst := match e.names with
        | some n => recordWrite q n.1 false .ok 0 0 s
        | none => some s
      let detail := if st = .fault then e.cause else 0
      match fst.bind (recordWrite q r.pos e.sigFail st detail e.result) with
      | none => s
      | some s' =>
        let x : EventEntry := { type := 1, status := st, source := r.queue, cookie := q.cookie,
                                detail := r.pos + e.d.cls * 2 ^ 24, time := now s }
        let s' := if e.d.notify && q.event ≠ 0 then eventWrite q.event x s' else s'
        let s' := queueMod r.queue (fun q =>
          let q := { q with entries := q.entries.filter (fun e => e.pos ≠ r.pos) }
          let q := { q with outcomes := mapPut q.outcomes (r.pos % q.size) (r.pos, committed) }
          let q := match e.names with
            | some n => { q with outcomes := mapPut q.outcomes (n.1 % q.size) (n.1, committed) }
            | none => q
          { q with retire := retirePos q }) s'
        let s' := if st = .aborted && e.cause = 0x100 then s' else advance q.table s'
        memReleaseAll s'
    | _ => s
  | _, _ => s

/-- Decides a command at once and retires it: for entries that never run (R432, R439, R446). -/
def retireNow (r : CmdRef) (st : Status) (cause : Nat) (s : State) : State :=
  retire r (entryMod r (fun e => if e.isDecided then e else { e with state := .decided false st, cause := cause }) s)

/-- A QUEUE_ERROR entry with its detail to the queue's event (R451). -/
def queueError (h : Handle) (st : Status) (detail : Nat) (s : State) : State :=
  match queueOf s h with
  | some q =>
    let x : EventEntry := { type := 2, status := st, source := h, cookie := q.cookie, detail := detail, time := now s }
    if q.event ≠ 0 then eventWrite q.event x s else s
  | none => s

-- counters (R331 to R370) -----------------------------------------------------------------------------------------------

/-- The counter at an index. -/
def counterOf (s : State) (i : Nat) : Counter := mapGetD s.tck.counters i {}

/-- Changes a counter. -/
def counterMod (i : Nat) (f : Counter → Counter) (s : State) : State :=
  { s with tck := { s.tck with counters := mapMod s.tck.counters i f } }

/-- What a READ of a counter or a mirror of it holds: all ones when it is LOST (R357, R367). -/
def counterShown (s : State) (i : Nat) : Nat :=
  let c := counterOf s i
  if c.state = .lost then 2 ^ 64 - 1 else c.value

/-- Counts and captures a DENIED answer of TCK (R365). -/
def counterDenied (tenant source op : Nat) (h : Handle) (s : State) : State :=
  let t := s.tck
  let s' : State := { s with tck := { t with
    denCnt := sat32 (t.denCnt + 1)
    denValid := true
    denTenant := if t.denValid then t.denTenant else tenant
    denSource := if t.denValid then t.denSource else source
    denOp := if t.denValid then t.denOp else op
    denCounter := if t.denValid then t.denCounter else h } }
  if t.denValid then s' else irqRaise 50 s'

/-- The check of a counter handle (R364, R368): the handle, then LOST. -/
def counterCheck (s : State) (tenant : Option Nat) (h : Handle) : Status :=
  match checkHandle s tenant 6 h with
  | .ok => if (counterOf s (hIdx h)).state = .lost then .lost else .ok
  | st => st

/-- Joins a core to its cluster's pending wake, behind the clusters that came first (R352, R353). -/
def rampAdd (cluster core tag : Nat) (st : Status) (v : Nat) (s : State) : State :=
  let bit := 2 ^ core
  let hit := s.tck.ramp.any (fun e => e.cluster = cluster)
  let up (e : RampEntry) : RampEntry :=
    if e.cluster = cluster then
      { e with mask := e.mask ||| bit, answers := e.answers ++ [(core, tag, st, v)] }
    else e
  let e : RampEntry := { cluster := cluster, mask := bit, since := now s, answers := [(core, tag, st, v)] }
  let older := s.tck.ramp.filter (fun x => x.since < now s || (x.since = now s && x.cluster < cluster))
  let rest := s.tck.ramp.filter (fun x => !(x.since < now s || (x.since = now s && x.cluster < cluster)))
  let s := { s with tck := { s.tck with ramp := if hit then s.tck.ramp.map up else older ++ e :: rest } }
  if s.tck.rampActive then s else anteRequest 9 0 false s

/-- Fires a waiter that has left its slot (R349): a core goes to the wake ramp, a queue's command may be dispatched, or ends
with the status it fires with. -/
def fireOne (w : Waiter) (st : Status) (v : Nat) (s : State) : State :=
  match w.kind with
  | .core cl co tag => rampAdd cl co tag st v s
  | .copyEngine _ => s
  | .queue r =>
    if st = .ok then entryMod r (fun e => if e.state = .waiting then { e with state := .fetched } else e) s
    else failCmd r st 0 s

/-- Fires every slot that a condition picks, with a status and a value, and frees it. -/
def fireWhere (p : Waiter → Bool) (st : Status) (v : Nat) (s : State) : State :=
  let hit := s.tck.waiters.filter p
  let s := { s with tck := { s.tck with waiters := s.tck.waiters.filter (fun w => !p w) } }
  hit.foldl (fun s w => fireOne w st v s) s

/-- Marks a mirror of a counter due for a write (R359); force raises its event whatever its threshold (R367). -/
def mirrorDue (i : Nat) (force : Bool) (s : State) : State :=
  match (counterOf s i).mirror with
  | some m => { s with tck := { s.tck with
      mirrors := mapMod s.tck.mirrors m (fun x => { x with due := true, heldEvent := x.heldEvent || force }) } }
  | none => s

/-- The open step of a table whose commit counter is this counter commits when the value reaches COMMIT_VALUE (R547). -/
def stepCommitOn (h : Handle) (v t : Nat) (s : State) : State :=
  tableMod t (fun tb =>
    if tb.step.isOpen && tb.step.state = .open_ && tb.lead = s.sys.nodeId && tb.step.ctr = h && decide (tb.step.value ≤ v) then
      { tb with step := { tb.step with state := .committed, commitTime := now s, reneged := false } }
    else tb) s

/-- Sets a live counter to a new, higher value (R333): its table advances, satisfied waiters fire, its mirror is due and its
table's step may commit. -/
def counterSet (i v : Nat) (s : State) : State :=
  let c := counterOf s i
  if v = c.value then s
  else
    let s := counterMod i (fun c => { c with value := v }) s
    let s := stepCommitOn (liveHandle s 6 i) v c.table s
    let s := fireWhere (fun w => w.counter = i && decide (w.target ≤ v)) .ok v s
    advance c.table (mirrorDue i false s)

/-- The new value of a counter under an operation of R334, or RANGE (R335). -/
def counterNew (op old x : Nat) : Except Status Nat :=
  if op = 1 then (if x = 0 ∨ x ≥ 65536 ∨ old + x ≥ 2 ^ 64 - 1 then .error .range else .ok (old + x))
  else if op = 2 then (if x ≥ 2 ^ 64 - 1 ∨ x > old + 2 ^ 62 then .error .range else .ok (max old x))
  else if op = 3 then .ok old
  else .error .range

/-- An operation other than WAIT_GE for a requester of a tenant and a source code (R334 to R336, R364): the status, the value answered, and
the state. A SIGNAL_ADD whose operand is out of range, or that rerunnable work makes, is bad. -/
def counterOp (tenant : Option Nat) (source op : Nat) (bad : Bool) (h : Handle) (x : Nat) (s : State) : (Status × Nat) × State :=
  match counterCheck s tenant h with
  | .ok =>
    let i := hIdx h
    if op = 1 && bad then ((.range, 0), s)
    else match counterNew op (counterOf s i).value x with
      | .error st => ((st, 0), s)
      | .ok v => ((.ok, v), counterSet i v s)
  | .denied => ((.denied, 0), counterDenied (tenant.getD 0) source op h s)
  | st => ((st, 0), s)

/-- Makes a counter LOST (R367): its slots fire LOST and its mirror is due with all ones and its event. -/
def counterLose (i : Nat) (s : State) : State :=
  if (counterOf s i).state = .live then
    let s := counterMod i (fun c => { c with state := .lost }) s
    mirrorDue i true (fireWhere (fun w => w.counter = i) .lost 0 s)
  else s

/-- How many slots a table holds. -/
def waitersOf (s : State) (t : Nat) : Nat := (s.tck.waiters.filter (fun w => w.table = t)).length

/-- Takes a waiter slot, or NO_RESOURCE (R348). -/
def waiterTake (w : Waiter) (s : State) : Option State :=
  let quota := match tableAt s w.table with
    | some tb => tb.quota
    | none => 0
  if s.tck.waiters.length ≥ 16384 ∨ waitersOf s w.table ≥ quota then none
  else some { s with tck := { s.tck with waiters := s.tck.waiters ++ [w] } }

/-- The signal of a command that has committed fails (R441): it retires with the signal's status and SIG_FAIL. -/
def signalFailed (r : CmdRef) (st : Status) (s : State) : State :=
  entryMod r (fun e => { e with state := .decided true st, sigFail := true }) s

-- contexts that are lost (R448) -----------------------------------------------------------------------------------------

/-- Marks a queue LOST and ends its open commands LOST, with an OBJECT entry to its event. -/
def queueLose (c q : Handle) (s : State) : State :=
  let s := (openCmds s q).foldl (fun s r => endCommand r (.fail .lost 0) s) s
  match queueOf s q with
  | none => s
  | some x =>
    let s := queueMod q (fun x => if x.state = .destroying then x else { x with state := .lost }) s
    let o : EventEntry := { type := 6, status := .lost, source := c, cookie := x.cookie, detail := q, time := now s }
    if x.event ≠ 0 then eventWrite x.event o s else s

/-- A context becomes LOST (R448): its commands end LOST, its slots fire LOST, its queues and counters become LOST. -/
def contextLose (c : Handle) (s : State) : State :=
  match ctxOf s c with
  | none => s
  | some x =>
    if x.state = .lost ∨ x.state = .destroying then s
    else
      let s := ctxMod c (fun x => { x with state := .lost, saved := [] }) s
      let s := (queuesOfCtx s c).foldl (fun s q => queueLose c q s) s
      let s := fireWhere (fun w => w.ctx = c) .lost 0 s
      let cs := (s.tck.counters.filter (fun k => k.2.ctx = c && k.2.state = .live)).map (fun k => k.1)
      cs.foldl (fun s i => counterLose i s) s

/-- The contexts of a table, by handle. -/
def ctxsOfTable (s : State) (t : Nat) : List Handle :=
  (s.obj.ctxs.filter (fun x => x.2.table = t)).map (fun x => liveHandle s 1 x.1)

/-- Whether a table has pending work on this hub (R373). -/
def pendingWork (s : State) (t : Nat) : Bool :=
  s.obj.queues.any (fun x => x.2.table = t && x.2.entries.any (fun e => !e.isDecided))
    || s.tck.waiters.any (fun w => w.table = t)
    || s.obj.ctxs.any (fun x => x.2.table = t && x.2.state = .parked)
    || s.bnd.seats.any (fun x => x.2.table = t && x.2.state = .suspended)

end Sys2Proof.Machine
end

