-- ==== Sys2Proof/Machine/Links.lean ====
section
/-! DEFINITION. What the link ports share: end-to-end sequences with their replay, transactions, link loss, and the checks at the
destination (R222 to R257). -/

namespace Sys2Proof.Machine

-- firmware messages and abandoned packets -------------------------------------------------------------------------------

/-- Sends a message of this hub's firmware to a node (R226, R521): a CTRL packet on MGMT with TENANT 0. The spec gives no length of its
body; the model takes the packet as one flit (DESIGN CHOICE, notes/assumptions/135). -/
def ctrlOut (dst : Nat) (o : Out) (s : State) : State :=
  packetSend dst { src := 0, tenant := 0, type := 0x53, len := 64 } (emit o s)

/-- Sends a firmware message to a node about a table (R521). -/
def ctrlSend (dst code globalId seat : Nat) (st : Status) (arg : Nat) (s : State) : State :=
  ctrlOut dst (.ctrl dst code globalId seat st arg) s

/-- Sends a firmware message about a seat: it carries the seat's number and epoch (R75). -/
def seatSend (dst code globalId seat epoch : Nat) (st : Status) (arg : Nat) (s : State) : State :=
  ctrlOut dst (.seatMsg dst code globalId seat epoch st arg) s

/-- The TENANT of an E2E_ACK or E2E_SKIP: that of a packet it is about, since TENANT is 0 only on MGMT and NULL (R222); where that packet
is MGMT's the spec gives none, and it is a free value (DESIGN CHOICE, notes/assumptions/149). -/
def pairTenant (dst tenant : Nat) : Nat := if tenant = 0 then max 1 (Config.ackTenant dst % 65536) else tenant

/-- Sends E2E_SKIP up to a value (R248). -/
def skipSend (dst to_ : Nat) (s : State) : State :=
  packetOut dst { src := s.sys.nodeId, tenant := pairTenant dst (txOf s dst).skipTenant, type := 0x22, addr := to_ } s

/-- Skips the dropped packets of a pair that no kept packet comes before (R417): the E2E_SKIP then names none but those. -/
def skipDropped (dst : Nat) (s : State) : State :=
  match mapGet s.lnk.tx dst with
  | none => s
  | some x =>
    match (x.kept.takeWhile (fun k => k.dropped)).getLast? with
    | none => s
    | some k =>
      let x' : TxPair := { x with kept := x.kept.dropWhile (fun k => k.dropped), skipTo := some k.eseq, skipTenant := k.p.tenant }
      pairNext dst (skipSend dst k.eseq { s with lnk := { s.lnk with tx := mapPut s.lnk.tx dst x' } })

/-- Whether a packet of a type opens a transaction at its source: its tag is its own, and not another hub's that it returns. -/
def typeAsks (t : Nat) : Bool := t = 0x01 || t = 0x02 || t = 0x03 || t = 0x10 || t = 0x12 || t = 0x40 || t = 0x41 || t = 0x42

/-- Abandons a transaction (R417): its tag is retired, and its packet is not replayed any more. -/
def txnAbandon (t : Txn) (s : State) : State :=
  let drop (k : KeptPacket) : KeptPacket := if k.p.tag = t.tag && typeAsks k.p.type then { k with dropped := true } else k
  skipDropped t.dst { s with lnk := { s.lnk with
    txns := s.lnk.txns.filter (fun u => u.tag ≠ t.tag)
    tx := mapMod s.lnk.tx t.dst (fun x => { x with
      kept := x.kept.map drop, waiting := x.waiting.filter (fun p => !(p.tag = t.tag && typeAsks p.type)) }) } }

/-- The open transaction of a tag. -/
def txnOf (s : State) (tag : Nat) : Option Txn := s.lnk.txns.find? (fun t => t.tag = tag)

/-- Retires a transaction's tag. -/
def txnClose (tag : Nat) (s : State) : State :=
  { s with lnk := { s.lnk with txns := s.lnk.txns.filter (fun t => t.tag ≠ tag) } }

/-- The answer of a request packet (R226): CMPL, or RD_DATA with its payload only when OK. -/
def packetReply (p : Packet) (type : Nat) (st : Status) (bs : List Byte) (s : State) : State :=
  let bs := if st = .ok then bs else []
  packetSend p.src { src := 0, tenant := p.tenant, type := type, status := st, tag := p.tag, len := bs.length, payload := bs } s

-- receiving sequenced packets (R244 to R246) ----------------------------------------------------------------------------

/-- Whether sequence a comes at or before b, modulo 2^32 (R243). -/
def seqLe (a b : Nat) : Bool := (b + 2 ^ 32 - a) % 2 ^ 32 < 2 ^ 31

/-- The receiving side of a pair. -/
def rxOf (s : State) (src : Nat) : RxPair := mapGetD s.lnk.rx src {}

/-- Changes the receiving side of a pair. -/
def rxMod (src : Nat) (f : RxPair → RxPair) (s : State) : State :=
  { s with lnk := { s.lnk with rx := mapUp s.lnk.rx src {} f } }

/-- Moves the low edge past every value received. -/
def rxSlide : Nat → RxPair → RxPair
  | 0, x => x
  | n + 1, x =>
    if x.low ∈ x.above then rxSlide n { x with low := (x.low + 1) % 2 ^ 32, above := x.above.filter (fun e => e ≠ x.low) } else x

/-- Whether an ESEQ has been received. -/
def rxSeen (x : RxPair) (e : Nat) : Bool := !seqLe x.low e || x.above.contains e

/-- Sends the cumulative acknowledgement of a pair (R244). -/
def ackSend (src : Nat) (s : State) : State :=
  let x := rxOf s src
  let top := (x.low + 2 ^ 32 - 1) % 2 ^ 32
  let p : Packet := { src := s.sys.nodeId, tenant := pairTenant src x.tenant, type := 0x21, addr := top }
  rxMod src (fun x => { x with unacked := 0 }) (packetOut src p s)

/-- Notes one more packet to acknowledge; the 64th is acknowledged at once (R244). -/
def rxCount (src : Nat) (s : State) : State :=
  let s := rxMod src (fun x => { x with
    firstUnacked := if x.unacked = 0 then now s else x.firstUnacked
    unacked := x.unacked + 1 }) s
  if (rxOf s src).unacked ≥ 64 then ackSend src s else s

/-- What becomes of a sequenced packet that arrives. -/
inductive Arrival where
  | duplicate
  | held
  | fresh
  deriving DecidableEq, Repr

/-- Whether a packet of a pair has been received and is not applied yet: it waits for its slab, for its binding, or for the parts of it
that were forwarded. -/
def unapplied (s : State) (src : Nat) (is : Nat → Bool) : Bool :=
  s.lnk.slabWait.any (fun w => w.2.src = src && is w.2.eseq) || s.lnk.relays.any (fun r => r.p.src = src && is r.p.eseq)
    || s.bnd.held.any (fun h => h.packet.src = src && src ≠ s.sys.nodeId && is h.packet.eseq)

/-- Whether a packet with SIG set must wait: a lower ESEQ of its pair is not applied (R246). -/
def sigWaits (s : State) (src e : Nat) : Bool :=
  let x := rxOf s src
  let lower (y : Nat) : Bool := y ≠ e && seqLe y e
  (seqLe x.low e && x.low ≠ e) || x.heldSig.any (fun h => lower h.2.eseq) || unapplied s src lower

/-- Receives a sequenced packet (R245, R246): a duplicate has no effect, and a signal is held behind lower ESEQs. -/
def rxAccept (lp : Nat) (p : Packet) (s : State) : Arrival × State :=
  let x := rxOf s p.src
  if rxSeen x p.eseq then (.duplicate, rxCount p.src s)
  else
    let wait := p.hasSig && sigWaits s p.src p.eseq
    let up (x : RxPair) : RxPair :=
      let y := rxSlide 4096 { x with above := p.eseq :: x.above, tenant := if p.tenant = 0 then x.tenant else p.tenant }
      if wait then { y with heldSig := y.heldSig ++ [(lp, p)] } else y
    (if wait then .held else .fresh, rxCount p.src (rxMod p.src up s))

/-- Link ports train from the Control core phase on (R596). -/
def linksOn (s : State) : Bool :=
  !s.sys.stopped && (match s.sys.phase with
    | .fuses | .clocks | .sram | .controlCore => false
    | _ => true)

/-- A command of the link layer. -/
def linkRow (f : State → State) (s : State) : Result := if linksOn s then finish (f s) else .next s

/-- A message of another hub's firmware arrives (R226, R245, R521, R596): it is sequenced, and before Release it is dropped and counted. -/
def ctrlArrive (src : CtrlFrom) (f : State → State) (s : State) : Result :=
  if s.sys.phase ≠ .released then linkRow lnkDrop s
  else live s (fun s => match rxAccept 0 { src := src.node, tenant := 0, type := 0x53, eseq := src.eseq } s with
    | (.fresh, s) => f s
    | (_, s) => s)

-- checks at the destination (R250, R251) --------------------------------------------------------------------------------

/-- Counts and captures a DENIED answer to a packet (R251). -/
def lnkDenied (lp : Nat) (p : Packet) (s : State) : State :=
  let l := s.lnk
  let s' : State := { s with lnk := { l with
    denCnt := sat32 (l.denCnt + 1)
    denValid := true
    denTenant := if l.denValid then l.denTenant else p.tenant
    denPort := if l.denValid then l.denPort else lp
    denVc := if l.denValid then l.denVc else typeVc p.type
    denType := if l.denValid then l.denType else p.type
    denSrc := if l.denValid then l.denSrc else p.src } }
  if l.denValid then s' else irqRaise 49 s'

/-- The answer of the slab check to a packet of a tenant: the table, a refusal, or none while the request waits (R250). -/
inductive SlabCheck where
  | table (t : Nat)
  | refused (st : Status)
  | waits
  deriving DecidableEq, Repr

/-- The slab check of RD, ATOMIC and WR (R250). -/
def slabCheck (s : State) (tenant stack slab : Nat) : SlabCheck :=
  if stack ≥ 16 ∨ slab ≥ 48 then .refused .fault
  else
    let b := bindAt s (slabIndex stack slab)
    let same := tenantOf s b.table = some tenant
    match b.state with
    | .bound | .migrating | .aliased => if same then .table b.table else .refused .denied
    | .armed | .suspended => if same then .waits else .refused .denied
    | _ => .refused .fault

/-- The location that a request packet names: the location of a forwarded one, else that of its address (R183, R227). -/
def packetLoc (s : State) (p : Packet) : Loc :=
  if p.fwd then { stack := bitsOf p.addr 29 26, slab := bitsOf p.addr 25 20, off := bitsOf p.addr 19 0 * 1024 + bitsOf p.addr 51 42 }
  else locate s p.addr

/-- Whether a request packet's address lies in device memory of this hub. -/
def packetHere (s : State) (p : Packet) : Bool :=
  if p.fwd then bitsOf p.addr 41 30 = s.sys.nodeId
  else paNode p.addr = s.sys.nodeId && !paHost p.addr && decide (bitsOf p.addr 39 34 < 48) && bitsOf p.addr 46 40 = 0

/-- A read at a location of this hub (forwarded or after interleave), through the alias of its slab. -/
def locRead (s : State) (key : Nat) (l : Loc) (len : Nat) : Status × List Byte :=
  (partsOf l.local_ len).foldl (fun acc p =>
    let m := settleLoc s 4 { stack := l.stack, slab := p.1 / 2 ^ 30, off := p.1 % 2 ^ 30 }
    if stackWorks s m.stack then
      let r := readCb s m.stack key m.local_ p.2
      (worse acc.1 r.1, acc.2 ++ r.2)
    else (worse acc.1 .poisoned, acc.2)) (.ok, [])

/-- A write at a location of this hub, part by part, through the alias of its slab. -/
def locWriteParts (key stack : Nat) : List (Nat × Nat) → List Byte → State → State
  | [], _, s => s
  | p :: r, bs, s =>
    let m := settleLoc s 4 { stack := stack, slab := p.1 / 2 ^ 30, off := p.1 % 2 ^ 30 }
    let s := if stackWorks s m.stack then writeCb m.stack key m.local_ (bs.take p.2) s else s
    locWriteParts key stack r (bs.drop p.2) s

/-- A write at a location of this hub. -/
def locWrite (key : Nat) (l : Loc) (bs : List Byte) (s : State) : State :=
  locWriteParts key l.stack (partsOf l.local_ bs.length) bs s

-- link loss -----------------------------------------------------------------------------------------------------------

/-- A link port's buffers, credits and training are gone (R257): the flits in its receive buffer wait at no port any more, and the rest of
packets that had begun to leave by it is discarded (DESIGN CHOICE, notes/assumptions/148). -/
def linkBuffersLose (lp : Nat) (s : State) : State :=
  let gone := (splitBegun (lnkPort s lp).unfinished (lnkPort s lp).txQ).1
  let up (l : LinkPort) : LinkPort :=
    { l with
      lanes := false
      helloSent := false
      helloGot := false
      kept := []
      txQ := l.txQ.filter (fun x => x ∉ gone)
      unfinished := []
      rxLeft := []
      rxUsed := 0
      owed := []
      echoDue := []
      credDedicated := []
      credShared := 0
      nextLseq := 0
      expectLseq := 0
      nakOut := false }
  let s := gone.foldl (fun s x => flitLeft x s) s
  let s := lnkPortMod lp up s
  { s with lnk := { s.lnk with ports := s.lnk.ports.map (fun x => (x.1, { x.2 with
    txQ := x.2.txQ.filter (fun y => y.from_ ≠ lp)
    unfinished := x.2.unfinished.filter (fun y => y.2.1 ≠ lp) })) } }

/-- A link port goes down (R256, R257): its buffers go, waiting flits take alternates, and what this hub originated on it is replayed. -/
def linkDown (lp : Nat) (cause : DownCause) (s : State) : State :=
  if (lnkPort s lp).state = .down ∨ (lnkPort s lp).state = .failed then s
  else
    let up (l : LinkPort) : LinkPort :=
      { l with state := .down, cause := cause, downCnt := sat32 (l.downCnt + 1), downAt := now s }
    let s := irqRaise 48 (lnkReroute (lnkPortMod lp up (linkBuffersLose lp s)))
    let replay (s : State) (x : Nat × TxPair) : State :=
      (x.2.kept.filter (fun k => k.port = lp && !k.dropped)).foldl (fun s k =>
        let s := packetOut x.1 { k.p with replay := true } s
        { s with lnk := { s.lnk with tx := mapMod s.lnk.tx x.1 (fun y => { y with kept := y.kept.map (fun z =>
          if z.eseq = k.eseq then { z with last := now s, port := (portFor s x.1).getD lp } else z) }) } }) s
    s.lnk.tx.foldl replay s

/-- Whether a memory or link PLL has a port in use (R26): a stack that works, or a link port that is neither disabled nor
FAILED. -/
def pllUsed (s : State) (k : Nat) : Bool :=
  if k < 4 then (List.range 4).any (fun i => stackWorks s (4 * k + i))
  else (List.range 4).any (fun i =>
    let l := lnkPort s (4 * (k - 4) + i)
    l.state ≠ .failed && !(l.state = .down && l.cause = .disabled))

/-- Runs each memory and link PLL exactly while a port it feeds is used, unless it has failed or lost lock (R26). -/
def pllGate (s : State) : State :=
  let on (k : Nat) : Bool :=
    if k < 8 then pllUsed s k && !s.sys.pllFailed.getLsbD k && !s.sys.pllOut.getLsbD k else s.sys.pllLock.getLsbD k
  { s with sys := { s.sys with pllLock := BitVec.ofNat 12 (((List.range 12).map (fun k => b2n (on k) * 2 ^ k)).sum) } }

end Sys2Proof.Machine
end

