-- ==== Sys2Proof/Machine/Work.lean ====
section
/-! DEFINITION. Stopping what a command has under way (R287, R417, R447), and the kills of a step (R550 to R553). -/

namespace Sys2Proof.Machine

/-- The next generation of a fold slot: 1 to 63, and after 63 again 1 (R281). -/
def foldGen (g : Nat) : Nat := if g ≥ 63 then 1 else g + 1

/-- A fold slot that has been freed: its generation advances, so that what still names it is refused (R283, R287). -/
def foldFreed (f : Fold) : Fold := { gen := foldGen f.gen }

/-- The copy engines that have no copy left give their waiting draws back (R45). -/
def copiesIdle (s : State) : State :=
  let ks := (s.obj.channels.map (fun x => x.2.engine)).eraseDups
  (ks.filter (fun k => ((mapGet s.hif.ce k).bind (fun c => c.busy)).isNone
    && s.obj.channels.all (fun x => x.2.engine ≠ k || x.2.jobs.isEmpty))).foldl (fun s k => anteDrop 5 k s) s

/-- Removes the copies of a command from their channels. -/
def jobsDrop (r : CmdRef) (s : State) : State :=
  copiesIdle { s with obj := { s.obj with
    channels := s.obj.channels.map (fun x => (x.1, { x.2 with jobs := x.2.jobs.filter (fun j => j.ref ≠ r) })) } }

/-- Whether a burst of a command's copy is in flight (R447, R481). -/
def burstOf (s : State) (r : CmdRef) : Bool :=
  s.obj.channels.any (fun x => (match x.2.jobs with
    | j :: _ => j.ref = r
    | [] => false) && s.hif.ce.any (fun k => k.2.busy = some (liveHandle s 7 x.1)))

/-- Cancels the part of an ATTN_DECODE at a node: ATTN_CANCEL follows the abandoned message (R287, R417). -/
def partCancel (x : StaleTx) (s : State) : State :=
  let ts := s.lnk.txns.filter (fun t => t.what = .subcmd x.tag)
  let s := ts.foldl (fun s t => txnAbandon t s) s
  match x.msg with
  | .sub (.attnPart fold tag _ _ _ _ _ _ _ _) =>
    let tenant := (tenantOf s x.table).getD 0
    ts.foldl (fun s t =>
      let sub : SubCmd := .attnCancel fold tag
      let r := txnOpen t.dst .other s
      let p : Packet := { src := 0, tenant := tenant, type := 0x03, addr := x.seat, tag := r.1, len := 8, epoch := x.epoch }
      packetSend t.dst p (emit (.subcmd t.dst x.seat x.epoch r.1 tenant sub) r.2)) s
  | _ => s

/-- Forgets the accesses of a command itself, with their tiles. -/
def issueForget (r : CmdRef) (s : State) : State :=
  let mine (x : Source) : Bool := x = cmdSource r
  { s with nme := { s.nme with pieces := s.nme.pieces.filter (fun p => !mine p.src) },
           trn := { s.trn with tiles := s.trn.tiles.filter (fun t => !mine t.src),
                               unitWalks := s.trn.unitWalks.filter (fun w => !mine w.src) } }

/-- Stops what a command that has ended without commit has under way besides its engine and its cluster: its final fold is freed,
its remote parts are cancelled, and its unanswered messages are abandoned (R287, R417). -/
def workStop (r : CmdRef) (s : State) : State :=
  let parts := s.bnd.stale.filter (fun x => x.cmd = some r)
  let s := parts.foldl (fun s x => partCancel x s) s
  issueForget r { s with
    bnd := { s.bnd with stale := s.bnd.stale.filter (fun x => x.cmd ≠ some r) },
    nme := { s.nme with
      folds := s.nme.folds.map (fun x => (x.1, if x.2.isOpen && x.2.ref = some r then foldFreed x.2 else x.2))
      waiting := s.nme.waiting.filter (fun w => w ≠ r)
      busyResend := s.nme.busyResend.filter (fun y => !(parts.any (fun x => x.tag = y.1))) } }

-- steps (R544 to R555) --------------------------------------------------------------------------------------------------

/-- The member hubs of a table that this hub knows: the lead and every node that holds a seat or has joined.
An unseated seat, whose entry has no epoch, has no hub. -/
def membersOf (tb : Table) : List Nat := ((tb.lead :: tb.members) ++ (tb.dir.filter (fun x => x.2.epoch ≠ 0)).map (fun x => x.2.node)).eraseDups

/-- Ends the part's running commands at this hub and rewinds its queues (R551): no record is written for what has not retired;
the waiter slots of the part's cores and engines are freed ABORTED, and those of its queues are kept (R366, R552). -/
def partKill (t : Nat) (s : State) : State :=
  let kill (s : State) (q : Handle) : State :=
    match queueOf s q with
    | none => s
    | some x =>
      match x.rewind with
      | none => s
      | some p =>
        let part := x.entries.filter (fun e => posDist e.pos p < posMod / 2 && e.d.step)
        let s := part.foldl (fun s e =>
          let r : CmdRef := { queue := q, pos := e.pos }
          workStop r (jobsDrop r (endTask r (abortLaunch r s)))) s
        let s := { s with
          obj := { s.obj with launched := s.obj.launched.map (fun l => match l.ref with
            | some r => if r.queue = q && part.any (fun e => e.pos = r.pos) then { l with ref := none } else l
            | none => l) } }
        queueMod q (fun x => { x with entries := x.entries.filter (fun e => !(part.any (fun y => y.pos = e.pos))),
                                      fetchPos := p, namesPend := none, sawStep := false }) s
  let mine := s.obj.launched.filter (fun l => match l.ref with
    | some r => l.table = t && inStep s r
    | none => false)
  let s := (queuesOfTable s t).foldl kill s
  fireWhere (fun w => w.table = t && (match w.kind with
    | .core cl co _ => mine.any (fun l => l.cluster = cl && l.mask / 2 ^ co % 2 = 1)
    | .copyEngine _ => true
    | .queue _ => false)) .aborted 0 s

/-- Retires every entry of the part that a queue will not run again, ABORTED, and closes the part (R550 END). -/
def partEnd (t : Nat) (s : State) : State :=
  let fin (s : State) (q : Handle) : State :=
    match queueOf s q with
    | none => s
    | some x =>
      let part := x.entries.filter (fun e => e.d.step)
      part.foldl (fun s e => endCommand { queue := q, pos := e.pos } (.abort none) s) s
  let s := (queuesOfTable s t).foldl fin s
  let s := (queuesOfTable s t).foldl (fun s q => queueMod q (fun x => { x with rewind := none, sawStep := false }) s) s
  tableMod t (fun tb => { tb with step := { tb.step with isOpen := false, state := .ended, onHold := false } }) s

/-- The effect of STEP_ABORT at a hub that holds the step open or on hold (R550): 1 RERUN, 2 END, 3 HOLD, 4 RESUME. -/
def stepAct (t action : Nat) (s : State) : State :=
  if action = 1 then
    tableMod t (fun tb => { tb with step := { tb.step with reruns := tb.step.reruns + 1, onHold := false } }) (partKill t s)
  else if action = 2 then partEnd t s
  else if action = 3 then
    tableMod t (fun tb => { tb with step := { tb.step with onHold := true, state := .heldStep } }) (partKill t s)
  else if action = 4 then
    tableMod t (fun tb =>
      if tb.step.onHold then
        { tb with step := { tb.step with onHold := false, state := .open_, reruns := tb.step.reruns + 1 } }
      else tb) s
  else s

/-- A kill decided at the lead hub (R550): STEP_ABORT to every other member, and its own part. -/
def stepKillLead (t action : Nat) (s : State) : State :=
  match tableAt s t with
  | none => s
  | some tb =>
    let others := (membersOf tb).filter (fun n => n ≠ s.sys.nodeId)
    let s := others.foldl (fun s n => ctrlSend n 0x808 tb.globalId tb.step.last .ok action s) s
    stepAct t action s

/-- A kill with RERUN for a reseat or a renege: decided here when this hub leads the table, and reported to the lead hub
otherwise (R550). -/
def stepRerun (t : Nat) (s : State) : State :=
  match tableAt s t with
  | none => s
  | some tb =>
    if tb.step.isOpen && tb.step.state = .open_ then
      if tb.lead = s.sys.nodeId then stepKillLead t 1 s else ctrlSend tb.lead 0x807 tb.globalId tb.step.last .ok 0 s
    else s

end Sys2Proof.Machine
end

