-- ==== Sys2Proof/Machine/Memory.lean ====
section
/-! DEFINITION. The channel blocks' commands: reads, writes and atomics, flushes, correction and poison, scrub, retraining,
classes, sparing, re-fill and key erase (R177 to R221), and the failure of a stack (R89, R182). -/

namespace Sys2Proof.Machine

-- failed bindings (R89) -------------------------------------------------------------------------------------------------

/-- Tells the lead hub that a seat's binding at this hub does not serve it (R89): PREPARE_ANSWER with a failing status, under the epoch it
concerns. R521 lists no other message for it (DESIGN CHOICE, notes/assumptions/104). -/
def failureTell (tb : Table) (seat epoch : Nat) (s : State) : State := seatSend tb.lead 0x802 tb.globalId seat epoch .range 0 s

/-- The new binding of an armed reseat has failed before the decision (R89): a late refusal goes to the lead hub. At the lead hub itself
it is the first refusal, on which the decision follows, while an answer counts (R83). -/
def lateRefusal (i : Nat) (s : State) : State :=
  match s.bnd.slots.find? (fun x => x.2.phase = .accepted && x.2.newHere && x.2.new = i) with
  | none => s
  | some (_, x) =>
    match tableAt s x.table with
    | none => s
    | some tb =>
      if tb.lead = s.sys.nodeId then
        { s with bnd := { s.bnd with lead := s.bnd.lead.map (fun r =>
          if r.req.globalId = tb.globalId && r.req.seat = x.seat && r.decided.isNone && decide (now s + 25000 ≤ r.req.t) then
            { r with firstRefusal := some (r.firstRefusal.getD .range) }
          else r) } }
      else failureTell tb x.seat x.newEpoch s

/-- The lead hub marks a seat FAILED in its directory (R71, R89). -/
def seatFailed (t seat : Nat) (s : State) : State :=
  tableMod t (fun tb => { tb with dir := mapMod tb.dir seat (fun e => { e with state := .failed }) }) s

/-- The lead hub learns that the binding of a seat has failed: its own directory says so, and so will its answers to RESOLVE (R71, R79,
R89). -/
def seatFailTell (t seat epoch : Nat) (s : State) : State :=
  match tableAt s t with
  | none => s
  | some tb =>
    if tb.lead ≠ s.sys.nodeId then failureTell tb seat epoch s
    else if (mapGetD tb.dir seat {}).epoch = epoch then seatFailed t seat s else s

/-- A binding becomes FAILED, and the lead hub marks its seat (R89). -/
def bindFail (i : Nat) (s : State) : State :=
  let s := lateRefusal i s
  let b := bindAt s i
  let held : Bool := match b.state with
    | .bound | .suspended => true
    | _ => false
  let s := bindPut i { b with state := .failed } s
  if held then seatFailTell b.table b.seat b.epoch s else s

/-- A stack becomes FAILED (R182): all its slabs with it, its merge-buffer entries and re-fills are lost, requested retrainings
are answered GONE (R600) and scrubs that name it end ABORTED (R212); the requests in its queue end POISONED. -/
def stackFail (k : Nat) (s : State) : State :=
  if (stackOf s k).state = .failed then s
  else
    let ms := (stackOf s k).retrainFor
    let up (x : StackSt) : StackSt :=
      { x with state := .failed, merge := [], cache := [], refills := [], retrainFor := [], scrubbing := false, queue := [], drawn := false }
    let q := (stackOf s k).queue
    let s := q.foldl (fun s x => emit (.memDone x.r.tag .poisoned []) s) (stackMod k up s)
    let s := (List.range 48).foldl (fun s j => bindFail (slabIndex k j) s) s
    let s := { s with mem := { s.mem with scrubs := s.mem.scrubs.map (fun x =>
      if x.b.stackMask.getLsbD k then { x with aborted := true } else x) } }
    pllGate (ms.foldl (fun s m => answer m.val { st := .gone } s) (anteDrop 1 k s))

-- correction and poison (R204 to R208) ----------------------------------------------------------------------------------

/-- The symbol errors that a check class corrects (R191). -/
def classT : Nat → Nat
  | 0 => 8 | 1 => 16 | 2 => 32 | _ => 48

/-- The check bytes of a codeblock by class (R191). -/
def classBytes (c : Nat) : Nat := classT c * 5 / 2

/-- The check units of a slab by class (R191). -/
def classUnits : Nat → Nat
  | 0 => 1 | 1 => 2 | 2 => 4 | _ => 6

/-- The class and check unit of a slab. -/
def slabCfg (s : State) (stack slab : Nat) : SlabCfg := mapGetD (stackOf s stack).slabs slab {}

/-- The stack-local row of the check region that holds the check symbols of a codeblock (R192). -/
def checkRow (s : State) (stack cb : Nat) : Nat :=
  let c := slabCfg s stack (cb / 2 ^ 20)
  ((48 - (stackOf s stack).chkSlabs) * 2 ^ 30 + c.chkUnit * 20 * 2 ^ 20 + cb % 2 ^ 20 * classBytes c.cls) / 1024

/-- How often the buckets of a stack have leaked since its levels were last settled: once at each multiple of 2^LEAK_EXP microseconds
(R205, R32). -/
def leaksDue (s : State) (stack : Nat) : Nat :=
  let period := 2 ^ (stackOf s stack).leakExp * 1000
  now s / period - mapGetD s.mem.lastLeak stack 0 / period

/-- Levels after a number of leaks. -/
def levelsDown (n : Nat) (l : FMap Nat) : FMap Nat := (l.map (fun x => (x.1, x.2 - n))).filter (fun x => x.2 ≠ 0)

/-- Settles the levels of a stack to now (R205): before a level rises and before LEAK_EXP changes, the leaks so far are taken. -/
def leakSettle (stack : Nat) (s : State) : State :=
  let n := leaksDue s stack
  let s := stackMod stack (fun k => { k with levels := levelsDown n k.levels }) s
  { s with mem := { s.mem with lastLeak := mapPut s.mem.lastLeak stack (now s) } }

/-- Raises the level of a bucket; at THRESHOLD it overflows (R204, R206). -/
def bucketRaise (stack bucket w : Nat) (s : State) : State :=
  let s := leakSettle stack s
  let k := stackOf s stack
  let b := bucket % 512
  let v := mapGetD k.levels b 0 + w
  if v ≥ k.threshold then
    let up (k : StackSt) : StackSt :=
      { k with
        levels := mapDel k.levels b
        ovfCnt := sat32 (k.ovfCnt + 1)
        ovfValid := true
        ovfBucket := if k.ovfValid then k.ovfBucket else b
        ovfTick := if k.ovfValid then k.ovfTick else now s % 2 ^ 32 }
    irqRaise (32 + stack) (stackMod stack up s)
  else stackMod stack (fun k => { k with levels := mapPutD 0 k.levels b v }) s

/-- Counts a correction of d data and c check symbols in the buckets of the rows that held them (R204). -/
def correctionCount (stack cb d c : Nat) (s : State) : State :=
  let k := stackOf s stack
  let w := if 2 * (d + c) > classT (slabCfg s stack (cb / 2 ^ 20)).cls then k.weightHigh else 1
  let s := { s with mem := { s.mem with corrected := sat32 (s.mem.corrected + 1) } }
  let s := if d > 0 then bucketRaise stack (Config.bucketOf stack cb) w s else s
  if c > 0 then bucketRaise stack (Config.bucketOf stack (checkRow s stack cb)) w s else s

/-- The physical address of a location on this hub (the inverse of R183). -/
def paOf (s : State) (l : Loc) : Nat :=
  let base := s.sys.nodeId * 2 ^ 48 + l.slab * 2 ^ 34
  if s.mem.rowLocal.getLsbD l.slab then base + l.stack * 2 ^ 30 + l.off
  else
    let hi := l.off / 65536
    let g := l.stack ^^^ bitsOf hi 3 0 ^^^ bitsOf hi 7 4 ^^^ bitsOf hi 11 8 ^^^ bitsOf hi 13 12
    base + hi * 2 ^ 20 + g * 65536 + l.off % 65536

/-- Poisons a codeblock found uncorrectable (R207) and reports it once (R208): count, capture, interrupt and the entry of the
owning table's memory-error event (R456). -/
def poisonNew (stack cb : Nat) (s : State) : State :=
  if poisoned s stack cb then s
  else
    let s := poisonCapture stack cb (cacheDrop stack cb (poisonPut stack cb true s))
    match slabTable s stack (cb / 2 ^ 20) with
    | none => s
    | some t =>
      match tableAt s t with
      | none => s
      | some tb =>
        let pa := paOf s { stack := stack, slab := cb / 2 ^ 20, off := cb % 2 ^ 20 * 1024 }
        let x : EventEntry := { type := 7, status := .poisoned, source := tableHandle s t, cookie := 0, detail := pa, time := now s }
        if tb.memEvent ≠ 0 then eventWrite tb.memEvent x s else s

/-- What the decoder of a codeblock's class finds of an outcome (R190): more than t symbol errors, data and check together, are
uncorrectable. -/
def classDecoded (s : State) (stack cb : Nat) : Decoded → Decoded
  | .corrected d c =>
    if d + c = 0 then .clean else if d + c > classT (slabCfg s stack (cb / 2 ^ 20)).cls then .uncorrectable else .corrected d c
  | x => x

/-- What the decoder of a channel block does with a codeblock that it reads. -/
def decode (stack cb : Nat) (dec : Decoded) (s : State) : State :=
  match classDecoded s stack cb dec with
  | .clean => s
  | .corrected d c => correctionCount stack cb d c s
  | .uncorrectable => poisonNew stack cb s

-- requests (R194 to R203) -----------------------------------------------------------------------------------------------

/-- The key of a request at a channel block: that of its table, or the null key. -/
def reqKey (s : State) (r : MemReq) : Nat := match r.table with
  | some t => tableKey s t
  | none => 0

/-- A read that a channel block serves (R194, R195, R199): the codeblock of a miss is fetched, decrypted and corrected, and a read of less
than a codeblock fills a line. -/
def blockRead (r : MemReq) (dec : Decoded) (s : State) : State :=
  let key := reqKey s r
  let l := placeOf s r.pa
  let cb := l.local_ / 1024
  if stackWorks s l.stack then
    let hit := (stackOf s l.stack).cache.any (fun x => x.1 = cb && x.2 = key)
    let s := stackMod l.stack (fun k => { k with reads := k.reads + 1 }) s
    let s := if hit || poisoned s l.stack cb then s else decode l.stack cb dec s
    let a := devRead s key r.pa r.len
    let s := if r.len < 1024 && a.1 = .ok then cacheFill l.stack cb key s else s
    emit (.memDone r.tag a.1 (if a.1 = .ok then a.2 else [])) s
  else emit (.memDone r.tag .poisoned []) s

/-- A write that a channel block admits, which is its commit (R194, R197). -/
def blockWrite (r : MemReq) (data : List Byte) (s : State) : State :=
  let st := if devWorks s r.pa data.length then Status.ok else .poisoned
  emit (.memDone r.tag st []) (devWrite (reqKey s r) r.pa data s)

/-- An atomic at the merge-buffer entry of its codeblock (R203): one indivisible change; the old values are returned. -/
def blockAtomic (r : MemReq) (atom : Nat) (data : List Byte) (s : State) : State :=
  let x := devAtomic (reqKey s r) r.pa atom data.length data s
  emit (.memDone r.tag x.1.1 (if x.1.1 = .ok then x.1.2 else [])) x.2

/-- Serves a request of a channel block's queue; one that was in flight when the block's PLL lost lock is failed as on a failed stack
(R28, R182). -/
def blockServe (s : State) (q : BlockReq) : State :=
  if q.lost then emit (.memDone q.r.tag .poisoned []) s
  else match q.op with
    | .read dec => blockRead q.r dec s
    | .write data => blockWrite q.r data s
    | .atomic atom data => blockAtomic q.r atom data s

/-- Serves the whole queue of a channel block, oldest first (R178). -/
def blockDrain (k : Nat) (s : State) : State := (stackOf s k).queue.foldl blockServe (stackMod k (fun x => { x with queue := [] }) s)

/-- A request reaches its channel block, and waits in its queue until the block is clocked and has its class 0x1 draw (R27, R38). A block
whose stack does not work answers at once. -/
def blockAsk (r : MemReq) (op : BlockOp) (s : State) : State :=
  let k := (placeOf s r.pa).stack
  if stackWorks s k then
    let x := blockTake k s
    let s := stackMod k (fun y => { y with queue := y.queue ++ [{ r := r, op := op }] }) x.2
    if x.1 then blockDrain k s else s
  else blockServe s { r := r, op := op }

/-- MEMORY_READ (R194, R195, R199). -/
def execMemoryRead (r : MemReq) (dec : Decoded) (s : State) : Result := live s (blockAsk r (.read dec))

/-- MEMORY_WRITE (R194, R197). -/
def execMemoryWrite (r : MemReq) (data : List Byte) (s : State) : Result := live s (blockAsk r (.write data))

/-- MEMORY_ATOMIC (R203): a bad row is refused before it issues. -/
def execMemoryAtomic (r : MemReq) (atom : Nat) (data : List Byte) (s : State) : Result :=
  live s (fun s => if atomBad atom data.length then emit (.memDone r.tag .range []) s else blockAsk r (.atomic atom data) s)

/-- Flushes the entry of a codeblock with the outcome of the read that a partial flush makes through the cache: a hit decodes nothing
(R195, R198, R201). -/
def flushWith (stack cb : Nat) (dec : Decoded) (s : State) : State :=
  match mergeOf s stack cb with
  | none => s
  | some e =>
    let hit := (stackOf s stack).cache.any (fun x => x.1 = cb && x.2 = e.key)
    let s := if e.bytes.length < 1024 && !hit && !poisoned s stack cb then decode stack cb dec s else s
    mergeFlushEntry stack e s

/-- A command of one channel block, in its own domain (R25, R27). -/
def memRow (stack : Fin 16) (f : State → State) (s : State) : Result := if pllOn s (stack.val / 4) then live s f else .next s

/-- MERGE_ENTRY_TIMEOUT (R198): 2,000 ticks after the entry was created. -/
def execMergeEntryTimeout (stack : Fin 16) (codeblock : Nat) (dec : Decoded) (s : State) : Result :=
  memRow stack (fun s =>
    match mergeOf s stack.val codeblock with
    | some e => if now s ≥ e.created + 2000 then flushWith stack.val codeblock dec s else s
    | none => s) s

/-- Whether one of the cases of R198 flushes an entry now: it is full, 2,000 ticks old, or the oldest while all 128 are in use. The fences of
R200 flush theirs in the rows that fence. -/
def flushCase (s : State) (stack : Nat) (e : MergeEntry) : Bool :=
  let ms := (stackOf s stack).merge
  e.bytes.length ≥ 1024 || decide (now s ≥ e.created + 2000) || (decide (ms.length ≥ 128) && ms.head? = some e)

/-- MERGE_FLUSH (R198, R201): an entry that is due is flushed. -/
def execMergeFlush (stack : Fin 16) (codeblock : Nat) (dec : Decoded) (s : State) : Result :=
  memRow stack (fun s =>
    match mergeOf s stack.val codeblock with
    | some e => if flushCase s stack.val e then flushWith stack.val codeblock dec s else s
    | none => s) s

/-- BUCKET_LEAK (R205): every level falls by one for each multiple of 2^LEAK_EXP microseconds passed. -/
def execBucketLeak (stack : Fin 16) (s : State) : Result := live s (leakSettle stack.val)

-- refresh and retraining (R179 to R182, R599, R600) ---------------------------------------------------------------------

/-- How many scheduled refreshes of a stack lie at or before a tick (R179): every 3,900 ticks from 240 times the stack's number, or every
1,950 from 120 times it while the stack is hot. -/
def refreshCount (stack : Nat) (hot : Bool) (t : Tick) : Nat :=
  let period := if hot then 1950 else 3900
  let off := if hot then 120 * stack else 240 * stack
  if t < off then 0 else (t - off) / period + 1

/-- Whether a refresh that was scheduled since the last one is due (R32). -/
def refreshDue (s : State) (stack : Nat) (hot : Bool) : Bool :=
  refreshCount stack hot (now s) > refreshCount stack hot (stackOf s stack).lastRefresh

/-- Whether a stack's periodic retraining is due in this shadow (R180): once in each 1,000,000 ticks, and not in a shadow in which another
stack has retrained. -/
def trainDue (s : State) (stack : Nat) : Bool :=
  now s / 1000000 ≠ (stackOf s stack).lastRetrain / 1000000
    && !s.mem.stk.any (fun x => x.1 ≠ stack && x.2.state = .working && x.2.lastRetrain = now s)

/-- REFRESH (R179 to R182): in the shadow a requested or periodic retraining runs; the third failure in a row fails the stack. -/
def execRefresh (stack : Fin 16) (hot retrainOk : Bool) (s : State) : Result :=
  memRow stack (fun s =>
    let k := stackOf s stack.val
    if k.state = .working && refreshDue s stack.val hot then
      let s := stackMod stack.val (fun k => { k with lastRefresh := now s }) s
      if !k.retrainFor.isEmpty || trainDue s stack.val then
        if retrainOk then
          let s := stackMod stack.val (fun k => { k with trainFails := 0, lastRetrain := now s, retrainFor := [] }) s
          k.retrainFor.foldl (fun s m => answer m.val { st := .ok } s) s
        else if k.trainFails ≥ 2 then stackFail stack.val s
        else stackMod stack.val (fun k => { k with trainFails := k.trainFails + 1 }) s
      else s
    else s) s

/-- RETRAIN (R599, R600): the answer comes when a retraining has ended in a shadow. -/
def effRetrain (m : Fin 64) (stack kind : Nat) (s : State) : Outcome :=
  if stack ≥ 16 then done .range s
  else if (stackOf s stack).state ≠ .working then done .gone s
  else if kind = 0 ∨ kind > 2 then done .range s
  else if kind = 2 then done .busy s
  else later (stackMod stack (fun k => { k with retrainFor := k.retrainFor ++ [m] }) s)

/-- RETRAIN. -/
def execRetrain (c : Caller) (stack kind : Nat) (s : State) : Result := gararn 0x303 .o c (effRetrain c.mbx stack kind) s

-- modes and classes (R184, R193) ----------------------------------------------------------------------------------------

/-- The stacks that count for a memory row: those present and not FAILED. -/
def liveStacks (s : State) : List Nat := (List.range 16).filter (stackWorks s)

/-- Whether every slab of a row on a stack that counts is FREE. -/
def rowFree (s : State) (row : Nat) : Bool := (liveStacks s).all (fun k => (bindAt s (slabIndex k row)).state = .free)

/-- Whether the slabs of a row that count all hold one class. -/
def rowOneClass (s : State) (row : Nat) : Bool :=
  match liveStacks s with
  | [] => true
  | a :: r => r.all (fun k => (slabCfg s k row).cls = (slabCfg s a row).cls)

/-- ROW_MODE (R184, R526). -/
def effRowMode (row mode : Nat) (s : State) : Outcome :=
  if row ≥ 48 ∨ mode > 1 ∨ (mode = 0 ∧ !rowOneClass s row) then done .range s
  else if !rowFree s row then done .busy s
  else
    let m := s.mem.rowLocal
    let m' := if mode = 1 then m ||| BitVec.ofNat 48 (2 ^ row) else m &&& ~~~(BitVec.ofNat 48 (2 ^ row))
    done .ok { s with mem := { s.mem with rowLocal := m' } }

/-- ROW_MODE. -/
def execRowMode (c : Caller) (row mode : Nat) (s : State) : Result := gararn 0x300 .o c (effRowMode row mode) s

/-- The check units of a stack's check region (R193). -/
def unitsOf (chkSlabs : Nat) : Nat := (chkSlabs * 1024 - 4) / 20

/-- Whether a check unit belongs to a data slab other than the one given. -/
def unitTaken (k : StackSt) (slab u : Nat) : Bool :=
  k.slabs.any (fun x => x.1 ≠ slab && x.2.data && decide (x.2.chkUnit ≤ u) && decide (u < x.2.chkUnit + classUnits x.2.cls))

/-- The first free run of check units for a slab at a class (R193). -/
def unitRun (k : StackSt) (slab cls : Nat) : Option Nat :=
  (List.range (unitsOf k.chkSlabs + 1 - classUnits cls)).find? (fun u =>
    (List.range (classUnits cls)).all (fun i => !unitTaken k slab (u + i)))

/-- Puts a slab into REFILL (R219, R616): its entries are fenced, and it waits for its turn on the stack. A slab of a FAILED stack is
FAILED, and stays so (R66, R182). -/
def refillEnter (stack slab : Nat) (s : State) : State :=
  if (stackOf s stack).state = .failed then bindPut (slabIndex stack slab) { state := .failed } s else
  let s := fenceSlab stack slab s
  let s := bindPut (slabIndex stack slab) { state := .refill } s
  stackMod stack (fun k => { k with refills := if .slab slab ∈ k.refills then k.refills else k.refills ++ [.slab slab] }) s

/-- SLAB_CLASS (R193, R526): the slab alone in a STACK_LOCAL row, every slab of an INTERLEAVED one. -/
def effSlabClass (stack slab cls : Nat) (s : State) : Outcome :=
  let solo := s.mem.rowLocal.getLsbD slab
  let ks := if solo then [stack] else liveStacks s
  if cls > 3 ∨ slab ≥ 48 ∨ (solo ∧ stack ≥ 16) ∨ ks.any (fun k => !(slabCfg s k slab).data) then
    done .range s
  else if ks.any (fun k => (unitRun (stackOf s k) slab cls).isNone) then done .noResource s
  else if ks.any (fun k => (bindAt s (slabIndex k slab)).state ≠ .free) then done .busy s
  else
    let set (s : State) (k : Nat) : State :=
      match unitRun (stackOf s k) slab cls with
      | none => s
      | some u =>
        let c : SlabCfg := { data := true, cls := cls, chkUnit := u }
        refillEnter k slab (stackMod k (fun x => { x with slabs := mapPut x.slabs slab c }) s)
    done .ok (ks.foldl set s)

/-- SLAB_CLASS. -/
def execSlabClass (c : Caller) (stack slab cls : Nat) (s : State) : Result :=
  gararn 0x301 .o c (effSlabClass stack slab cls) s

-- re-fill and erase (R189, R219, R220, R418, R426) ----------------------------------------------------------------------

/-- Whether the coherence directory still has lines of a slab: its recall has not completed (R407). -/
def slabListed (s : State) (stack slab : Nat) : Bool :=
  s.coh.dir.any (fun x => !x.2.proxy && (locate s (x.1 * 256)).stack = stack && (locate s (x.1 * 256)).slab = slab)

/-- SLAB_REFILL_END (R219, R220): the slab that is being re-filled holds zero codeblocks under the null key and is FREE, unless
R418 still holds it. -/
def execSlabRefillEnd (stack : Fin 16) (s : State) : Result :=
  memRow stack (fun s =>
    match (stackOf s stack.val).refills with
    | .slab slab :: rest =>
      if !stackWorks s stack.val || slabListed s stack.val slab then s else
      let i := slabIndex stack.val slab
      let s := slabZero stack.val slab (stackMod stack.val (fun k => { k with refills := rest }) s)
      (match mapGet s.mem.refillHold i with
       | some t => if now s < t then s else bindPut i {} { s with mem := { s.mem with refillHold := mapDel s.mem.refillHold i } }
       | none => bindPut i {} s)
    | _ => s) s

/-- REFILL_HOLD_EXPIRY (R418): 1 s after the DESTROY of its table a re-filled slab is FREE. -/
def execRefillHoldExpiry (stack : Fin 16) (slab : Fin 48) (s : State) : Result :=
  live s (fun s =>
    let i := slabIndex stack.val slab.val
    match mapGet s.mem.refillHold i with
    | some t =>
      if now s ≥ t then
        let s := { s with mem := { s.mem with refillHold := mapDel s.mem.refillHold i } }
        if .slab slab.val ∈ (stackOf s stack.val).refills ∨ s.mem.keys.any (fun k => i ∈ k.2.slabs) ∨ (bindAt s i).state ≠ .refill then s
        else bindPut i {} s
      else s
    | none => s)

/-- Whether a freed object's re-fill is the one that runs on every stack that it waits on, and all of them are clocked (R220). -/
def objectTurn (s : State) (i : Nat) : Bool :=
  s.mem.stk.all (fun x => .object i ∉ x.2.refills || (x.2.refills.head? = some (.object i) && pllOn s (x.1 / 4)))

/-- MEMORY_OBJECT_REFILL_END (R220, R426): the extents of a freed device object are zero codeblocks under the null key, and the
object is FREE. -/
def execMemoryObjectRefillEnd (h : Handle) (s : State) : Result :=
  live s (fun s =>
    let i := hIdx h
    match mapGet s.obj.mems i with
    | some o =>
      if o.state = .refill && liveHandle s 3 i = h && objectTurn s i then
        let s := o.extents.foldl (fun s x => devZero x.1 x.2 s) s
        let left (k : StackSt) : StackSt := { k with refills := k.refills.filter (fun r => r ≠ .object i) }
        freeSlot { s with
          obj := { s.obj with mems := mapDel s.obj.mems i }
          mem := { s.mem with objRefill := mapDel s.mem.objRefill i, stk := s.mem.stk.map (fun x => (x.1, left x.2)) } } 3 i
      else s
    | none => s)

/-- KEY_ERASE_END (R189): entries flushed, lines invalidated, keys overwritten with zero; the slot is FREE, and the table's slabs enter their
re-fill (DEDUCED that their bindings read REFILL from the destruction on, notes/assumptions/141). -/
def execKeyEraseEnd (slot : Nat) (s : State) : Result :=
  live s (fun s =>
    match mapGet s.mem.keys slot with
    | some k =>
      if k.state = .erasing then
        let tag := slot + 1024 * k.gen
        let s := cacheDropKey tag (fenceKey tag s)
        let k' : KeySlot := { k with state := .free, table := 0, dataKey := 0, tweakKey := 0, slabs := [] }
        k.slabs.foldl (fun s i => refillEnter ((i - 120) / 48) ((i - 120) % 48) s) { s with mem := { s.mem with keys := mapPut s.mem.keys slot k' } }
      else s
    | none => s)

-- scrub (R209 to R212) --------------------------------------------------------------------------------------------------

/-- The stacks that a scrub names. -/
def scrubStacks (x : Scrub) : List Nat := (List.range 16).filter (fun k => x.b.stackMask.getLsbD k)

/-- Whether a scrub may run (R209): no earlier one names one of its stacks. -/
def scrubReady (earlier : List Scrub) (x : Scrub) : Bool :=
  (scrubStacks x).all (fun k => earlier.all (fun y => !y.b.stackMask.getLsbD k))

/-- The scrubs that wait for an earlier one (R209). -/
def scrubWaiting : List Scrub → List Scrub → Nat
  | _, [] => 0
  | earlier, x :: r => b2n (!scrubReady earlier x) + scrubWaiting (earlier ++ [x]) r

/-- SCRUB (R209, R526). -/
def effScrub (m : Fin 64) (b : ScrubBody) (s : State) : Outcome :=
  let period := if b.period = 0 then 2000 else b.period
  let inMask := (List.range 16).filter (fun k => b.stackMask.getLsbD k)
  let bad := b.slabs = 0 || inMask.any (fun k => b.firstSlab + b.slabs > 48 - (stackOf s k).chkSlabs)
  let x : Scrub := { mbx := m, seq := (boxOf s m).seq, b := { b with period := period }, started := none, lastEnd := now s,
                     next := 0, read := 0, corrected := 0, rewritten := 0, uncorrectable := 0, poisoned := 0, skipped := 0,
                     maxSymbols := 0, firstUe := none, aborted := false }
  if b.stackMask = 0 ∨ bad ∨ period < 500 ∨ period > 1000000 then done .range s
  else if !scrubReady s.mem.scrubs x ∧ scrubWaiting [] s.mem.scrubs ≥ 8 then done .noResource s
  else
    later { s with mem := { s.mem with scrubs := s.mem.scrubs ++ [x] } }

/-- SCRUB. -/
def execScrub (c : Caller) (b : ScrubBody) (s : State) : Result := gararn 0x302 .o c (effScrub c.mbx b) s

/-- The summary record of a scrub (R212). -/
def scrubRecord (x : Scrub) : List Byte :=
  let ue := match x.firstUe with
    | some u => 2 ^ 63 + u.1 * 2 ^ 26 + u.2
    | none => 0
  let st : Status := if x.aborted then .aborted else .ok
  leBytes 4 x.seq ++ leBytes 2 x.b.stackMask.toNat ++ leBytes 1 x.b.firstSlab ++ leBytes 1 x.b.slabs
    ++ leBytes 8 (x.started.getD 0) ++ leBytes 8 x.lastEnd ++ leBytes 8 x.read ++ leBytes 4 x.corrected ++ leBytes 4 x.rewritten
    ++ leBytes 4 x.uncorrectable ++ leBytes 4 x.poisoned ++ leBytes 4 x.skipped ++ leBytes 1 st.code ++ leBytes 1 x.maxSymbols
    ++ leBytes 2 0 ++ leBytes 8 ue

/-- The outcome of one codeblock of a slice (R210, R211): a corrective write is dropped when the codeblock has a merge-buffer
entry. -/
def scrubOne (x : Scrub) (stack cb : Nat) (dec : Decoded) (s : State) : Scrub × State :=
  match classDecoded s stack cb dec with
  | .clean => (x, s)
  | .corrected d c =>
    let skip := (mergeOf s stack cb).isSome
    ({ x with
       corrected := x.corrected + 1
       maxSymbols := max x.maxSymbols (d + c)
       rewritten := if x.b.rewrite && !skip then x.rewritten + 1 else x.rewritten
       skipped := if x.b.rewrite && skip then x.skipped + 1 else x.skipped },
     correctionCount stack cb d c s)
  | .uncorrectable =>
    ({ x with
       uncorrectable := x.uncorrectable + 1
       firstUe := match x.firstUe with | some u => some u | none => some (stack, cb) },
     poisonNew stack cb s)

/-- The slice of one stack: 256 consecutive codeblocks from the next one; the list gives the codeblocks that do not decode
clean. A codeblock already poisoned is counted and left. -/
def scrubStack (decs : List (Nat × Decoded)) (stack : Nat) (p : Scrub × State) : Scrub × State :=
  let lo := p.1.b.firstSlab * 2 ^ 20 + 256 * p.1.next
  let inSlice (k : Nat) : Bool := rowKey stack lo ≤ k && k < rowKey stack (lo + 256)
  let old := (p.2.mem.poison.filter (fun e => inSlice e.1)).length
  let x : Scrub := { p.1 with read := p.1.read + 256, poisoned := p.1.poisoned + old }
  (decs.filter (fun e => inSlice e.1 && !poisoned p.2 stack (e.1 - rowKey stack 0))).foldl
    (fun q e => scrubOne q.1 stack (e.1 - rowKey stack 0) e.2 q.2) (x, p.2)

/-- The scrubs that may run and that a condition picks, with their places. -/
def scrubsPicked (p : Scrub → Bool) : List Scrub → List Scrub → Nat → List (Nat × Scrub)
  | _, [], _ => []
  | earlier, x :: r, i =>
    let rest := scrubsPicked p (earlier ++ [x]) r (i + 1)
    if scrubReady earlier x && p x then (i, x) :: rest else rest

/-- Ends a scrub: its draws return, and its request is answered with the summary (R212). -/
def scrubEnd (i : Nat) (x : Scrub) (s : State) : State :=
  let s := { s with mem := { s.mem with scrubs := s.mem.scrubs.eraseIdx i } }
  let s := (scrubStacks x).foldl (fun s k => stackMod k (fun y => { y with scrubbing := false }) (anteDrop 8 k s)) s
  answer x.mbx.val { st := .ok, body := scrubRecord x } s

/-- One slice of a scrub whose draws are granted (R210 to R212). -/
def scrubSlice (decs : List (Nat × Decoded)) (i : Nat) (x : Scrub) (s : State) : State :=
  let x : Scrub := { x with started := some (x.started.getD (now s)) }
  let s := (scrubStacks x).foldl (fun s k => stackMod k (fun y => { y with scrubbing := true }) s) s
  let p := (scrubStacks x).foldl (fun p k => scrubStack decs k p) (x, s)
  let x : Scrub := { p.1 with next := p.1.next + 1, lastEnd := now s }
  let s := (scrubStacks x).foldl (fun s k => anteDrop 8 k s) p.2
  if x.next ≥ x.b.slabs * 4096 then scrubEnd i x s
  else { s with mem := { s.mem with scrubs := s.mem.scrubs.set i x } }

/-- SCRUB_SLICE (R209 to R212): a slice starts at the first multiple of PERIOD after the previous one ended, when each named
stack's class 0x8 draw is granted; the scrubs that are due ask for their draws first. One scrub runs per stack; of those whose draws are
granted the oldest makes its slice. -/
def execScrubSlice (decs : List (Nat × Decoded)) (s : State) : Result :=
  live s (fun s =>
    let due (x : Scrub) : Bool := now s / x.b.period ≠ x.lastEnd / x.b.period && (scrubStacks x).all (fun k => pllOn s (k / 4))
    match scrubsPicked (fun x => x.aborted) [] s.mem.scrubs 0 with
    | (i, x) :: _ => scrubEnd i x s
    | [] =>
      match scrubsPicked (fun x => due x && (scrubStacks x).all (fun k => anteHas s 8 k)) [] s.mem.scrubs 0 with
      | (i, x) :: _ => scrubSlice decs i x s
      | [] =>
        (scrubsPicked due [] s.mem.scrubs 0).foldl (fun s y => (scrubStacks y.2).foldl (fun s k => anteRequest 8 k false s) s) s)

/-- The instance of the class 0x5 draw of a copy that firmware makes, beyond those of the copy engines, by the binding of the slab that moves.
The spec gives no instance numbers for such copies (DESIGN CHOICE, notes/assumptions/39). -/
def moveInst (binding : Nat) : Nat := 1024 + binding

/-- A copy of firmware takes its draw of one burst; at most 40 bursts hold one (R38). -/
def copyTake (inst : Nat) (recovery : Bool) (s : State) : Bool × State :=
  if !anteHas s 5 inst && decide ((s.sys.anteHeld.filter (fun d => d.cls = 5)).length ≥ 40) then (false, s) else anteTake 5 inst recovery s

/-- A copy of firmware returns its draw, or withdraws it. -/
def copyFree (inst : Nat) (s : State) : State := anteDrop 5 inst s

end Sys2Proof.Machine
end

