-- ==== Sys2Proof/Machine/Firmware.lean ====
section
/-! DEFINITION. The mailboxes and the control core: GO (R513, R542), HELLO, assignment, images and their handover (R534 to
R536), the watchdog and restarts (R537, R538), dumps (R539 to R541, R606, R607) and the limits that Gararn sets. -/

namespace Sys2Proof.Machine

-- dumps (R539 to R541, R606, R607) --------------------------------------------------------------------------------------

/-- The version of the image that runs. -/
def fwRunning (s : State) : Nat :=
  if s.mbx.source then fieldAt s.mbx.image 8 4 else Config.romVersion

/-- The slot that a new dump takes: the lowest free one, else the one with the oldest dump (R539). -/
def dumpSlot (s : State) : Nat :=
  match mapFree s.mbx.dumps 4 with
  | some k => k
  | none =>
    let older (a : Nat) (k : Nat) : Nat :=
      match mapGet s.mbx.dumps a, mapGet s.mbx.dumps k with
      | some x, some y => if y.seq < x.seq then k else a
      | _, _ => a
    [1, 2, 3].foldl older 0

/-- Writes a dump into a slot and raises the dump source (R539, R540). What its sections hold of the control core is free. -/
def dumpWriteAt (slot kind cause time : Nat) (sections : List Nat) (s : State) : State :=
  let n := s.mbx.dumpSeq + 1
  let d : Dump := { seq := n, kind := kind, cause := cause, time := time, node := s.sys.nodeId, fw := fwRunning s,
                    sections := sections, length := Config.dumpLength n }
  irqRaise 59 { s with mbx := { s.mbx with dumps := mapPut s.mbx.dumps slot d, dumpSeq := n } }

/-- Writes a dump into the slot that R539 gives. -/
def dumpWrite (kind cause time : Nat) (sections : List Nat) (s : State) : State :=
  dumpWriteAt (dumpSlot s) kind cause time sections s

/-- The header bytes of a dump (R540); the CRC covers free contents, so its bytes are free. -/
def dumpHeader (d : Dump) : List Byte :=
  leBytes 4 d.seq ++ leBytes 1 d.kind ++ leBytes 1 d.cause ++ leBytes 2 d.sections.length ++ leBytes 8 d.time
    ++ leBytes 4 0x584D03B0 ++ leBytes 2 d.node ++ leBytes 2 0 ++ leBytes 4 d.fw ++ leBytes 4 d.length
    ++ (List.range 4).map (fun i => Config.dumpByte d.seq (32 + i)) ++ List.replicate 28 0

/-- One byte of a dump. -/
def dumpByteAt (d : Dump) (i : Nat) : Byte := if i < 64 then (dumpHeader d).getD i 0 else Config.dumpByte d.seq i

/-- DUMP_READ (R541). -/
def effDumpRead (slot off len : Nat) (s : State) : Outcome :=
  if slot > 3 then done .range s
  else match mapGet s.mbx.dumps slot with
    | none => done .gone s
    | some d =>
      if len = 0 ∨ len > 1024 ∨ off + len > d.length then done .range s
      else doneBody ((List.range len).map (fun i => dumpByteAt d (off + i))) s

/-- DUMP_CLEAR without TAKE (R541). -/
def effDumpClear (slot : Nat) (s : State) : Outcome :=
  if slot > 3 then done .range s else done .ok { s with mbx := { s.mbx with dumps := mapDel s.mbx.dumps slot } }

/-- DUMP_CLEAR with TAKE (R606, R607): the slot is emptied and takes an OPERATOR dump. -/
def effDumpTake (slot : Nat) (s : State) : Outcome :=
  if slot > 3 then done .range s
  else
    let s := dumpWriteAt slot 3 0 (now s) [1, 2, 4, 5, 6] s
    doneBody (leBytes 4 s.mbx.dumpSeq ++ leBytes 4 (Config.dumpLength s.mbx.dumpSeq)) s

/-- DUMP_READ. -/
def execDumpRead (c : Caller) (slot offset length : Nat) (s : State) : Result :=
  gararn 0x006 .o c (effDumpRead slot offset length) s

/-- DUMP_CLEAR. -/
def execDumpClear (c : Caller) (slot : Nat) (s : State) : Result := gararn 0x007 .o c (effDumpClear slot) s

/-- DUMP_CLEAR with TAKE. -/
def execDumpTake (c : Caller) (slot : Nat) (s : State) : Result := gararn 0x007 .o c (effDumpTake slot) s

-- mailboxes (R510 to R519, R542) ----------------------------------------------------------------------------------------

/-- HELLO (R519, R523): version 4 is agreed when the driver's bitmap holds bit 4. -/
def effGararnHello (m : Fin 64) (versions : Nat) (s : State) : Outcome :=
  if versions / 16 % 2 = 1 then
    doneBody (leBytes 1 4 ++ leBytes 3 0 ++ leBytes 4 (fwRunning s)) (boxMod m.val (fun b => { b with version := 4 }) s)
  else done .version s

/-- HELLO needs no agreed version, and an unassigned mailbox is DENIED all the same (R510). -/
def executeHello (m : Fin 64) (versions : Nat) (s : State) : State :=
  let s := boxMod m.val (fun b => { b with opcode := 1, executing := true, journalled := true }) s
  let r := if letterOk s m .ot then effGararnHello m versions s else done .denied s
  match r.reply with
  | some a => answer m.val a r.s
  | none => r.s

/-- GARARN_HELLO. -/
def execGararnHello (c : Caller) (versions : Nat) (s : State) : Result :=
  live s (fun s => if coreRuns s then executeHello c.mbx versions s else s)

/-- MBX_ASSIGN (R510, R516, R523): binds a table mailbox to a table, or frees it; it starts afresh. -/
def effMbxAssign (mailbox : Nat) (table : Handle) (s : State) : Outcome :=
  let fresh (a : Option Nat) (s : State) : State :=
    boxMod mailbox (fun b => { b with assigned := a, lastSeq := 0, version := 0, stored := none, resp := none, done := false }) s
  let st := if table = 0 then Status.ok else
    match checkHandle s none 5 table with
    | .ok => (match tableAt s (hIdx table) with
      | some tb => if tb.destroying then .gone else .ok
      | none => .gone)
    | e => e
  let bad := mailbox < 4 ∨ mailbox > 63
  let st := worst [st, if bad then .range else .ok, if ¬bad ∧ (boxOf s mailbox).busy then .busy else .ok]
  if st ≠ .ok then done st s
  else done .ok (fresh (if table = 0 then none else some (hIdx table)) s)

/-- MBX_ASSIGN. -/
def execMbxAssign (c : Caller) (mailbox : Nat) (table : Handle) (s : State) : Result :=
  gararn 0x003 .o c (effMbxAssign mailbox table) s

-- firmware (R534 to R536) -----------------------------------------------------------------------------------------------

/-- FW_STAGE: a piece at offset 0 restarts staging; any other begins where the last one ended (3 MiB of staging, R506). -/
def effFwStage (off : Nat) (bs : List Byte) (s : State) : Outcome :=
  if bs.isEmpty ∨ bs.length > 1024 ∨ (off ≠ 0 ∧ off ≠ s.mbx.staged.length) ∨ off + bs.length > 3 * 2 ^ 20 then done .range s
  else done .ok { s with mbx := { s.mbx with staged := if off = 0 then bs else s.mbx.staged ++ bs } }

/-- FW_STAGE. -/
def execFwStage (c : Caller) (offset : Nat) (bytes : List Byte) (s : State) : Result :=
  gararn 0x004 .o c (effFwStage offset bytes) s

/-- FW_ACTIVATE (R535, R536): the outcomes of the hash, signature and digest checks come with the command; a pass starts the
handover, and the answer comes when it ends. -/
def effFwActivate (m : Fin 64) (keyOk sigOk digestOk : Bool) (s : State) : Outcome :=
  let st := s.mbx.staged
  let ok := keyOk && sigOk && digestOk && decide (st.length = fieldAt st 4 4) && decide (st.length ≥ 512)
    && decide (fieldAt st 0 4 = 1) && decide (fieldAt st 12 2 ≥ s.sys.fuse.minSvn)
  if ok then later { s with mbx := { s.mbx with core := .handover, activating := some m, since := now s } }
  else done .denied s

/-- FW_ACTIVATE. -/
def execFwActivate (c : Caller) (keyHashOk signatureOk digestOk : Bool) (s : State) : Result :=
  gararn 0x005 .o c (effFwActivate c.mbx keyHashOk signatureOk digestOk) s

-- restarts (R537, R538) -------------------------------------------------------------------------------------------------

/-- A restart of the control core begins: its cause is recorded, and SPDM sessions end (R502). -/
def coreFail (cause : CoreCause) (s : State) : State :=
  let end_ (h : HostPort) : HostPort := { h with sessions := [], spdmStage := 0 }
  { s with
    mbx := { s.mbx with
      core := .restarting
      gated := false
      lastCause := cause
      restarts := min 65535 (s.mbx.restarts + 1)
      restartLog := s.mbx.restartLog ++ [now s]
      since := now s }
    hif := { s.hif with ports := s.hif.ports.map (fun x => (x.1, end_ x.2)) } }

/-- The code of a restart cause (MBX_WDOG.LAST_CAUSE). -/
def CoreCause.code : CoreCause → Nat
  | .none => 0 | .watchdog => 1 | .ecc => 2 | .trap => 3 | .pll => 4 | .handoverFail => 5

/-- The record of the always-on domain turns into a HUB_STOP dump in slot 0, and its flag is cleared (R605). -/
def aonDump (s : State) : State :=
  if s.sys.aonValid then
    let s := dumpWriteAt 0 2 s.sys.aonCause s.sys.aonTime [3] s
    { s with sys := { s.sys with aonValid := false } }
  else s

/-- Whether the ROM image runs a phase of the cold start (R593). -/
def coreBooting (s : State) : Bool :=
  s.mbx.core = .romBoot && !s.sys.stopped && s.sys.phase ∈ [Phase.controlCore, .stacks, .checkers, .fill, .release]

/-- A restart during the cold start repeats the phase (R593): the cause is recorded and a CORE dump is written, which takes the slot after
the HUB_STOP dump's (R605). CORE stays ROM_BOOT (DESIGN CHOICE, notes/assumptions/155). -/
def bootRestart (cause : CoreCause) (s : State) : State :=
  dumpWrite 1 (CoreCause.code cause) (now s) [1, 2, 4, 5, 6]
    (aonDump { s with mbx := { s.mbx with lastCause := cause, restarts := min 65535 (s.mbx.restarts + 1) } })

/-- A cause of a restart of the control core (R537): in the cold start, or, where it applies to the core as it stands, at work. -/
def coreRow (on : State → Bool) (cause : CoreCause) (s : State) : Result :=
  if coreBooting s && pllOn s 11 then finish (bootRestart cause s)
  else live s (fun s => if on s then coreFail cause s else s)

/-- WATCHDOG_EXPIRY (R537). The watchdog is held while the domain is gated (R587). -/
def execWatchdogExpiry (s : State) : Result := coreRow coreRuns .watchdog s

/-- Whether the control core executes an image: it runs, or an image or the ROM loader starts (R536, R538). -/
def coreExecutes (s : State) : Bool := coreRuns s || (pllOn s 11 && (s.mbx.core = .handover || s.mbx.core = .restarting))

/-- CORE_FATAL_ERROR (R537): an uncorrectable ECC error, or an unhandled trap. -/
def execCoreFatalError (ecc : Bool) (s : State) : Result :=
  coreRow coreExecutes (if ecc then .ecc else .trap) s

/-- HANDOVER_TIMEOUT (R536): a handover not finished in 50 ms. -/
def execHandoverTimeout (s : State) : Result :=
  live s (fun s =>
    if s.mbx.core = .handover && decide (now s ≥ s.mbx.since + 50000000) then coreFail .handoverFail s else s)

/-- The checks of the persistent region (R509): the contexts of a table with a bad record are LOST, a mailbox with a bad record
returns to LAST_SEQ 0 with no version. -/
def persistCheck (badTables badBoxes : List Nat) (s : State) : State :=
  let s := badTables.foldl (fun s t => (ctxsOfTable s t).foldl (fun s c => contextLose c s) s) s
  badBoxes.foldl (fun s m => boxMod m (fun b => { b with lastSeq := 0, version := 0, stored := none }) s) s

/-- The answers that waited for the control core are written (R507, R517). -/
def owedGo (s : State) : State :=
  s.mbx.boxes.foldl (fun s x => match x.2.owed with
    | some r => answerNow x.1 r s
    | none => s) s

/-- The core reaches RUNNING: GENERATION advances, so the renege timers run on (R508), the journal is completed (R517), and FW_ACTIVATE is
answered if it waits. -/
def coreUp (source : Bool) (st : Status) (s : State) : State :=
  let m := s.mbx.activating
  let s := { s with
    mbx := { s.mbx with
      core := .running
      source := source
      generation := (s.mbx.generation + 1) % 256
      activating := none } }
  let s := owedGo s
  match m with
  | some m => answer m.val { st := st } s
  | none => s

-- limits (R524, R525) ---------------------------------------------------------------------------------------------------

/-- Does something with the table of a request, or answers why there is none (R510, R522). -/
def withTable (c : Caller) (f : Nat → State → Outcome) (s : State) : Outcome :=
  match callerTable s c with
  | .ok t => f t s
  | .error st => done st s

/-- RENEGE_SET (R374, R524). -/
def effRenegeSet (ms t : Nat) (s : State) : Outcome :=
  if ms = 0 ∨ ms > 60000 then done .range s else done .ok (tableMod t (fun tb => { tb with renegeMs := ms }) s)

/-- RENEGE_SET. -/
def execRenegeSet (c : Caller) (ms : Nat) (s : State) : Result := gararn 0x103 .o c (withTable c (effRenegeSet ms)) s

/-- WAIT_QUOTA (R348, R524). -/
def effWaitQuota (quota t : Nat) (s : State) : Outcome :=
  if quota = 0 ∨ quota > 16384 then done .range s else done .ok (tableMod t (fun tb => { tb with quota := quota }) s)

/-- WAIT_QUOTA. -/
def execWaitQuota (c : Caller) (quota : Nat) (s : State) : Result := gararn 0x104 .o c (withTable c (effWaitQuota quota)) s

/-- WALK_LIMIT (R117, R525). -/
def effWalkLimit (limit : Nat) (s : State) : Outcome :=
  if limit = 0 ∨ limit > 96 then done .range s else done .ok { s with trn := { s.trn with tableMax := limit } }

/-- WALK_LIMIT. -/
def execWalkLimit (c : Caller) (limit : Nat) (s : State) : Result := gararn 0x207 .o c (effWalkLimit limit) s

end Sys2Proof.Machine
end

