-- ==== Sys2Proof/Machine/Coherence.lean ====
section
/-! DEFINITION. The coherence directory (R378 to R411): home and proxy entries, open transactions with their snoops, the retry
queue, recalls, proxies and host agents. A line is named by PA[59:8]. An agent is numbered as R380 gives; 128 stands for a
source that holds no lines. -/

namespace Sys2Proof.Machine

-- entries ---------------------------------------------------------------------------------------------------------------

/-- Changes COH. -/
def cohMod (f : CohSt → CohSt) (s : State) : State := { s with coh := f s.coh }

/-- Whether this hub is the home of a line. -/
def cohHome (s : State) (l : Nat) : Bool := l / 2 ^ 40 = s.sys.nodeId

/-- The slice of a line (R382). -/
def lineSlice (l : Nat) : Nat := l % 8

/-- The slice and set of a line together (R382). -/
def lineSet (l : Nat) : Nat := l % 2 ^ 17

/-- The entry of a line. -/
def dirAt (s : State) (l : Nat) : DirEntry := mapGetD s.coh.dir l {}

/-- Sets the entry of a line; an entry that is not BUSY and lists no holder frees its way. -/
def dirPut (l : Nat) (e : DirEntry) (s : State) : State :=
  cohMod (fun c => { c with
    dir := if e.busy = false && (e.presence.isEmpty || e.state = .i) then mapDel c.dir l else mapPut c.dir l e }) s

/-- The location of a line's bytes. -/
def lineLoc (s : State) (l : Nat) : Loc := locate s (l * 256)

/-- The table of a line's slab on this hub. -/
def lineTable (s : State) (l : Nat) : Option Nat := slabTable s (lineLoc s l).stack (lineLoc s l).slab

/-- The key of a line's slab. -/
def lineKey (s : State) (l : Nat) : Nat := slabKey s (lineLoc s l).stack (lineLoc s l).slab

/-- The line as memory holds it. -/
def lineRead (s : State) (l : Nat) : Status × List Byte := devRead s (lineKey s l) (l * 256) 256

/-- Writes bytes of a line from an offset. -/
def lineWrite (l off : Nat) (bs : List Byte) (s : State) : State := devWrite (lineKey s l) (l * 256 + off) bs s

/-- Poisons the codeblock that holds a line (R406, R408). -/
def linePoison (l : Nat) (s : State) : State :=
  let p := placeOf s (l * 256)
  poisonNew p.stack (p.local_ / 1024) s

/-- An entry without one of its holders (R384, R394). -/
def dropHolder (e : DirEntry) (a : Nat) : DirEntry :=
  let rest := e.presence.filter (fun x => x ≠ a)
  if rest.isEmpty then { e with presence := [], state := .i, owner := 0 }
  else if e.owner = a ∧ (e.state = .f ∨ e.state = .e ∨ e.state = .m) then { e with presence := rest, state := .s, owner := 0 }
  else { e with presence := rest }

-- messages (R385 to R387) -----------------------------------------------------------------------------------------------

/-- The code of a line state (R383). -/
def LineState.code : LineState → Nat
  | .i => 0 | .s => 1 | .f => 2 | .e => 3 | .m => 4

/-- A coherence message as an SNP packet (R387). -/
def cohPacket (tenant type : Nat) (m : CohMsg) : Packet :=
  { src := 0
    tenant := tenant
    type := type
    status := m.status
    atom := m.atom
    addr := m.line * 256
    tag := m.txid + m.agent % 128 * 2 ^ 16 + LineState.code m.state * 2 ^ 24
      + (b2n m.dirty + 2 * b2n m.noCache + 4 * b2n m.wbp) * 2 ^ 27
    len := m.data.length
    payload := m.data }

/-- The CXL.mem name of a message to a host agent (R404). -/
def cohHostName (type : Nat) : String :=
  if type = 0x38 then "BISnpData" else if type = 0x39 then "BISnpInv" else if type = 0x3A then "BISnpCur"
  else if type = 0x3F then "Cmp" else "MemData"

/-- The tenant under which messages about a line travel. -/
def lineTenant (s : State) (m : CohMsg) : Nat :=
  let t := if cohHome s m.line then (lineTable s m.line).getD 0 else m.table
  (tenantOf s t).getD 0

/-- Sends a message to an agent of this hub's numbering. -/
def cohSend (a type : Nat) (m : CohMsg) (s : State) : State :=
  if a < 120 ∨ a ≥ 128 then emit (.coh a type { m with link := none }) s
  else if a < 124 then
    emit (.cohHost ((a - 120) / 2) (if type = 0x3D && m.data.isEmpty then "Cmp" else cohHostName type) { m with link := none }) s
  else packetSend (mapGetD s.coh.proxies (a - 124) {}).node (cohPacket (lineTenant s m) type m) s

/-- Answers a requester: over the link with the AGENT it sent, or at its own port. -/
def cohReply (m : CohMsg) (type : Nat) (s : State) : State :=
  match m.link with
  | some k => packetSend k.node (cohPacket k.tenant type { m with agent := k.agent }) s
  | none => cohSend m.agent type m s

/-- An answer to a request with a state, a status and data. -/
def cohAnswer (m : CohMsg) (type : Nat) (st : LineState) (status : Status) (dirty : Bool) (data : List Byte) (s : State) : State :=
  cohReply { m with state := st, status := status, dirty := dirty, wbp := false, atom := 0, mask := [], data := data } type s

/-- Sends a snoop; the requester is named, or 128 in a recall (R393, R398). -/
def cohSnoop (a type : Nat) (m : CohMsg) (l : Nat) (s : State) : State :=
  let n : CohMsg := { agent := m.agent, txid := m.txid, line := l, table := m.table }
  cohSend a type n (cohMod (fun c => { c with cntSnoop := sat64 (c.cntSnoop + 1) }) s)

-- proxies (R400, R401) --------------------------------------------------------------------------------------------------

/-- The proxy bound to a node. -/
def proxyOf (s : State) (n : Nat) : Option Nat :=
  (List.range 4).find? (fun q => let p := mapGetD s.coh.proxies q {}; p.valid && p.node = n)

/-- The home entries that list proxy q. -/
def proxyLines (s : State) (q : Nat) : Nat :=
  (s.coh.dir.filter (fun x => !x.2.proxy && (x.2.presence.contains (124 + q)))).length

/-- Frees every proxy that no entry lists and no open or queued request needs (R400). -/
def proxyTidy (s : State) : State :=
  (List.range 4).foldl (fun s q =>
    if (mapGetD s.coh.proxies q {}).valid && proxyLines s q = 0 && !s.coh.txns.any (fun x => x.2.m.agent = 124 + q)
        && !s.coh.retry.any (fun x => x.2.agent = 124 + q) then
      cohMod (fun c => { c with proxies := mapDel c.proxies q }) s
    else s) s

/-- Whether a request allocates (R381, R400). -/
def cohAllocates (type : Nat) : Bool := type = 0x30 || type = 0x31 || type = 0x32

/-- Numbers the requester as the home knows it: a node on a link is its proxy, bound at its first allocating request; without
one it is served without allocation (R400, R401). -/
def cohNumber (type : Nat) (m : CohMsg) (s : State) : CohMsg × State :=
  match m.link with
  | none => (m, s)
  | some k =>
    let m' : CohMsg := { m with link := some { k with agent := m.agent }, table := (lineTable s m.line).getD 0 }
    match proxyOf s k.node with
    | some q => ({ m' with agent := 124 + q }, s)
    | none =>
      match (List.range 4).find? (fun q => !(mapGetD s.coh.proxies q {}).valid) with
      | some q =>
        if cohAllocates type then
          ({ m' with agent := 124 + q },
           cohMod (fun c => { c with proxies := mapPut c.proxies q { valid := true, node := k.node } }) s)
        else ({ m' with agent := 128 }, s)
      | none => ({ m' with agent := 128 }, s)

-- transactions (R391, R393) ---------------------------------------------------------------------------------------------

/-- The open transaction of a line. -/
def cohTxn (s : State) (l : Nat) : Option LineTxn := mapGet s.coh.txns l

/-- Where a proxy hub keeps the snoop of a line that it passes to its clusters. -/
def snoopKey (l : Nat) : Nat := l + 2 ^ 64

/-- Sets the transaction of a key. -/
def cohTxnPut (k : Nat) (x : LineTxn) (s : State) : State := cohMod (fun c => { c with txns := mapPut c.txns k x }) s

/-- A transaction with nothing received yet. -/
def txnNew (s : State) (type : Nat) (m : CohMsg) : LineTxn :=
  { type := type, m := m, waiting := [], snooped := 128, needAck := false, newState := .i, newOwner := 0, newPresence := [],
    got := none, gotDirty := false, wbSeen := false, wbpSeen := false, forwarded := false, dataDue := false, opened := now s }

/-- What the home plans for a request (R393): whom it snoops and how, and the state that the line takes. -/
structure CohPlan where
  snoops : List (Nat × Nat)
  state : LineState
  owner : Nat
  presence : List Nat

/-- The plan of a request of agent a on an entry (R393). A requester other than a proxy is never snooped for its own request: it
has dropped what it asks for again. -/
def cohPlan (type a : Nat) (e : DirEntry) : CohPlan :=
  let host := 120 ≤ a && a < 124
  let others := e.presence.filter (fun x => x ≠ a || 124 ≤ a)
  let inv := others.map (fun x => (x, 0x39))
  let withA := if a ∈ e.presence then e.presence else e.presence ++ [a]
  let keep : CohPlan := ⟨[], e.state, e.owner, e.presence⟩
  let alone : CohPlan := if host then ⟨[], .s, 0, [a]⟩ else ⟨[], .e, a, [a]⟩
  if type = 0x30 then
    match e.state with
    | .i => alone
    | .s => if host then ⟨[], .s, 0, withA⟩ else ⟨[], .f, a, withA⟩
    | _ =>
      if e.owner = a ∧ a < 124 then (if others.isEmpty then alone else ⟨[], .f, a, withA⟩)
      else ⟨[(e.owner, 0x38)], if host then .s else .f, if host then 0 else a, withA⟩
  else if type = 0x31 ∨ type = 0x32 then ⟨inv, .e, a, [a]⟩
  else if type = 0x33 then
    (if (e.state = .e ∨ e.state = .m) ∧ e.owner ≠ a then { keep with snoops := [(e.owner, 0x3A)] } else keep)
  else ⟨e.presence.map (fun x => (x, 0x39)), .i, 0, []⟩

/-- Closes a line's transaction: BUSY ends with the entry it leaves (R391). -/
def cohClose (l : Nat) (e : DirEntry) (s : State) : State :=
  let s := dirPut l { e with busy := false } (cohMod (fun c => { c with txns := mapDel c.txns l }) s)
  proxyTidy (cohMod (fun c => { c with sliceIdle := mapPut c.sliceIdle (lineSlice l) (now s) }) s)

/-- Puts the state that a transaction leaves into the entry (R393), and closes it unless the requester's ACK is awaited. The ACK
of a host agent is taken as given (R391). -/
def cohInstall (l : Nat) (x : LineTxn) (st : LineState) (s : State) : State :=
  let e : DirEntry := { dirAt s l with
    state := st, owner := x.newOwner, presence := x.newPresence, table := x.m.table, node := l / 2 ^ 40, busy := true }
  if 120 ≤ x.m.agent ∧ x.m.agent < 124 then cohClose l e s
  else cohTxnPut l { x with needAck := true, opened := now s } (dirPut l e s)

/-- Writes the bytes that a mask picks (R385). -/
def maskWrite (l : Nat) (mask : List Bool) (data : List Byte) (s : State) : State :=
  (List.range data.length).foldl (fun s i =>
    if mask.getD i false then lineWrite l i [data.getD i 0] s else s) s

/-- The offset of an atomic row within its line: the first byte of its mask. -/
def rowOffset (mask : List Bool) : Nat := mask.findIdx (fun b => b)

/-- The end of a transaction whose snoop answers and data have all arrived (R393, R397, R409). -/
def cohEnd (l : Nat) (x : LineTxn) (s : State) : State :=
  let e := dirAt s l
  let m := x.m
  let toMemory := x.type ≤ 2 || x.type = 0x30 || x.type = 0x36 || x.type = 0x37
  let s := match x.got with
    | some d => if toMemory && !x.wbSeen then lineWrite l 0 d s else s
    | none => s
  let data := match x.got with
    | some d => (Status.ok, d)
    | none => lineRead s l
  let left := if x.wbSeen then dropHolder e x.snooped else e
  if x.type ≤ 1 then cohClose l { e with presence := [], state := .i, owner := 0 } s
  else if x.type = 2 then cohClose l (dropHolder e x.newOwner) s
  else if x.type = 0x30 then
    if x.forwarded then cohInstall l x x.newState s
    else if data.1 = .ok then cohInstall l x x.newState (cohAnswer m 0x3D x.newState .ok false data.2 s)
    else cohClose l left (cohAnswer m 0x3D .i .poisoned false [] s)
  else if x.type = 0x31 ∨ (x.type = 0x32 ∧ m.agent ∉ e.presence) then
    let st : LineState := if x.gotDirty then .m else .e
    if x.forwarded then cohInstall l x st s
    else if data.1 = .ok then cohInstall l x st (cohAnswer m 0x3D st .ok x.gotDirty data.2 s)
    else cohClose l left (cohAnswer m 0x3D .i .poisoned false [] s)
  else if x.type = 0x32 then cohInstall l x .e (cohAnswer m 0x3D .e .ok false [] s)
  else if x.type = 0x33 then
    (if data.1 = .ok then cohClose l left (cohAnswer m 0x3C .i .ok false data.2 s)
     else cohClose l left (cohAnswer m 0x3D .i .poisoned false [] s))
  else
    let none_ : DirEntry := { e with presence := [], state := .i, owner := 0 }
    if x.type = 0x36 then cohClose l none_ (cohAnswer m 0x3D .i .ok false [] (maskWrite l m.mask m.data s))
    else if atomBad m.atom m.data.length then cohClose l none_ (cohAnswer m 0x3D .i .range false [] s)
    else
      let r := devAtomic (lineKey s l) (l * 256 + rowOffset m.mask) m.atom m.data.length m.data s
      cohClose l none_ (cohAnswer m 0x3D .i r.1.1 false (if r.1.1 = .ok then r.1.2 else []) r.2)

/-- Ends a transaction if nothing is awaited any more. -/
def cohTry (l : Nat) (s : State) : State :=
  match cohTxn s l with
  | some x => if x.waiting.isEmpty && !x.dataDue && !x.needAck then cohEnd l x s else s
  | none => s

/-- Opens a transaction on a line that is not BUSY: its snoops go out (R391, R393). -/
def cohStart (l type : Nat) (m : CohMsg) (s : State) : State :=
  let e := dirAt s l
  let p := cohPlan type m.agent e
  let x : LineTxn := { txnNew s type m with
    waiting := p.snoops.map (fun y => y.1), snooped := if e.state = .s ∨ e.state = .i then 128 else e.owner,
    newState := p.state, newOwner := p.owner, newPresence := p.presence }
  let e' : DirEntry := { e with busy := true, used := s.coh.clock, node := l / 2 ^ 40, table := if e.presence.isEmpty then m.table else e.table }
  let s := cohMod (fun c => { c with clock := c.clock + 1, dir := if (mapGet c.dir l).isSome || cohAllocates type then mapPut c.dir l e' else c.dir }) s
  let s := p.snoops.foldl (fun s y => cohSnoop y.1 y.2 m l s) (cohTxnPut l x s)
  cohTry l s

/-- Recalls a line (R398, R407): of a home entry or of a proxy entry. -/
def cohRecall (l type : Nat) (m : CohMsg) (s : State) : State :=
  let n : CohMsg := { m with agent := 128, link := none }
  let e := dirAt s l
  let x : LineTxn := { txnNew s type m with waiting := e.presence, snooped := if e.state = .s then 128 else e.owner }
  let s := cohMod (fun c => { c with
    cntEvict := if type = 0 then sat64 (c.cntEvict + 1) else c.cntEvict
    dir := mapPut c.dir l { e with busy := true } }) s
  e.presence.foldl (fun s a => cohSnoop a 0x39 n l s) (cohTxnPut l x s)

/-- Opens a cluster's request for a foreign line (R402): it travels to the home under the proxy entry's BUSY. -/
def cohForward (l type : Nat) (m : CohMsg) (s : State) : State :=
  let s :=
    if cohAllocates type then
      let e := dirAt s l
      let e' : DirEntry := { e with busy := true, proxy := true, used := s.coh.clock, node := l / 2 ^ 40, table := m.table }
      let x : LineTxn := { txnNew s type m with dataDue := true }
      cohTxnPut l x (cohMod (fun c => { c with clock := c.clock + 1, dir := mapPut c.dir l e' }) s)
    else s
  packetSend (l / 2 ^ 40) (cohPacket (lineTenant s m) type m) s

/-- Takes a request that may open (R388, R393): a request that a slab's new state refuses is answered (R407). -/
def cohTake (type : Nat) (m : CohMsg) (s : State) : State :=
  let l := m.line
  let s := cohMod (fun c => { c with cntReq := sat64 (c.cntReq + 1) }) s
  if cohHome s l then
    if (lineTable s l).isNone then cohAnswer m 0x3D .i .fault false [] s
    else if m.agent = 128 ∧ cohAllocates type ∧ m.link.isSome then
      let s := cohMod (fun c => { c with cntNoCache := sat64 (c.cntNoCache + 1) }) s
      if type = 0x32 then cohAnswer { m with noCache := true } 0x3D .i .ok false [] s
      else cohStart l 0x33 { m with noCache := true } s
    else cohStart l type m s
  else cohForward l type m s

-- the retry queue (R388 to R390, R398, R399, R410) ----------------------------------------------------------------------

/-- The entries of the set of a line. -/
def setEntries (s : State) (l : Nat) : List (Nat × DirEntry) := s.coh.dir.filter (fun x => lineSet x.1 = lineSet l)

/-- Whether a request needs a way that its line does not have. -/
def needsWay (s : State) (type : Nat) (m : CohMsg) : Bool :=
  cohAllocates type && (m.agent < 128) && (mapGet s.coh.dir m.line).isNone

/-- Whether a line lies in a granule that is being copied (R91). -/
def lineHeld (s : State) (l : Nat) : Bool := cohHome s l && granuleHeld s (lineLoc s l)

/-- Transactions open in a slice. -/
def sliceOpen (s : State) (k : Nat) : Nat := (s.coh.txns.filter (fun x => lineSlice x.1 = k)).length

/-- The channel block of this hub that a request at its home needs. -/
def lineStack (s : State) (l : Nat) : Option Nat :=
  let p := placeOf s (l * 256)
  if cohHome s l && (remoteOf s p).isNone && stackWorks s p.stack then some p.stack else none

/-- Whether a channel block could serve now (R27, R38): clocked, and with its draw or room for it. -/
def blockReady (s : State) (k : Nat) : Bool :=
  pllOn s (k / 4) && (anteHas s 1 k || (s.sys.anteWait.isEmpty && decide (anteUnits 1 ≤ anteFree s) && pllOn s 11))

/-- Whether a request may open now. -/
def cohReady (s : State) (x : Nat × CohMsg) : Bool :=
  let k := lineSlice x.2.line
  (cohTxn s x.2.line).isNone && !lineHeld s x.2.line && anteHas s 7 k && (sliceOpen s k < 1024) && (lineStack s x.2.line).all (blockReady s)
    && (!needsWay s x.1 x.2 || (setEntries s x.2.line).length < 16)

/-- The first queued request that a condition picks and that no earlier one for its line precedes, with its place. -/
def firstQueued (p : Nat × CohMsg → Bool) : List Nat → Nat → List (Nat × CohMsg) → Option (Nat × (Nat × CohMsg))
  | _, _, [] => none
  | seen, i, x :: r =>
    if x.2.line ∉ seen && p x then some (i, x) else firstQueued p (x.2.line :: seen) (i + 1) r

/-- The least recently used way of a set that is not BUSY (R398). -/
def cohVictim (s : State) (l : Nat) : Option Nat :=
  let older (b : Option (Nat × DirEntry)) (x : Nat × DirEntry) : Option (Nat × DirEntry) :=
    if x.2.busy then b else match b with
      | none => some x
      | some y => if x.2.used < y.2.used then some x else some y
  ((setEntries s l).foldl older none).map (fun x => x.1)

/-- Whether a request waits for a way and no recall is under way for it. -/
def wantsVictim (s : State) (x : Nat × CohMsg) : Bool :=
  (cohTxn s x.2.line).isNone && anteHas s 7 (lineSlice x.2.line) && needsWay s x.1 x.2
    && (setEntries s x.2.line).length ≥ 16 && !s.coh.txns.any (fun y => y.2.type = 0 && y.2.m = x.2)
    && (cohVictim s x.2.line).isSome

/-- A line of a slab that is being recalled (R407), or of a granule that is being copied (R91), that is not BUSY. -/
def recallLine (s : State) : Option Nat :=
  (s.coh.dir.find? (fun x => !x.2.proxy && !x.2.busy
    && (lineHeld s x.1 || s.coh.recalls.contains (slabIndex (lineLoc s x.1).stack (lineLoc s x.1).slab)))).map (fun x => x.1)

/-- A line held by a cluster that is being cleared (R84) and is not BUSY, with the cluster. -/
def flushLine (s : State) : Option (Nat × Nat) :=
  (s.coh.dir.find? (fun x => !x.2.proxy && !x.2.busy && x.2.presence.any (fun a => a ∈ s.coh.flush))).bind
    (fun x => (x.2.presence.find? (fun a => a ∈ s.coh.flush)).map (fun a => (x.1, a)))

/-- Takes a line from one cluster (R84): only that cluster is snooped, and the others keep their copies. -/
def cohFlush (l a : Nat) (s : State) : State :=
  let m : CohMsg := { agent := 128, line := l }
  let e := dirAt s l
  let owned := e.state ≠ .s && e.owner = a
  let x : LineTxn := { txnNew s 2 m with waiting := [a], snooped := if owned then a else 128, newOwner := a }
  cohSnoop a 0x39 m l (cohTxnPut l x (cohMod (fun c => { c with dir := mapPut c.dir l { e with busy := true } }) s))

/-- One move of the retry queues: a slab's line is recalled, a queued request opens, or a victim is recalled for one. -/
def cohMove (s : State) : Option State :=
  match recallLine s with
  | some l => some (cohRecall l 1 { agent := 128, line := l } s)
  | none =>
    match flushLine s with
    | some (l, a) => some (cohFlush l a s)
    | none =>
    match firstQueued (cohReady s) [] 0 s.coh.retry with
    | some (i, x) => some (cohTake x.1 x.2 (cohMod (fun c => { c with retry := c.retry.eraseIdx i }) s))
    | none =>
      match firstQueued (wantsVictim s) [] 0 s.coh.retry with
      | some (_, x) => (cohVictim s x.2.line).map (fun v => cohRecall v 0 x.2 s)
      | none => none

/-- Moves the retry queues until nothing can move, within a number of moves. -/
def cohMoves : Nat → State → State
  | 0, s => s
  | n + 1, s => match cohMove s with
    | some s' => cohMoves n s'
    | none => s

/-- A queued request whose slice has its draw waits for its channel block's, and asks for it (R38). -/
def cohBlockAsk (s : State) (x : Nat × CohMsg) : State :=
  match lineStack s x.2.line with
  | some k => if anteHas s 7 (lineSlice x.2.line) && pllOn s (k / 4) && !blockReady s k then (blockTake k s).2 else s
  | none => s

/-- Asks for the draws that queued requests wait for (R38, R410), and lets the queues move. -/
def cohSettle (s : State) : State :=
  let s := s.coh.retry.foldl (fun s x => anteRequest 7 (lineSlice x.2.line) false s) s
  let s := cohMoves (2 * s.coh.retry.length + s.coh.dir.length + 4) s
  let s := s.coh.retry.foldl cohBlockAsk s
  cohMod (fun c => { c with
    recalls := c.recalls.filter (fun i => c.dir.any (fun x => !x.2.proxy && slabIndex (lineLoc s x.1).stack (lineLoc s x.1).slab = i))
    flush := c.flush.filter (fun a => c.dir.any (fun x => !x.2.proxy && x.2.presence.contains a)) }) s

/-- A request reaches its slice (R389): it opens when it may, behind earlier ones for its line. -/
def cohRequest (type : Nat) (m : CohMsg) (s : State) : State :=
  cohSettle (cohMod (fun c => { c with retry := c.retry ++ [(type, m)] }) s)

/-- Begins the writeback and invalidation of every line that a cluster holds (R84). The hub snoops it for each home line; of a foreign
line its WB or EVICT_CLEAN is awaited. -/
def clusterFlush (cl : Nat) (s : State) : State :=
  let foreign := (s.coh.dir.filter (fun x => x.2.proxy && x.2.presence.contains cl)).map (fun x => x.1)
  let s := foreign.foldl (fun s l => emit (.coh cl 0x39 { agent := 128, line := l }) s) s
  cohSettle (cohMod (fun c => { c with flush := cl :: c.flush }) s)

/-- Whether a cluster still holds a line. -/
def clusterHolds (s : State) (cl : Nat) : Bool :=
  s.coh.dir.any (fun x => x.2.presence.contains cl) || s.coh.txns.any (fun x => x.2.waiting.contains cl)

/-- Begins the recall of every line of a slab (R407). -/
def recallSlab (stack slab : Nat) (s : State) : State :=
  if slabListed s stack slab then
    cohSettle (cohMod (fun c => { c with recalls := slabIndex stack slab :: c.recalls }) s)
  else s

-- arrivals --------------------------------------------------------------------------------------------------------------

/-- A coherence message on a link (R250, R387): sequenced, and checked against the tenant of the line's table at its home. -/
def cohArrive (type : Nat) (m : CohMsg) (f : CohMsg → State → State) (s : State) : State :=
  match m.link with
  | none => f m s
  | some k =>
    let p : Packet := { src := k.node, tenant := k.tenant, type := type, eseq := k.eseq, addr := m.line * 256 }
    match rxAccept k.lp.val p s with
    | (.fresh, s) =>
      if cohHome s m.line ∧ (lineTable s m.line).bind (tenantOf s) ≠ some k.tenant then
        let s := lnkDenied k.lp.val p s
        let ans (c : Nat) : State := cohAnswer { m with link := some { k with agent := m.agent } } c .i .denied false [] s
        if type = 0x34 then ans 0x3F
        else if 0x30 ≤ type ∧ type ≤ 0x37 ∧ type ≠ 0x35 then ans 0x3D
        else s
      else f m s
    | (_, s) => s

/-- A request of R385 that arrives at this hub: at its home, or at the hub of a cluster that asks for a foreign line. A request
on a link for a line of another home is dropped. -/
def cohArriveRequest (type : Nat) (m : CohMsg) (s : State) : State :=
  cohArrive type m (fun m s =>
    if cohHome s m.line then
      let r := cohNumber type m s
      cohRequest type r.1 r.2
    else if m.link.isSome then lnkDrop s
    else cohRequest type m s) s

/-- RD_SHARED (R393). -/
def execRdShared (m : CohMsg) (s : State) : Result := live s (cohArriveRequest 0x30 m)

/-- RD_OWN (R393). -/
def execRdOwn (m : CohMsg) (s : State) : Result := live s (cohArriveRequest 0x31 m)

/-- UPGRADE (R393). -/
def execUpgrade (m : CohMsg) (s : State) : Result := live s (cohArriveRequest 0x32 m)

/-- RD_NA (R393). -/
def execRdNa (m : CohMsg) (s : State) : Result := live s (cohArriveRequest 0x33 m)

/-- WR_NA (R393). -/
def execWrNa (m : CohMsg) (s : State) : Result := live s (cohArriveRequest 0x36 m)

/-- ATOM_H (R393). -/
def execAtomH (m : CohMsg) (s : State) : Result := live s (cohArriveRequest 0x37 m)

/-- An agent that no longer holds a line leaves its entry (R394), and what an open transaction will leave there but for its own grant. -/
def holderLeaves (a l : Nat) (s : State) : State :=
  match cohTxn s l with
  | some x =>
    cohTxnPut l { x with newPresence := x.newPresence.filter (fun b => b ≠ a || b = x.m.agent) }
      (cohMod (fun c => { c with dir := mapMod c.dir l (fun e => { dropHolder e a with busy := true }) }) s)
  | none => dirPut l (dropHolder (dirAt s l) a) s

/-- A writeback at its home (R394, R395): written in every case; from the snooped agent it supplies the snoop. -/
def homeWb (m : CohMsg) (s : State) : State :=
  let l := m.line
  let s := cohAnswer m 0x3F .i .ok false [] (lineWrite l 0 m.data (cohMod (fun c => { c with cntReq := sat64 (c.cntReq + 1) }) s))
  match cohTxn s l with
  | some x =>
    if x.snooped = m.agent ∧ (m.agent ∈ x.waiting ∨ x.wbpSeen) ∧ x.wbSeen = false then
      let s := cohMod (fun c => { c with cntCross := sat64 (c.cntCross + 1) }) s
      let x : LineTxn := { x with
        got := some m.data, gotDirty := true, wbSeen := true, dataDue := false
        newPresence := x.newPresence.filter (fun a => a ≠ m.agent || a = x.m.agent) }
      cohTry l (cohTxnPut l x s)
    else holderLeaves m.agent l s
  | none => holderLeaves m.agent l s

/-- A dropped clean copy at its home (R394). -/
def homeEvict (m : CohMsg) (s : State) : State :=
  holderLeaves m.agent m.line (cohMod (fun c => { c with cntReq := sat64 (c.cntReq + 1) }) s)

/-- Whether the directory has an entry for a line. -/
def dirHas (s : State) (l : Nat) : Bool := (mapGet s.coh.dir l).isSome

/-- A local cluster's copy of a foreign line ends at its hub: WB always goes to the home, and EVICT_CLEAN with the last copy. -/
def proxyDrop (type : Nat) (m : CohMsg) (s : State) : State :=
  let e := dropHolder (dirAt s m.line) m.agent
  let s := if dirHas s m.line then dirPut m.line e s else s
  if type = 0x34 ∨ e.presence.isEmpty then packetSend (m.line / 2 ^ 40) (cohPacket (lineTenant s m) type m) s else s

/-- WB (R394, R395). -/
def execWb (m : CohMsg) (s : State) : Result :=
  live s (fun s => cohSettle (cohArrive 0x34 m (fun m s =>
    if cohHome s m.line then
      let r := cohNumber 0x34 m s
      homeWb r.1 r.2
    else if m.link.isSome then lnkDrop s
    else
      -- a writeback that crosses the home's snoop supplies it (R397): the hub passes it on as the clusters' data
      match mapGet s.coh.txns (snoopKey m.line) with
      | some x => proxyDrop 0x34 m (cohTxnPut (snoopKey m.line) { x with wbSeen := true } s)
      | none => proxyDrop 0x34 m s) s))

/-- EVICT_CLEAN (R394). -/
def execEvictClean (m : CohMsg) (s : State) : Result :=
  live s (fun s => cohSettle (cohArrive 0x35 m (fun m s =>
    if cohHome s m.line then
      let r := cohNumber 0x35 m s
      homeEvict r.1 r.2
    else if m.link.isSome then lnkDrop s
    else proxyDrop 0x35 m s) s))

-- snoops at a proxy hub (R402, R403) ------------------------------------------------------------------------------------

/-- The answer of a proxy hub to the home once every local cluster has answered. -/
def proxyTry (l : Nat) (s : State) : State :=
  match mapGet s.coh.txns (snoopKey l) with
  | none => s
  | some x =>
    if x.waiting.isEmpty then
      let e := dirAt s l
      let e' : DirEntry := if x.type = 0x39 then
          { e with presence := e.presence.filter (fun a => a ∈ x.newPresence), owner := if e.owner ∈ x.newPresence then e.owner else 0,
                   state := if x.newPresence.isEmpty then .i else .s }
        else if x.type = 0x38 then { e with state := if e.presence.isEmpty then .i else .s, owner := 0 }
        else e
      let s := if dirHas s l then dirPut l e' s else s
      let s := cohMod (fun c => { c with txns := mapDel c.txns (snoopKey l) }) s
      let r : CohMsg := { x.m with state := x.newState, dirty := x.gotDirty, wbp := x.wbpSeen, data := [], link := none }
      match x.m.link with
      | some k => packetSend k.node (cohPacket k.tenant 0x3B r) s
      | none => s
    else s

/-- A snoop from a home reaches this hub's proxy entry: each local cluster that the entry lists is snooped, but for the one whose
own request the snoop serves. -/
def proxySnoop (type : Nat) (m : CohMsg) (s : State) : State :=
  cohArrive type m (fun m s =>
    if m.link.isNone ∨ cohHome s m.line then s
    else
      let l := m.line
      let e := dirAt s l
      let mine : List Nat := match cohTxn s l with
        | some x => if x.m.txid = m.txid ∧ x.type ≥ 0x30 then [x.m.agent] else []
        | none => []
      let to_ := if type = 0x39 then e.presence else if e.presence.contains e.owner && e.state ≠ .s then [e.owner] else []
      let to_ := to_.filter (fun a => a ∉ mine)
      let x : LineTxn := { txnNew s type m with
        waiting := to_, snooped := e.owner, newPresence := e.presence.filter (fun a => a ∈ mine)
        newState := if (e.presence.filter (fun a => a ∈ mine)).isEmpty then .i else .s }
      let s := to_.foldl (fun s a => cohSnoop a type m l s) (cohTxnPut (snoopKey l) x s)
      proxyTry l s) s

/-- SNP_DATA (R402). Of a line of this hub it is the home's own message to a holder: nothing here changes. -/
def execSnpData (m : CohMsg) (s : State) : Result := live s (fun s => cohSettle (proxySnoop 0x38 m s))

/-- SNP_INV (R402). -/
def execSnpInv (m : CohMsg) (s : State) : Result := live s (fun s => cohSettle (proxySnoop 0x39 m s))

/-- SNP_CUR (R393, R402). -/
def execSnpCur (m : CohMsg) (s : State) : Result := live s (fun s => cohSettle (proxySnoop 0x3A m s))

/-- The higher of two states (R402). -/
def stateMax (a b : LineState) : LineState := if LineState.code a < LineState.code b then b else a

/-- Whether a dirty answer to a snoop brings its data to the home: it does except where the requester is sent it to own. -/
def wantsData (x : LineTxn) : Bool := x.type ≠ 0x31 && x.type ≠ 0x32

/-- A snoop answer at the home (R393, R396, R397). A holder that is not a host has sent its data unless it answers I with none, without
WBP and with no DATA before. -/
def homeRsp (from_ : Nat) (m : CohMsg) (s : State) : State :=
  let l := m.line
  match cohTxn s l with
  | none => s
  | some x =>
    if from_ ∉ x.waiting then s
    else
      let w := x.waiting.erase from_
      let gone := m.state = .i && from_ ≠ x.m.agent
      let x : LineTxn := { x with
        waiting := w
        newPresence := if gone then x.newPresence.filter (fun a => a ≠ from_) else x.newPresence }
      let host := 120 ≤ from_ && from_ < 124
      let x : LineTxn :=
        if m.wbp then { x with wbpSeen := true, dataDue := !x.wbSeen }
        else if from_ ≠ x.snooped ∨ x.wbSeen then x
        else if m.dirty then
          (if wantsData x ∨ host then
            let got := if m.data.isEmpty then x.got else some m.data
            { x with gotDirty := true, got := got, dataDue := got.isNone, forwarded := x.type = 0x30 && !host }
           else { x with gotDirty := true, forwarded := true })
        else if host ∨ (m.data.isEmpty ∧ m.state = .i) then x
        else { x with forwarded := x.forwarded || cohAllocates x.type }
      cohTry l (cohTxnPut l x s)

/-- A local cluster's snoop answer for a foreign line: for the home's snoop, or for a recall of the proxy entry (R403). -/
def proxyRsp (from_ : Nat) (m : CohMsg) (s : State) : State :=
  let l := m.line
  match mapGet s.coh.txns (snoopKey l) with
  | some x =>
    if from_ ∈ x.waiting then
      let x : LineTxn := { x with
        waiting := x.waiting.erase from_
        newState := stateMax x.newState m.state
        newPresence := if m.state = .i then x.newPresence else from_ :: x.newPresence
        gotDirty := x.gotDirty || m.dirty
        wbpSeen := x.wbpSeen || m.wbp }
      proxyTry l (cohTxnPut (snoopKey l) x s)
    else s
  | none =>
    match cohTxn s l with
    | some x =>
      if x.type ≤ 1 ∧ from_ ∈ x.waiting then
        let x : LineTxn := { x with
          waiting := x.waiting.erase from_
          got := if m.dirty && !m.data.isEmpty then some m.data else x.got }
        let s := cohTxnPut l x s
        if x.waiting.isEmpty then
          let n : CohMsg := { agent := from_, txid := m.txid, line := l, table := m.table }
          let home := l / 2 ^ 40
          let s := match x.got with
            | some d => packetSend home (cohPacket (lineTenant s n) 0x34 { n with data := d })
                (cohMod (fun c => { c with wbBuffers := c.wbBuffers ++ [l] }) s)
            | none => packetSend home (cohPacket (lineTenant s n) 0x35 n) s
          cohClose l { dirAt s l with presence := [], state := .i } s
        else s
      else s
    | none => s

/-- SNP_RSP (R397). -/
def execSnpRsp (from_ : Nat) (m : CohMsg) (s : State) : Result :=
  live s (fun s => cohSettle (cohArrive 0x3B m (fun m s =>
    if cohHome s m.line then homeRsp from_ m s else if m.link.isSome then lnkDrop s else proxyRsp from_ m s) s))

-- data, grants and acknowledgements (R391, R392) ------------------------------------------------------------------------

/-- A granted state is installed in a proxy entry. -/
def installProxy (e : DirEntry) (a : Nat) (st : LineState) : DirEntry :=
  let withA := if a ∈ e.presence then e.presence else e.presence ++ [a]
  match st with
  | .i => e
  | .s => { e with presence := withA, state := if e.state = .i then .s else e.state }
  | .f => { e with presence := withA, state := .f, owner := a }
  | _ => { e with presence := [a], state := st, owner := a }

/-- Data or a grant reaches a requester of this hub for a foreign line: the proxy hub installs it and sends ACK, and the cluster
gets it. A refusal or NO_CACHE installs nothing; after an UPGRADE answered NO_CACHE the copy is invalidated first (R401). -/
def proxyGrant (type : Nat) (m : CohMsg) (s : State) : State :=
  let l := m.line
  match cohTxn s l with
  | some x =>
    if x.type ≥ 0x30 ∧ x.m.txid = m.txid then
      let a := x.m.agent
      let e := dirAt s l
      let give (s : State) : State := emit (.coh a type { m with agent := a, link := none }) s
      if m.status = .ok ∧ m.noCache = false ∧ m.state ≠ .i then
        let k : CohMsg := { agent := a, txid := m.txid, line := l, table := x.m.table }
        let s := packetSend (l / 2 ^ 40) (cohPacket (lineTenant s k) 0x3E k) (give s)
        cohClose l (installProxy e a m.state) s
      else
        let lost := x.type = 0x32 && m.noCache && e.presence.contains a
        let s := if lost then cohSnoop a 0x39 { m with agent := 128 } l s else s
        cohClose l (if lost then dropHolder e a else e) (give s)
    else s
  | none => emit (.coh m.agent type { m with link := none }) s

/-- DATA (R385, R392, R393): at the home from an owner or forwarder, whose data goes on to the requester unless the home has granted the
line itself; at a requester's hub to be installed. -/
def execData (m : CohMsg) (s : State) : Result :=
  live s (fun s => cohSettle (cohArrive 0x3C m (fun m s =>
    let l := m.line
    if cohHome s l then
      match cohTxn s l with
      | some x =>
        let pass := m.agent = x.m.agent && cohAllocates x.type && (x.forwarded || !x.needAck)
        let s := if pass then cohReply { x.m with state := m.state, dirty := m.dirty, data := m.data } 0x3C s else s
        let x : LineTxn := { x with forwarded := x.forwarded || pass }
        if m.dirty ∧ wantsData x ∧ x.wbSeen = false ∧ x.needAck = false then
          cohTry l (cohTxnPut l { x with got := some m.data, gotDirty := true, dataDue := false } s)
        else cohTxnPut l x s
      | none => s
    else if m.link.isSome then proxyGrant 0x3C m s
    else
      match cohTxn s l with
      | some x => if x.m.txid = m.txid ∧ x.type ≥ 0x30 then proxyGrant 0x3C m s
          else packetSend (l / 2 ^ 40) (cohPacket (lineTenant s m) 0x3C m) s
      | none => packetSend (l / 2 ^ 40) (cohPacket (lineTenant s m) 0x3C m) s) s))

/-- GRANT (R392): at a requester's hub. A grant of this home's own is what it has sent: nothing here changes. -/
def execGrant (m : CohMsg) (s : State) : Result :=
  live s (fun s => cohSettle (cohArrive 0x3D m (fun m s => if cohHome s m.line then s else proxyGrant 0x3D m s) s))

/-- ACK (R391): closes the transaction of its requester. -/
def execAck (m : CohMsg) (s : State) : Result :=
  live s (fun s => cohSettle (cohArrive 0x3E m (fun m s =>
    if cohHome s m.line then
      let a := match m.link with
        | some k => match proxyOf s k.node with
          | some q => 124 + q
          | none => 128
        | none => m.agent
      match cohTxn s m.line with
      | some x => if x.needAck ∧ x.m.agent = a then cohClose m.line (dirAt s m.line) s else s
      | none => s
    else s) s))

/-- WB_ACK (R385): the writer frees its buffer. -/
def execWbAck (m : CohMsg) (s : State) : Result :=
  live s (fun s => cohArrive 0x3F m (fun m s =>
    if cohHome s m.line then s
    else if m.line ∈ s.coh.wbBuffers then cohMod (fun c => { c with wbBuffers := c.wbBuffers.erase m.line }) s
    else emit (.coh m.agent 0x3F { m with link := none }) s) s)

-- failures (R406, R408) -------------------------------------------------------------------------------------------------

/-- Captures a failed agent in COH_TIMEOUT (R408). -/
def cohCapture (a l : Nat) (p : Bool) (s : State) : State :=
  let c := s.coh
  if c.toValid then s
  else irqRaise 53 { s with coh := { c with toValid := true, toAgent := a, toLine := l, toPoisoned := p } }

/-- An agent counts as having answered I with no data, wherever it is waited for; a missing ACK is taken as given. -/
def agentSilent (a l : Nat) (s : State) : State :=
  match cohTxn s l with
  | none => s
  | some x =>
    if x.needAck ∧ x.m.agent = a then cohClose l (dropHolder (dirAt s l) a) s
    else if a ∈ x.waiting then homeRsp a { agent := x.m.agent, line := l } s
    else if a = x.snooped ∧ x.dataDue then
      cohTry l (cohTxnPut l { x with dataDue := false, newPresence := x.newPresence.filter (fun b => b ≠ a) } s)
    else s

/-- Takes an agent out of one entry; the codeblock of a line that it owned in E or M is poisoned. -/
def agentForget (a : Nat) (s : State) (x : Nat × DirEntry) : State :=
  let owned := x.2.owner = a && (x.2.state = .e || x.2.state = .m)
  let s := if owned then linePoison x.1 s else s
  let s := if x.2.busy then
      cohMod (fun c => { c with dir := mapMod c.dir x.1 (fun e => { dropHolder e a with busy := true }) }) s
    else dirPut x.1 (dropHolder x.2 a) s
  agentSilent a x.1 s

/-- Takes an agent out of every home entry (R406, R408). -/
def agentClear (a : Nat) (s : State) : State :=
  (s.coh.dir.filter (fun x => !x.2.proxy && (x.2.presence.contains a || (cohTxn s x.1).any (fun y => a ∈ y.waiting)))).foldl
    (agentForget a) s

/-- A host port goes down (R406): both of its host agents leave every entry. -/
def cohHostClear (p : Nat) (s : State) : State :=
  let s := { s with coh := { s.coh with
    hostEnabled := s.coh.hostEnabled &&& ~~~(BitVec.ofNat 4 (3 * 4 ^ p)) } }
  cohSettle (agentClear (121 + 2 * p) (agentClear (120 + 2 * p) s))

/-- SNOOP_TIMEOUT (R408): a cluster or host agent is silent for 100 microseconds, or the link layer has given up on a proxy's
node. -/
def execSnoopTimeout (line agent : Nat) (s : State) : Result :=
  live s (fun s =>
    match cohTxn s line with
    | none => s
    | some x =>
      let silent := agent ∈ x.waiting || (x.needAck && x.m.agent = agent)
      let e := dirAt s line
      let owned := e.owner = agent && (e.state = .e || e.state = .m)
      let node := (mapGetD s.coh.proxies (agent - 124) {}).node
      let ended := (mapGetD s.lnk.tx node {}).skipTo.isSome
      if !silent then s
      else if agent < 120 then
        if now s ≥ x.opened + 100000 then
          let s := bindFail agent (cohCapture agent line owned s)
          cohSettle (agentForget agent s (line, e))
        else s
      else if agent < 124 then
        (if now s ≥ x.opened + 100000 then cohHostClear ((agent - 120) / 2) (cohCapture agent line owned s) else s)
      else if agent < 128 ∧ ended then
        let s := agentClear agent (cohCapture agent line owned s)
        cohSettle (cohMod (fun c => { c with proxies := mapDel c.proxies (agent - 124) }) s)
      else s)

/-- SLICE_ANTE_IDLE (R410). -/
def execSliceAnteIdle (slice : Fin 8) (s : State) : Result :=
  live s (fun s =>
    let k := slice.val
    if anteHas s 7 k ∧ sliceOpen s k = 0 ∧ now s ≥ mapGetD s.coh.sliceIdle k 0 + 256 then anteDrop 7 k s else s)

/-- HOST_SNOOP (R504): the hub caches no host memory. -/
def execHostSnoop (port : Fin 2) (addr : Nat) (s : State) : Result :=
  if (portOf s port.val).state = .up ∧ (portOf s port.val).cxl ∧ hostOn s ∧ addr < 2 ^ 57 then
    .next (emit (.hostSnoop port.val "RspIHitI") s)
  else .next s

end Sys2Proof.Machine
end

