-- ==== Sys2Proof/Machine/Doorbells.lean ====
section
/-! DEFINITION. What the host writes to a doorbell page: doorbells of queues and events (R437, R453, R457) and counter windows (R355 to
R358), and to MBX_DOOR (R513), behind its earlier posted writes (R486); and the reads that a doorbell starts (R438, R473). -/

namespace Sys2Proof.Machine

/-- Sends a read to the host (R473, R478). -/
def hostReadSend (p table addr len : Nat) (w : ReadFor) (s : State) : State :=
  let tag := (portOf s p).nextTag
  let r : HostRead := { tag := tag, table := table, addr := addr, what := w, after := (portOf s p).unconfirmed.length }
  let up (h : HostPort) : HostPort := { h with reads := h.reads ++ [r], nextTag := (tag + 1) % 16384 }
  hostSend p addr (.hostRead p (pasidOf s table p) addr len tag) (portMod p up s)

-- fetch reads (R421, R438) ----------------------------------------------------------------------------------------------

/-- Whether a queue's ring lies in host memory. -/
def ringHost (s : State) (q : Queue) : Bool := match memOf s q.ringObj with
  | some o => o.kind = .host
  | none => false

/-- The address of the ring entry of a position. -/
def ringAddr (s : State) (q : Queue) (pos : Nat) : Nat :=
  match (memOf s q.ringObj).bind (fun o => extentAt o.extents (q.ringOff + 128 * (pos % q.size))) with
  | some a => a
  | none => 0

/-- The oldest position not yet dispatched (R438). -/
def undispatched (q : Queue) : Nat :=
  match q.entries.find? (fun e => e.state = .fetched || e.state = .waiting) with
  | some e => e.pos
  | none => match q.namesPend with
    | some n => n.1
    | none => q.fetchPos

/-- Whether the queue may fetch the entry at its fetch position now (R438, R421, R449). -/
def fetchDue (q : Queue) : Bool :=
  (q.state = .active || q.state = .lost) && q.rereadAt.isNone && q.tail ≠ q.fetchPos && posDist q.tail q.fetchPos ≤ posMod / 2
    && posDist q.fetchPos (undispatched q) < 16

/-- The hub and the forwarded address of the entry at a queue's fetch position, when the ring's slab has moved to another hub (R90, R91). -/
def ringFar (s : State) (q : Queue) : Option (Nat × Nat) :=
  if ringHost s q then none else remoteOf s (placeOf s (ringAddr s q q.fetchPos))

/-- Issues the read of the next entry of a ring in host memory, or in a slab that has moved to another hub; a ring that no port can reach
pauses the queue (R421, R613). -/
def fetchKick (h : Handle) (s : State) : State :=
  match queueOf s h with
  | none => s
  | some q =>
    if fetchDue q && ringHost s q then
      match primaryOf s q.table with
      | none => queueMod h (fun q => if q.state = .active then { q with state := .paused } else q) s
      | some p =>
        if (portOf s 0).reads.any (fun r => r.what = .fetch h) || (portOf s 1).reads.any (fun r => r.what = .fetch h) then s
        else hostReadSend p q.table (ringAddr s q q.fetchPos) 128 (.fetch h) s
    else match (if fetchDue q && !s.lnk.txns.any (fun t => t.what = .fetch h) then ringFar s q else none) with
    | some (n, a) =>
      let o := txnOpen n (.fetch h) s
      packetSend n { src := 0, tenant := (tenantOf s q.table).getD 0, type := 0x01, fwd := true, addr := a, tag := o.1, len := 128 } o.2
    | none => s

-- doorbells (R437, R453, R457) ------------------------------------------------------------------------------------------

/-- The BAR0 offset of a doorbell slot. -/
def slotOffset (page slot : Nat) : Nat := 0x1000000 + page * 0x1000 + 16 * slot

/-- A doorbell write to a queue's slot (R437). -/
def queueDoorbell (h : Handle) (v : Nat) (s : State) : State :=
  match queueOf s h with
  | none => s
  | some q =>
    let pos := bitsOf v 16 0
    let bad := decide (bitsOf v 31 31 ≠ b2n (phaseAt ((pos + posMod - 1) % posMod) q.size)) || decide (posDist pos q.retire > q.size)
    if q.state = .destroying then s
    else if bad then
      let s := queueMod h (fun q => { q with err := Status.code .range, state := if q.state = .active then .stopped else q.state }) s
      queueError h .range pos s
    else
      fetchKick h (queueMod h (fun q => { q with
        tail := pos, state := if q.state = .stopped then .active else q.state }) s)

/-- A consumer position written to an event's slot (R453). -/
def eventDoorbell (h : Handle) (v : Nat) (s : State) : State :=
  match eventOf s h with
  | none => s
  | some e =>
    let pos := bitsOf v 16 0
    if posDist pos e.cons ≤ posDist e.prod e.cons then eventFlush h (eventMod h (fun e => { e with cons := pos, errRange := false }) s)
    else eventMod h (fun e => { e with errRange := true }) s

/-- A write of HIF_DB_POS at a slot: of the queue or event bound to it, or a hole (R457, R18). -/
def slotWrite (page slot v : Nat) (s : State) : State :=
  let s' := if bitsOf v 30 17 ≠ 0 then swErrSet 0 (slotOffset page slot) s else s
  match mapGet s.obj.pages page, mapGet s.obj.dbSlots (page * 128 + slot) with
  | some _, some h =>
    if hKind h = 2 then queueDoorbell h v s' else if hKind h = 4 then eventDoorbell h v s' else swErrSet 1 (slotOffset page slot) s
  | _, _ => swErrSet 1 (slotOffset page slot) s

-- counter windows (R355 to R358) ----------------------------------------------------------------------------------------

/-- The BAR0 offset of a counter window. -/
def windowOffset (page window : Nat) : Nat := 0x1000000 + page * 0x1000 + 0x800 + 16 * window

/-- The counter bound to a window of a page that belongs to a table. -/
def windowCounter (s : State) (page window : Nat) : Option (Nat × Nat) :=
  match mapGet s.obj.pages page, mapGet s.tck.windows (page * 128 + window) with
  | some t, some i => some (t, i)
  | _, _ => none

/-- A write of a window: a failed one is counted (R357, R358), and one of an unbound window is a hole. -/
def windowWrite (op page window off v : Nat) (s : State) : State :=
  match windowCounter s page window with
  | none => swErrSet 1 (windowOffset page window + off) s
  | some (t, i) =>
    let r := counterOp (tenantOf s t) 4 op false (liveHandle s 6 i) v s
    if r.1.1 = .ok then r.2 else { r.2 with tck := { r.2.tck with errCnt := sat32 (r.2.tck.errCnt + 1) } }

-- mailboxes (R486, R513, R542) ------------------------------------------------------------------------------------------

/-- A field of a request area. -/
def areaField (area : List Byte) (off size : Nat) : Nat := leNat ((area.drop off).take size)

/-- The RANGE response to a GO that starts no request (R542): LAST_SEQ and the stored response stay. -/
def goRange (m : Nat) (area : List Byte) (s : State) : State :=
  let r : Response := ⟨areaField area 0 2, .range, 0, areaField area 4 4, 0, now s, []⟩
  irqRaise (96 + m) (boxMod m (fun b => { b with done := true, resp := some r }) s)

/-- A GO (R513): the request is copied out of the request area, and the mailbox is BUSY. -/
def goStart (m len : Nat) (area : List Byte) (s : State) : State :=
  irqRaise (160 + m) (boxMod m (fun b => { b with
    busy := true, done := false, executing := false, early := s.sys.phase ≠ .released, req := area.take len }) s)

/-- The request area of a mailbox. -/
def goArea (s : State) (m : Nat) : List Byte := (List.range 1792).map (fun i => mapGetD s.mbx.area (m * 4096 + 0x100 + i) 0)

/-- A write of MBX_DOOR (R513, R542). A GO while BUSY is discarded. The next GO also clears the latch of the mailbox's answer source
(R575). -/
def goWrite (m v : Nat) (area : List Byte) (s : State) : State :=
  let s := if bitsOf v 30 11 ≠ 0 then swErrSet 0 (0x110000 + 0x1000 * m) s else s
  if bitsOf v 31 31 = 0 ∨ (boxOf s m).busy then s
  else
    let len := bitsOf v 10 0
    let s := irqSrcMod (96 + m) (fun i => { i with latch := false }) s
    if len < 32 ∨ len > 1792 ∨ len < 32 + areaField area 8 4 then goRange m area s else goStart m len area s

-- behind earlier writes (R358, R457, R486) ------------------------------------------------------------------------------------

/-- The host's posted writes on a port that have not committed: the tiles of its writes through BAR2. -/
def postedGuards (s : State) (p : Nat) : List Guard :=
  (s.trn.tiles.filter (fun t => (match t.src with | .hostWindow q => q.val = p | _ => false)
    && bitsOf t.d.tag 46 46 = 0 && bitsOf t.d.tag 47 47 = 1)).map (fun t => .tile t.src t.d.tag)

/-- Applies a write that may have waited. -/
def pageWrite (w : PageWrite) (s : State) : State := match w with
  | .slot page slot v => slotWrite page slot v s
  | .window op page window off v => windowWrite op page window off v s
  | .go m v area => goWrite m v area s

/-- Takes such a write: behind the host's posted writes received before it on its port. -/
def pageTake (p : Nat) (w : PageWrite) (s : State) : State :=
  let g := postedGuards s p
  if g.isEmpty then pageWrite w s else { s with hif := { s.hif with pageHeld := s.hif.pageHeld ++ [{ port := p, w := w, guards := g }] } }

/-- Applies the writes that nothing holds any more, in order. -/
def pagesSettle (s : State) : State :=
  let free (x : HeldPage) : Bool := !(x.guards.any (guardStands s))
  (s.hif.pageHeld.filter free).foldl (fun s x => pageWrite x.w s)
    { s with hif := { s.hif with pageHeld := s.hif.pageHeld.filter (fun x => !free x) } }

end Sys2Proof.Machine
end

