-- ==== Sys2Proof/Machine/Translation.lean ====
section
/-! DEFINITION. Address translation (R98 to R141): page-table entries, the TLB, the walk cache, walks and walkers, the checks of
a piece, tiles, and shootdowns. -/

namespace Sys2Proof.Machine

/-- Changes TRN. -/
def trnMod (f : TrnSt → TrnSt) (s : State) : State := { s with trn := f s.trn }

-- page-table entries (R103, R104) ---------------------------------------------------------------------------------------

/-- One bit of an entry. -/
def pteBit (e i : Nat) : Bool := bitsOf e i i = 1

/-- Bytes mapped by a leaf at a level (R98). -/
def pageSize (level : Nat) : Nat := 2 ^ (3 + 9 * level)

/-- The index of an address in a table of a level (R98). -/
def vaIndex (va level : Nat) : Nat := bitsOf va (11 + 9 * level) (3 + 9 * level)

/-- The address that the FRAME field names. -/
def pteFrame (e : Nat) : Nat := bitsOf e 59 12 * 4096

/-- Whether an entry with V = 1 is well formed at a level (R104). -/
def pteOk (e level : Nat) : Bool :=
  let leaf := pteBit e 6
  !pteBit e 61 && !pteBit e 11 && (bitsOf e 2 1 = 0) && (level < 4 || !leaf) && (level ≠ 1 || leaf)
    && (leaf || (bitsOf e 63 62 = 0 && !pteBit e 60 && bitsOf e 10 7 = 0 && bitsOf e 5 3 = 0))
    && (!leaf || ((level ≠ 2 || bitsOf e 20 12 = 0) && (level ≠ 3 || bitsOf e 29 12 = 0)
        && (!pteBit e 4 || pteBit e 3) && (!pteBit e 5 || pteBit e 4) && (!pteBit e 9 || !pteBit e 47)))

/-- Whether an address lies in device memory of this hub (R100). -/
def localDevice (s : State) (pa : Nat) : Bool :=
  paNode pa = s.sys.nodeId && !paHost pa && (bitsOf pa 46 40 = 0) && (bitsOf pa 39 34 < 48)

/-- Whether an address lies in a hole of R100. -/
def paHole (pa : Nat) : Bool := !paHost pa && (bitsOf pa 46 40 ≠ 0 || bitsOf pa 39 34 ≥ 48)

/-- The table to which the slab of an address is bound on this hub, as a walk asks it. R106 says "bound"; the model takes the states in which
R119 serves a piece at once: BOUND, MIGRATING and ALIASED (DESIGN CHOICE, notes/assumptions/137). -/
def slabOwner (s : State) (pa : Nat) : Option Nat :=
  let l := locate s pa
  let b := bindAt s (slabIndex l.stack l.slab)
  match b.state with
  | .bound | .migrating | .aliased => some b.table
  | _ => none

/-- An entry of 8 bytes read through the memory path under the table's key (R107). -/
def pteRead (s : State) (t addr : Nat) : Status × Nat :=
  let r := devRead s (tableKey s t) addr 8
  (r.1, leNat r.2)

-- TLB and walk cache (R113 to R115) -------------------------------------------------------------------------------------

/-- Bytes that a TLB entry covers. -/
def TlbEntry.span (e : TlbEntry) : Nat := pageSize e.level * (if e.group then 16 else 1)

/-- Whether a TLB entry covers an address of a table. -/
def tlbCovers (t va : Nat) (e : TlbEntry) : Bool := e.table = t && e.base ≤ va && va < e.base + e.span

/-- The TLB entry that an address hits. -/
def tlbHit (s : State) (t va : Nat) : Option TlbEntry := s.trn.tlb.find? (tlbCovers t va)

/-- Makes an entry the most recently used. -/
def tlbTouch (e : TlbEntry) (s : State) : State :=
  trnMod (fun r => { r with tlb := if e ∈ r.tlb then e :: r.tlb.filter (fun x => x ≠ e) else r.tlb }) s

/-- Keeps the 8 most recently used entries of each set, in order of use. -/
def keepWays {α : Type} (set : α → Nat) (ways : Nat) : List α → List α → List α
  | _, [] => []
  | seen, x :: r =>
    if seen.length < ways || (seen.filter (fun y => set y = set x)).length < ways then x :: keepWays set ways (x :: seen) r
    else keepWays set ways seen r

/-- Fills the TLB: any entry of the table that overlaps the new one is removed (R114). -/
def tlbFill (e : TlbEntry) (s : State) : State :=
  let apart (x : TlbEntry) : Bool := x.table ≠ e.table || x.base + x.span ≤ e.base || e.base + e.span ≤ x.base
  trnMod (fun r => { r with
    tlb := keepWays (fun x => Config.tlbSet x.table x.base % 4096) 8 [] (e :: r.tlb.filter apart) }) s

/-- Fills the walk cache with the pointer read at a level. -/
def walkCacheFill (t level va frame : Nat) (s : State) : State :=
  let tag := va / pageSize level
  let e : WalkCacheEntry := { table := t, level := level, tag := tag, frame := frame }
  let rest := s.trn.walkCache.filter (fun x => !(x.table = t && x.level = level && x.tag = tag))
  trnMod (fun r => { r with
    walkCache := keepWays (fun x => Config.walkCacheSet x.table (x.tag * 8 + x.level) % 1024) 8 [] (e :: rest) }) s

/-- The deepest cached pointer for an address. -/
def walkCacheHit (s : State) (t va : Nat) : Option WalkCacheEntry :=
  (([2, 3, 4, 5] : List Nat).filterMap (fun l =>
    s.trn.walkCache.find? (fun x => x.table = t && x.level = l && x.tag = va / pageSize l))).head?

-- walks -----------------------------------------------------------------------------------------------------------------

/-- What one read of a walk finds; a leaf comes with the sixteen leaves of its group (R112). -/
inductive WalkOut where
  | more (w : Walk)
  | fault (c : Cause) (entry level pa : Nat)
  | poisoned
  | leaf (e level addr : Nat) (group : List Nat)

/-- The start of a walk: in the root table, or in the table of the deepest cached pointer; none without a root. -/
def walkBegin (s : State) (t page : Nat) : Option Walk :=
  match (tableAt s t).bind (fun tb => tb.root) with
  | none => none
  | some root =>
    match walkCacheHit s t (page * 4096) with
    | some c => some { table := t, page := page, level := c.level - 1, tablePa := c.frame * 4096, discard := false }
    | none => some { table := t, page := page, level := 5, tablePa := root.1 * 4096, discard := false }

/-- The pointer from which a walk starts becomes the most recently used (R115). -/
def walkCacheUse (t page : Nat) (s : State) : State :=
  match walkCacheHit s t (page * 4096) with
  | some c => trnMod (fun r => { r with walkCache := c :: r.walkCache.filter (fun x => x ≠ c) }) s
  | none => s

/-- The address of the entry that a walk reads next. -/
def walkAddr (w : Walk) : Nat := w.tablePa + 8 * vaIndex (w.page * 4096) w.level

/-- Whether the table of a walk's next read lies where R106 wants it. -/
def walkAllowed (s : State) (w : Walk) : Bool := localDevice s w.tablePa && slabOwner s w.tablePa = some w.table

/-- The sixteen entries around the one that a walk reads next, through the memory path under the table's key (R107): one codeblock holds
them. -/
def walkBlock (s : State) (w : Walk) : Status × List Byte := devRead s (tableKey s w.table) (walkAddr w / 128 * 128) 128

/-- One read of a walk, given the sixteen entries read. The pointer that named a bad table is the one whose FRAME the walk follows
(R155). -/
def walkStep (s : State) (w : Walk) (r : Status × List Byte) : WalkOut :=
  if !walkAllowed s w then
    (if w.level = 5 then .fault .walkTarget 0 0 0 else .fault .walkTarget (w.tablePa + 1) (w.level + 1) 0)
  else
    let addr := walkAddr w
    let e := fieldAt r.2 (addr % 128) 8
    if r.1 ≠ .ok then .poisoned
    else if !pteBit e 0 then .fault .notValid e w.level 0
    else if !pteOk e w.level then .fault .pteFormat e w.level 0
    else if pteBit e 6 then .leaf e w.level addr ((List.range 16).map (fun i => fieldAt r.2 (8 * i) 8))
    else .more { w with level := w.level - 1, tablePa := pteFrame e }

/-- R111 over the leaves read. -/
def groupHolds (level : Nat) (es : List Nat) : Bool :=
  let a := es.headD 0
  let attrs (e : Nat) : Nat × Nat := (bitsOf e 10 9, bitsOf e 5 3)
  (pteFrame a % (16 * pageSize level) = 0)
    && (List.range 16).all (fun i =>
      let e := es.getD i 0
      pteBit e 0 && pteBit e 60 && pteBit e 6 && pteOk e level && (attrs e = attrs a) && (bitsOf e 63 62 = bitsOf a 63 62)
        && (pteFrame e = pteFrame a + i * pageSize level))

/-- The end of a walk at a leaf: the target check, the TLB fill of the page or of its group (R112), and the AC update (R109). -/
def walkLeaf (t page e level addr : Nat) (es : List Nat) (s : State) : Except (Cause × Nat × Nat × Nat) State :=
  let va := page * 4096
  let pa := pteFrame e + va % pageSize level
  if paHole pa ∨ (paHost pa ∧ paNode pa ≠ s.sys.nodeId) then .error (.paRange, e, level, pa)
  else
    let c := pteBit e 60
    let grp := c && groupHolds level es
    let s := if c && !grp then trnMod (fun r => { r with cntContig := sat64 (r.cntContig + 1) }) s else s
    let ad := match (tableAt s t).bind (fun tb => tb.root) with
      | some r => r.2
      | none => false
    let s := if ad && !pteBit e 7 then devWrite (tableKey s t) addr (leBytes 8 (e + 128)) s else s
    let e' := if ad && !pteBit e 7 then e + 128 else e
    let n := vaIndex va level % 16
    let x : TlbEntry := if grp then
        { table := t, base := va / (16 * pageSize level) * (16 * pageSize level), level := level, group := true,
          leaf := es.headD 0, pteAddr := addr / 128 * 128,
          ac := (List.range 16).map (fun i => pteBit (es.getD i 0) 7 || (i = n && ad)),
          dirty := es.map (fun y => pteBit y 8), read := es }
      else
        { table := t, base := va / pageSize level * pageSize level, level := level, group := false, leaf := e', pteAddr := addr,
          ac := [pteBit e' 7], dirty := [pteBit e' 8], read := [e] }
    .ok (tlbFill x s)

/-- The state that a whole walk of a page would leave if it succeeds now; the state itself if it does not. Nothing runs it: it tells what a
translation would be (R433). -/
def walkPeek : Nat → Walk → State → State
  | 0, _, s => s
  | n + 1, w, s =>
    match walkStep s w (walkBlock s w) with
    | .more w' => walkPeek n w' s
    | .leaf e l a es => match walkLeaf w.table w.page e l a es s with
      | .ok s' => s'
      | .error _ => s
    | _ => s

/-- The state in which an address of a table hits the TLB, where a walk of it would succeed. -/
def tlbPeek (t va : Nat) (s : State) : State :=
  if (tlbHit s t va).isSome then s
  else match walkBegin s t (va / 4096) with
    | some w => walkPeek 5 w s
    | none => s

/-- Counts a TLB miss. -/
def missCount (s : State) : State := trnMod (fun r => { r with cntMiss := sat64 (r.cntMiss + 1) }) s

/-- Whether the miss of a page waits or is walked (R116). -/
def missOpen (s : State) (t page : Nat) : Bool :=
  s.trn.missQ.any (fun m => m = (t, page)) || s.trn.walks.any (fun w => w.2.table = t && w.2.page = page)

/-- Whether the miss queue is full, so that TRN takes no new request (R116). -/
def missFull (s : State) : Bool := s.trn.missQ.length ≥ 1024

/-- Queues the miss of a page, which shares the entry or the walk that the page has (R116). -/
def missPut (t page : Nat) (s : State) : State :=
  if missOpen s t page then s else trnMod (fun r => { r with missQ := r.missQ ++ [(t, page)] }) (missCount s)

-- the checks of a piece (R119) ------------------------------------------------------------------------------------------

/-- Which page of its span an address lies in. -/
def TlbEntry.member (e : TlbEntry) (va : Nat) : Nat := (va - e.base) / pageSize e.level

/-- The leaf of an address as the walker read it (R155). -/
def TlbEntry.readAt (e : TlbEntry) (va : Nat) : Nat := e.read.getD (e.member va) e.leaf

/-- The leaf of an address with the AC and D bits kept for its page. -/
def TlbEntry.leafAt (e : TlbEntry) (va : Nat) : Nat :=
  let i := e.member va
  let bare := e.leaf - b2n (pteBit e.leaf 7) * 128 - b2n (pteBit e.leaf 8) * 256
  bare + i * pageSize e.level + b2n (e.ac.getD i false) * 128 + b2n (e.dirty.getD i false) * 256

/-- The physical address of an address. -/
def TlbEntry.paAt (e : TlbEntry) (va : Nat) : Nat := pteFrame e.leaf + (va - e.base)

/-- Counts and captures a DENIED answer of TRN (R123). -/
def trnDenied (table source : Nat) (noTable : Bool) (pa : Nat) (s : State) : State :=
  let r := s.trn
  let s' : State := { s with trn := { r with
    denCnt := sat32 (r.denCnt + 1)
    denValid := true
    denTable := if r.denValid then r.denTable else table
    denSource := if r.denValid then r.denSource else source
    denNoTable := if r.denValid then r.denNoTable else noTable
    denPa := if r.denValid then r.denPa else pa % 2 ^ 48 } }
  if r.denValid then s' else irqRaise 8 s'

/-- The target of an address that passed the walk (R102). -/
def targetOf (s : State) (pa : Nat) (h : Bool) : Target :=
  if paHost pa then .host (pa % 2 ^ 47)
  else if paNode pa ≠ s.sys.nodeId then .remote (paNode pa) h
  else if h then .home else .device

/-- What the check of a piece says. -/
inductive PieceCheck where
  | go (target : Target) (pa : Nat)
  | fault (c : Cause) (entry level pa : Nat)
  | denied (pa : Nat)
  | waits
  deriving DecidableEq, Repr

/-- The addresses in a piece of local device memory at which a slab's granule begins: its first byte, and every multiple of 64 KiB (R183). -/
def granulesOf (pa len : Nat) : List Nat :=
  pa :: ((List.range ((pa % 65536 + len - 1) / 65536)).map (fun i => (pa / 65536 + i + 1) * 65536))

/-- Step 5 of R119 over the granules of a piece, lowest first: the slab of each is held by the table now, or the first that is not
decides. -/
def checkSlabs (s : State) (t leaf level : Nat) (go : PieceCheck) : List Nat → PieceCheck
  | [] => go
  | a :: r =>
    let l := locate s a
    let b := bindAt s (slabIndex l.stack l.slab)
    match b.state with
    | .bound | .migrating | .aliased => if b.table = t then checkSlabs s t leaf level go r else .denied a
    | .armed | .suspended => if b.table = t then .waits else .denied a
    | _ => .fault .slab leaf level a

/-- Step 5 of R119 for a piece of a table against its translation; it holds of every target that is not local device memory. -/
def checkHeld (s : State) (t : Nat) (e : TlbEntry) (va len : Nat) : PieceCheck :=
  let leaf := e.leafAt va
  let pa := e.paAt va
  let go : PieceCheck := .go (targetOf s pa (pteBit leaf 9)) pa
  if localDevice s pa then checkSlabs s t (e.readAt va) e.level go (granulesOf pa len) else go

/-- Steps 2 to 5 of R119 for a piece (1 read, 2 write, 3 atomic) of a table, against its TLB entry. -/
def checkPiece (s : State) (t op : Nat) (rerun : Bool) (e : TlbEntry) (va len : Nat) : PieceCheck :=
  let leaf := e.leafAt va
  let seen := e.readAt va
  let pa := e.paAt va
  let permit := if op = 1 then pteBit leaf 3 else if op = 2 then pteBit leaf 4 else pteBit leaf 5
  let place := bitsOf leaf 63 62
  let near := localDevice s pa
  let migrate := (paHost pa && (place = 1 || (place = 2 && op ≠ 1))) || (place = 3 && !near)
  if !permit then .fault .permission seen e.level pa
  else if op ≠ 1 ∧ rerun ∧ pteBit leaf 10 then .fault .published seen e.level pa
  else if migrate then .fault .migrate seen e.level pa
  else checkHeld s t e va len

/-- The D update of R109 before a write or atomic piece: none when the compare fails, and the translation is discarded. -/
def dirtyUpdate (t op va : Nat) (e : TlbEntry) (s : State) : Option State :=
  let ad := match (tableAt s t).bind (fun tb => tb.root) with
    | some r => r.2
    | none => false
  let i := e.member va
  if op = 1 ∨ !ad ∨ e.dirty.getD i false then some s
  else
    let addr := e.pteAddr + 8 * i
    if (pteRead s t addr).2 = e.leafAt va then
      let s := devWrite (tableKey s t) addr (leBytes 8 (e.leafAt va + 256)) s
      let up (x : TlbEntry) : TlbEntry := if x = e then { x with dirty := x.dirty.set i true } else x
      some (trnMod (fun r => { r with tlb := r.tlb.map up, unitWalks := r.unitWalks.map (fun w => { w with leaf := w.leaf.map up }) }) s)
    else none

/-- Removes a translation from the TLB and from the units that hold it. -/
def tlbDrop (e : TlbEntry) (s : State) : State :=
  trnMod (fun r => { r with tlb := r.tlb.filter (fun x => x ≠ e), unitWalks := r.unitWalks.filter (fun w => w.leaf ≠ some e) }) s

-- tiles (R124 to R132) --------------------------------------------------------------------------------------------------

/-- Whether a tile is refused RANGE before any translation (R126). -/
def tileBad (d : TileDesc) : Bool :=
  d.va ≥ 2 ^ 57 || d.rowBytes = 0 || d.rowBytes > 65536 || d.rows = 0 || d.rows > 4096
    || (d.rows > 1 && d.pitch < d.rowBytes) || d.rows * d.rowBytes > 2 ^ 24
    || d.va + (d.rows - 1) * (if d.rows > 1 then d.pitch else 0) + d.rowBytes - 1 ≥ 2 ^ 57
    || (d.op = 3 && (d.rows ≠ 1 || !(([4, 8, 16, 32, 64] : List Nat).contains d.rowBytes)
        || d.va / 64 ≠ (d.va + d.rowBytes - 1) / 64 || atomBad d.atom d.rowBytes))
    || d.op = 0 || d.op > 3 || d.flags > 3

/-- The tile of a source and tag. -/
def tileOf (s : State) (src : Source) (tag : Nat) : Option TileRec :=
  s.trn.tiles.find? (fun t => t.src = src && t.d.tag = tag)

/-- Puts a tile in the place of the one with its source and tag. -/
def tilePut (t : TileRec) (s : State) : State :=
  trnMod (fun r => { r with tiles := r.tiles.map (fun x => if x.src = t.src && x.d.tag = t.d.tag then t else x) }) s

/-- Removes a tile. -/
def tileDel (src : Source) (tag : Nat) (s : State) : State :=
  trnMod (fun r => { r with tiles := r.tiles.filter (fun x => !(x.src = src && x.d.tag = tag)) }) s

/-- The command of a launch that a core works on. -/
def coreCmd (s : State) (cl co : Nat) : Option CmdRef :=
  (s.obj.launched.find? (fun l => l.cluster = cl && l.mask / 2 ^ co % 2 = 1)).bind (fun l => l.ref)

/-- The command for which a tile's source works. -/
def sourceCmd (s : State) : Source → Option CmdRef
  | .cf cl co => coreCmd s cl.val co.val
  | .engine e => (engineOf s e.val).running.bind (fun t => t.ref)
  | .copyEngine k =>
    (((mapGet s.hif.ce k.val).bind (fun c => c.busy)).bind (fun h => mapGet s.obj.channels (hIdx h))).bind (fun c => c.jobs.head?.map (fun j => j.ref))
  | .queue q => some { queue := q % 2 ^ 32, pos := q / 2 ^ 32 }
  | _ => none

/-- The context of a command. -/
def cmdCtx (s : State) (r : Option CmdRef) : Handle :=
  match r.bind (fun r => queueOf s r.queue) with
  | some q => q.ctx
  | none => 0

/-- Whether the pieces of a tile are rerunnable: by its flag, or as part of a command of an open step (R160). -/
def tileRerun (s : State) (t : TileRec) : Bool :=
  bitsOf t.d.flags 0 0 = 1 || (match sourceCmd s t.src with | some r => inStep s r | none => false)
    || (match t.src with
      | .cf cl co => s.obj.launched.any (fun l => l.cluster = cl.val && l.mask / 2 ^ co.val % 2 = 1 && l.rerun)
      | _ => false)

/-- ACCESS of a fault record (R155). -/
def accessBits (op : Nat) (rerun : Bool) : Nat := 2 ^ (op - 1) + 8 * b2n rerun

/-- The fault that a tile hands to the CAM (R131). -/
def tileFault (s : State) (t : TileRec) (va : Nat) (c : Cause) (entry level pa : Nat) : FaultReq :=
  let cmd := sourceCmd s t.src
  { source := t.src, table := t.table, ctx := cmdCtx s cmd, cmd := cmd, tag := t.d.tag, va := va, pa := pa, entry := entry,
    level := level, cause := c, access := accessBits t.d.op (tileRerun s t) }

/-- The runs of set bits of a mask from an offset, as offset and length; a mask's missing bits count as set. -/
def maskRuns (k : List Bool) : Nat → Nat → List (Nat × Nat)
  | _, 0 => []
  | off, n + 1 =>
    let rest := maskRuns k (off + 1) n
    if k.getD off true then
      match rest with
      | (a, m) :: r => if a = off + 1 then (off, m + 1) :: r else (off, 1) :: rest
      | [] => [(off, 1)]
    else rest

/-- The runs of a piece that its access touches: all of it, or what the mask of a CXL.mem partial write lets through (R472). -/
def pieceRuns (t : TileRec) (p : Piece) : List (Nat × Nat) :=
  match t.hdm with
  | some (.memWrPtl _ k) => maskRuns (k.drop p.pos) 0 p.len
  | _ => [(0, p.len)]

/-- The part of a tile's data that a piece carries. -/
def pieceData (t : TileRec) (p : Piece) : List Byte := (t.data.drop p.pos).take p.len

/-- Writes bytes over a list at an offset. -/
def splice (base : List Byte) (off : Nat) (bs : List Byte) : List Byte :=
  base.take off ++ bs ++ base.drop (off + bs.length)

/-- Sends one part of a remote piece (R102, R227). -/
def remotePart (t : TileRec) (p : Piece) (off len node addr : Nat) (fwd rerun : Bool) (s : State) : State :=
  let o := txnOpen node (.piece t.src t.d.tag p.idx off) s
  let bs := if t.d.op = 1 then [] else ((pieceData t p).drop off).take len
  let q : Packet := { src := 0, tenant := (tenantOf s t.table).getD 0,
                      type := if t.d.op = 1 then 1 else if t.d.op = 2 then 0x10 else 2,
                      fwd := fwd, rerun := rerun, relaxed := bitsOf t.d.flags 1 1 = 1,
                      atom := if t.d.op = 3 then t.d.atom else 0, addr := addr, tag := o.1, len := len, payload := bs }
  packetSend node q o.2

/-- The lines that a range touches, with the offset in the range and the length of each part. -/
def linesOf (pa len : Nat) : List (Nat × Nat × Nat) :=
  (List.range ((pa % 256 + len + 255) / 256)).map (fun i =>
    let lo := max pa ((pa / 256 + i) * 256)
    (pa / 256 + i, lo - pa, min (pa + len) ((pa / 256 + i + 1) * 256) - lo))

/-- The coherent request of a part of a piece: tiles hold no lines (R378, R381). -/
def lineRequest (t : TileRec) (p : Piece) (x : Nat × Nat × Nat) : Nat × CohMsg :=
  let bs := ((pieceData t p).drop x.2.1).take x.2.2
  let off := (p.pa + x.2.1) % 256
  let m : CohMsg := { agent := 128, txid := t.d.tag % 65536, line := x.1, table := t.table }
  let mask := List.replicate off false ++ List.replicate x.2.2 true
  if t.d.op = 1 then (0x33, m)
  else if t.d.op = 2 then (0x36, { m with data := List.replicate off 0 ++ bs, mask := mask })
  else (0x37, { m with atom := t.d.atom, data := bs, mask := mask })

/-- Issues a checked piece to its target (R102). Local device memory is read or written at once; a read still takes its
completion, but for the host window's own (R124). -/
def issuePiece (t : TileRec) (p : Piece) (s : State) : Piece × State :=
  let rr := tileRerun s t
  let key := tableKey s t.table
  match p.target with
  | .device =>
    if t.d.op = 3 then
      let l := placeOf s p.pa
      match remoteOf s l with
      | some (n, a) => ({ p with open_ := 1 }, remotePart t p 0 p.len n a true rr s)
      | none =>
        let r := ncAtomic key p.pa t.d.atom p.len (pieceData t p) s
        ({ p with st := r.1.1, data := r.1.2 }, r.2)
    else
      let part (x : Piece × State) (y : Nat × Nat) : Piece × State :=
        let off := y.1 - p.pa
        match remoteOf x.2 (placeOf x.2 y.1) with
        | some (n, a) => ({ x.1 with open_ := x.1.open_ + 1 }, remotePart t p off y.2 n a true rr x.2)
        | none =>
          if t.d.op = 1 then
            let r := devRead x.2 key y.1 y.2
            ({ x.1 with st := worse x.1.st r.1, data := splice x.1.data off r.2 }, if r.1 = .ok then readFill key y.1 y.2 x.2 else x.2)
          else
            let st := if devWorks x.2 y.1 y.2 then Status.ok else .poisoned
            ({ x.1 with st := worse x.1.st st }, ncWrite key y.1 (((pieceData t p).drop off).take y.2) x.2)
      let window := match t.src with
        | .hostWindow _ => true
        | _ => false
      (((pieceRuns t p).map (fun x => partsOf (p.pa + x.1) x.2)).flatten).foldl part
        ({ p with open_ := b2n (t.d.op = 1 && !window), data := if t.d.op = 1 then List.replicate p.len 0 else [] }, s)
  | .home =>
    let s := (linesOf p.pa p.len).foldl (fun s x => let r := lineRequest t p x; cohRequest r.1 r.2 s) s
    ({ p with open_ := 1 }, s)
  | .remote n coh =>
    if coh then
      let s := (linesOf p.pa p.len).foldl (fun s x =>
        let r := lineRequest t p x
        packetSend n (cohPacket ((tenantOf s t.table).getD 0) r.1 r.2) s) s
      ({ p with open_ := 1 }, s)
    else
      let parts := ((pieceRuns t p).map (fun x =>
        (List.range ((x.2 + 1023) / 1024)).map (fun i => (x.1 + 1024 * i, min 1024 (x.2 - 1024 * i))))).flatten
      let s := parts.foldl (fun s x => remotePart t p x.1 x.2 n (p.pa + x.1) false rr s) s
      ({ p with open_ := parts.length, data := if t.d.op = 1 then List.replicate p.len 0 else [] }, s)
  | .host a =>
    match primaryOf s t.table with
    | none => ({ p with st := .poisoned }, s)
    | some port =>
      if t.d.op = 1 then ({ p with open_ := 1 }, hostReadSend port t.table a p.len (.piece t.src t.d.tag p.idx) s)
      else
        let relaxed := bitsOf t.d.flags 1 1 = 1 && (portOf s port).relaxedEnable
        let out (x : Nat × Nat) : Out :=
          .hostWrite port (pasidOf s t.table port) (a + x.1) (((pieceData t p).drop x.1).take x.2) relaxed false
        let s := (pieceRuns t p).foldl (fun s x =>
          unconfirm port (.piece t.src t.d.tag p.idx t.table (a + x.1) (((pieceData t p).drop x.1).take x.2))
            (hostSend port (a + x.1) (out x) s)) s
        ({ p with open_ := ((pieceRuns t p).filter (fun x => (portOf s port).atsWait.any (fun y => y.2 = out x))).length }, s)

/-- Issues every piece that a tile has checked (R128). -/
def issueAll (t : TileRec) (s : State) : TileRec × State :=
  t.checked.foldl (fun x p =>
    let r := issuePiece x.1 p x.2
    ({ x.1 with issued := x.1.issued ++ [r.1] }, r.2)) ({ t with checked := [] }, s)

/-- Whether every row of a tile has been checked. -/
def TileRec.allChecked (t : TileRec) : Bool := t.row ≥ t.d.rows

/-- The tag of the tile of a host window's access: the request's tag, its offset, whether it came through the HDM range, and
whether it writes. -/
def winTag (tag off : Nat) (hdm write : Bool) : Nat := tag % 2 ^ 16 + 2 ^ 16 * off + 2 ^ 46 * b2n hdm + 2 ^ 47 * b2n write

/-- Whether a request admitted to a sub-window of BAR2 has not completed. -/
def winBusy (s : State) (w : Nat) : Bool :=
  s.trn.tiles.any (fun t => (match t.src with | .hostWindow _ => true | _ => false) && bitsOf t.d.tag 46 46 = 0 && bitsOf t.d.tag 45 40 = w)

/-- Sets or clears a sub-window's entry. -/
def winPut (w t : Nat) (write clear : Bool) (va : Nat) (s : State) : State :=
  let e : WinEntry := if clear then {} else { valid := true, write := write, va := va, table := t }
  { s with hif := { s.hif with win := mapPutD ({} : WinEntry) s.hif.win w e } }

/-- Carries out the WINDOW_SETs whose sub-windows have drained (R467), and the writes of doorbell pages that waited (R358, R457). -/
def winSettle (s : State) : State :=
  pagesSettle ((s.hif.winWait.filter (fun x => !winBusy s x.window)).foldl (fun s x =>
    answer x.mbx.val { st := .ok } (winPut x.window x.table x.write x.clear x.va
      { s with hif := { s.hif with winWait := s.hif.winWait.filter (fun y => y.mbx ≠ x.mbx) } })) s)

/-- Completes an access of the host through BAR2 or the HDM range (R468, R470): anything but OK and POISONED is a Completer Abort, and
anything but OK is captured. A posted write has no completion. -/
def winReply (p tag off : Nat) (hdm write : Bool) (t : Nat) (st : Status) (bs : List Byte) (s : State) : State :=
  let s := if st = .ok then s else hifErr 6 p t off s
  if hdm then emit (.hdm p tag st bs) s
  else if write then s
  else
    let s := if st = .ok ∨ st = .poisoned then s else emit (.aer p "COMPLETER_ABORT") s
    emit (.bar2 p tag st bs) s

/-- Reports the end of a host window's tile. -/
def winReport (p tag : Nat) (st : Status) (bs : List Byte) (s : State) : State :=
  let off := bitsOf tag 45 16
  let hdm := bitsOf tag 46 46 = 1
  let t := if hdm then (mapGetD s.hif.hdm p {}).table else (mapGetD s.hif.win (off / 2 ^ 24) {}).table
  winSettle (winReply p (tag % 2 ^ 16) off hdm (bitsOf tag 47 47 = 1) t st bs s)

/-- Sends the CMPL of each ended LAUNCH whose cores' writes are in place (R341, R434, R444). -/
def donesSettle (s : State) : State :=
  let free (w : DoneWait) : Bool := !(w.guards.any (guardStands s))
  (s.obj.doneWaits.filter free).foldl (fun s w =>
    packetSend w.node { src := 0, tenant := (tenantOf s w.table).getD 0, type := 0x20, status := w.st, tag := w.tag } s)
    { s with obj := { s.obj with doneWaits := s.obj.doneWaits.filter (fun w => !free w) } }

/-- Reports a tile's end to its source. -/
def tileReport (src : Source) (tag : Nat) (st : Status) (bs : List Byte) (s : State) : State :=
  if s.nme.pieces.any (fun u => u.src = src && u.tag = tag) then
    { s with nme := { s.nme with pieces := s.nme.pieces.map (fun u =>
      if u.src = src ∧ u.tag = tag then { u with answer := some (st, bs) } else u) } }
  else match src with
    | .hostWindow p => winReport p.val tag st bs s
    | _ => donesSettle (emit (.tileDone src tag st bs) s)

/-- Ends a tile when nothing of it is outstanding: the lowest-numbered piece that failed gives its status (R128), and a fault goes
to the fault CAM (R131). A host access that faults is not parked: it completes FAULT (R143). -/
def tileEnd (t : TileRec) (s : State) : State :=
  if t.issued.any (fun p => p.open_ ≠ 0) then tilePut t s
  else
    let out (st : Status) (bs : List Byte) : State :=
      advance t.table (tileReport t.src t.d.tag st bs (tileDel t.src t.d.tag s))
    match t.issued.find? (fun p => p.st ≠ .ok) with
    | some p => out p.st []
    | none =>
      match t.fault with
      | some f =>
        let present (s : State) : State := trnMod (fun r => { r with faultQ := r.faultQ ++ [f] }) s
        (match t.src with
         | .hostWindow _ => present (out .fault [])
         | _ => present (tilePut { t with parked := true } s))
      | none =>
        match t.failed with
        | some st => out st []
        | none => if t.allChecked then out .ok ((t.issued.map (fun p => p.data)).flatten) else tilePut t s

/-- The agent of a host's request in the HDM range (R472). -/
def hdmAgent (s : State) (p off : Nat) : Nat :=
  if (mapGetD s.hif.hdm p {}).split && off ≥ 2 ^ 29 then 121 + 2 * p else 120 + 2 * p

/-- A line with some of its bytes replaced; of a poisoned line the rest is taken as zeros. -/
def lineSplice (s : State) (l off : Nat) (bs : List Byte) (mask : List Bool) : List Byte :=
  let r := lineRead s l
  let old := if r.1 = .ok then r.2 else List.replicate 256 0
  (List.range 256).map (fun i =>
    if off ≤ i ∧ i < off + bs.length ∧ mask.getD (i - off) true then bs.getD (i - off) 0 else old.getD i 0)

/-- A request of a host agent to the home of a line (R384, R402, R404). -/
def hdmAsk (p : Fin 2) (t off tag type : Nat) (pa : Nat) (bs : List Byte) (mask : List Bool) (s : State) : State :=
  let l := pa / 256
  let lo := pa % 256
  let full := (List.range 256).map (fun i => lo ≤ i && i < lo + bs.length && mask.getD (i - lo) true)
  let m : CohMsg := { agent := hdmAgent s p.val off, txid := tag, line := l, table := t,
                      data := if bs.isEmpty then [] else List.replicate lo 0 ++ bs, mask := if bs.isEmpty then [] else full }
  if cohHome s l then cohRequest type m s else packetSend (l / 2 ^ 40) (cohPacket ((tenantOf s t).getD 0) type m) s

/-- A CXL.mem message about a page with H = 1: the matching request, write-back or snoop answer (R404, R405, R472). -/
def hdmGo (p : Fin 2) (t off tag pa : Nat) (m : HdmMsg) (s : State) : State :=
  let l := pa / 256
  let a := hdmAgent s p.val off
  let ask (type : Nat) (bs : List Byte) (mask : List Bool) : State := hdmAsk p t off tag type pa bs mask s
  let owner := cohHome s l && dirHas s l && (dirAt s l).owner = a && ((dirAt s l).state = .e || (dirAt s l).state = .m)
  let back (bs : List Byte) (mask : List Bool) : State :=
    if owner then cohSettle (homeWb { agent := a, txid := tag, line := l, table := t, data := lineSplice s l (pa % 256) bs mask } s)
    else ask 0x36 bs mask
  match m with
  | .memRdAny => ask 0x31 [] []
  | .memRdShared => ask 0x30 [] []
  | .memRdInvalid => ask 0x33 [] []
  | .memInvAny => ask 0x32 [] []
  | .memInvInvalid => if cohHome s l then cohSettle (homeEvict { agent := a, line := l, table := t } s) else ask 0x35 [] []
  | .memWr b => back (b.take 64) []
  | .memWrPtl b k => back (b.take 64) k
  | .biRsp st =>
    let rsp : CohMsg := { agent := a, state := st, line := l, table := t }
    if cohHome s l then cohSettle (homeRsp a rsp s) else s

/-- A CXL.mem message that its page's translation lets through (R472): about a page with H = 1 it is a message of the coherence protocol;
about any other page an invalidation has nothing to do, an answer to a snoop means nothing, and a read or write is a plain access (none
here). -/
def hdmRun (t : TileRec) (tg : Target) (pa : Nat) (s : State) : Option State :=
  match t.src, t.hdm with
  | .hostWindow p, some m =>
    let off := bitsOf t.d.tag 45 16
    let tag := t.d.tag % 2 ^ 16
    let coherent := match tg with
      | .home => true
      | .remote _ c => c
      | _ => false
    let s := tileDel t.src t.d.tag s
    if coherent then some (hdmGo p t.table off tag pa m s)
    else (match m with
      | .biRsp _ => some s
      | .memInvAny | .memInvInvalid => some (winReply p.val tag off true true t.table .ok [] s)
      | _ => none)
  | _, _ => none

/-- The outcome of the check of a tile's next piece. -/
inductive TileMove where
  | on (t : TileRec) (s : State)
  | stop (t : TileRec) (s : State)
  | gone (s : State)

/-- Checks the next piece of a tile, and issues it when its kind lets it go (R127, R129, R130). A piece that waits after its walk keeps its
translation, and is checked again from step 5 of R119. -/
def tileStep (t : TileRec) (s : State) : TileMove :=
  let va := t.d.va + t.row * t.d.pitch + t.off
  match (match t.held with
    | some e => some e
    | none => tlbHit s t.table va) with
  | none =>
    let page := va / 4096
    if missOpen s t.table page then .stop { t with waitPage := some page } s
    else if missFull s then .stop { t with recheck := true } s
    else .stop { t with waitPage := some page } (missPut t.table page s)
  | some e =>
    let s := tlbTouch e s
    let left := pageSize e.level - (va - e.base) % pageSize e.level
    let len := min (t.d.rowBytes - t.off) left
    let rest : TileRec := { t with held := none, heldShoot := [] }
    let wait : TileMove := .stop { t with held := some e, recheck := true } s
    let fail (st : Status) (s : State) : TileMove := .stop { rest with checked := [], failed := some st } s
    match (if t.held.isSome then checkHeld s t.table e va len else checkPiece s t.table t.d.op (tileRerun s t) e va len) with
    | .fault c en lv pa => .stop { rest with checked := [], fault := some (tileFault s t va c en lv pa) } s
    | .denied pa => fail .denied (trnDenied t.table t.src.trnCode false pa s)
    | .waits => wait
    | .go tg pa =>
      let host := match tg with
        | .host _ => true
        | _ => false
      let fromCf := match t.src with
        | .cf .. => true
        | _ => false
      let noPort := host && (match primaryOf s t.table with
        | some p => fromCf && t.d.op = 1 && ((portOf s p).reads.filter (fun r => match r.what with
            | .piece .. => true
            | _ => false)).length ≥ 256
        | none => true)
      if host ∧ ((fromCf ∧ len > 256) ∨ t.d.op = 3) then fail .range s
      else if noPort then wait
      else if t.d.op ≠ 1 ∧ localDevice s pa ∧ rangeHeld s pa len then wait
      else match blocksTake (if tg = .device then rangeStacks s pa len else []) s with
      | (some _, s) => .stop { t with held := some e, recheck := true } s
      | (none, s) =>
      match hdmRun t tg pa s with
      | some s => .gone s
      | none =>
        match dirtyUpdate t.table t.d.op va e s with
        | none => .on rest (tlbDrop e s)
        | some s =>
          let idx := t.issued.length + t.checked.length
          let p : Piece := { idx := idx, pos := t.row * t.d.rowBytes + t.off, va := va, len := len, pa := pa, target := tg,
                             page := e.base / 4096, pages := e.span / 4096, shoot := t.heldShoot }
          let t' : TileRec := if t.off + len ≥ t.d.rowBytes then { rest with row := t.row + 1, off := 0 } else { rest with off := t.off + len }
          if t.d.op = 1 ∧ !host ∧ t.checked.isEmpty then
            let r := issuePiece t' p s
            .on { t' with issued := t'.issued ++ [r.1] } r.2
          else .on { t' with checked := t'.checked ++ [p] } s

/-- Runs the check of a tile as far as it goes, within a number of pieces. -/
def tileLoop : Nat → TileRec → State → State
  | 0, t, s => tileEnd t s
  | n + 1, t, s =>
    if t.allChecked then
      let r := issueAll t s
      tileEnd r.1 r.2
    else match (match t.src with
      | .hostWindow p => (let x := portTake p.val s; if x.1 then tileStep t x.2 else .stop { t with recheck := true } x.2)
      | _ => tileStep t s) with
      | .on t' s' => tileLoop n t' s'
      | .gone s' => s'
      | .stop t' s' => if t'.failed.isSome ∨ t'.fault.isSome then tileEnd t' s' else tilePut t' s'

/-- Runs a tile of this state on. -/
def tileRun (src : Source) (tag : Nat) (s : State) : State :=
  match tileOf s src tag with
  | none => s
  | some t => if t.parked then s else tileLoop (40 * t.d.rows + 8) { t with waitPage := none, recheck := false } s

/-- Runs again every tile that waits for a slab, a granule, a port or room. -/
def tilesRecheck (s : State) : State :=
  (s.trn.tiles.filter (fun t => t.recheck)).foldl (fun s t =>
    if missFull s && t.held.isNone then s else tileRun t.src t.d.tag s) s

/-- Presents a new tile: while the miss queue is full, TRN does not take it yet (R116). -/
def tileNew (t : TileRec) (s : State) : State :=
  let put (t : TileRec) : State := trnMod (fun r => { r with tiles := r.tiles ++ [t] }) s
  if missFull s then put { t with recheck := true } else tileRun t.src t.d.tag (put t)

/-- Runs a tile again from its first piece (R131, R143). -/
def tileRestart (src : Source) (tag : Nat) (s : State) : State :=
  match tileOf s src tag with
  | none => s
  | some t =>
    tileRun src tag (tilePut { t with issued := [], checked := [], row := 0, off := 0, waitPage := none, recheck := false,
                                      failed := none, fault := none, parked := false, held := none, heldShoot := [] } s)

/-- The table of a tile that a unit presents (R121): of a copy engine or an engine that of its command, of the host window that of its
entry, of a command's own reads that of its queue. A unit with no command presents none. -/
def sourceTable (s : State) (src : Source) (table tag : Nat) : Option Nat :=
  match src with
  | .cf cl _ => some (bindAt s cl.val).table
  | .copyEngine k => ((mapGet s.hif.ce k.val).bind (fun c => c.busy)).bind (fun h => (mapGet s.obj.channels (hIdx h)).map (fun c => c.table))
  | .engine e => (engineOf s e.val).running.map (fun t => t.table)
  | .hostWindow p =>
    if bitsOf tag 46 46 = 1 then (mapGet s.hif.hdm p.val).map (fun e => e.table)
    else (mapGet s.hif.win (bitsOf tag 45 40)).map (fun e => e.table)
  | .queue q => (queueOf s (q % 2 ^ 32)).map (fun q => q.table)
  | .firmware => some table
  | .link _ => none

/-- TILE (R121, R122, R126): the table comes from the source, never from the request; only a recovery copy of firmware names its own.
Two tiles of one source in flight are told apart by TAG (PRESUMED, notes/assumptions/138). -/
def execTile (src : Source) (table : Fin 256) (d : TileDesc) (data : List Byte) (s : State) : Result :=
  live s (fun s =>
    let bound := match src with
      | .cf cl _ => decide ((bindAt s cl.val).state = .bound)
      | _ => true
    let cluster := match src with
      | .cf cl _ => cl.val
      | _ => 0
    if !bound then emit (.tileDone src d.tag .denied []) (trnDenied 0 1 true cluster s)
    else match sourceTable s src table.val d.tag with
      | none => s
      | some t =>
        if tileBad d then emit (.tileDone src d.tag .range []) s
        else tileNew { src := src, table := t, d := d, data := data } s)

/-- One part of a piece is answered: its status joins the piece's, its bytes their place. With its last part the piece completes, and the
table advances (R373). -/
def pieceAnswer (src : Source) (tag idx off : Nat) (st : Status) (bs : List Byte) (s : State) : State :=
  match tileOf s src tag with
  | none => s
  | some t =>
    let up (p : Piece) : Piece :=
      if p.idx = idx ∧ p.open_ ≠ 0 then
        { p with open_ := p.open_ - 1, st := worse p.st st, data := if bs.isEmpty then p.data else if p.data.isEmpty then bs else splice p.data off bs }
      else p
    let s := if t.issued.any (fun p => p.idx = idx && p.open_ = 1) then advance t.table s else s
    tileEnd { t with issued := t.issued.map up } s

/-- PIECE_COMPLETE (R128): a piece of local device memory, whose bytes were taken at its issue, or of a coherent line, whose
answer comes with the command. -/
def execPieceComplete (src : Source) (tag piece : Nat) (st : Status) (data : List Byte) (s : State) : Result :=
  live s (fun s =>
    match (tileOf s src tag).bind (fun t => t.issued.find? (fun p => p.idx = piece)) with
    | none => s
    | some p =>
      match p.target with
      | .device =>
        if p.data.isEmpty ∨ (rangeStacks s p.pa p.len).any (fun k => !pllOn s (k / 4)) then s else pieceAnswer src tag piece 0 .ok [] s
      | .home => pieceAnswer src tag piece 0 st (if st = .ok then data else []) s
      | .remote _ true => pieceAnswer src tag piece 0 st (if st = .ok then data else []) s
      | _ => s)

-- walkers (R116 to R118) ------------------------------------------------------------------------------------------------

/-- Whether a walker group holds its draw, or has asked for it. -/
def groupHeld (s : State) (g : Nat) : Bool := anteHas s 6 g || anteWaits s 6 g

/-- The walkers of a group that are free. -/
def groupFree (s : State) (g : Nat) : List Nat :=
  ((List.range 8).map (fun i => 8 * g + i)).filter (fun w => (mapGet s.trn.walks w).isNone)

/-- The group that takes the next walk (R118). -/
def groupFor (s : State) : Option Nat :=
  match (List.range 12).find? (fun g => groupHeld s g && !(groupFree s g).isEmpty) with
  | some g => some g
  | none => (List.range 12).find? (fun g => !groupHeld s g)

/-- Whether a table may take another walker (R117). -/
def walkerRoom (s : State) (t : Nat) : Bool := (s.trn.walks.filter (fun w => w.2.table = t)).length < s.trn.tableMax

/-- The table whose miss is taken next: the first after the last one served, in a circle, that may take a walker (R117). -/
def missTable (s : State) : Option Nat :=
  ((List.range 256).map (fun i => (s.trn.lastTable + 1 + i) % 256)).find? (fun t =>
    s.trn.missQ.any (fun m => m.1 = t) && walkerRoom s t)

/-- What a walk's failure does to a tile that waits on it. -/
def tileMissFail (f : WalkFail) (s : State) (t : TileRec) : State :=
  let va := t.d.va + t.row * t.d.pitch + t.off
  let t' : TileRec := { t with waitPage := none, checked := [] }
  match f with
  | .fault c e l pa => tileEnd { t' with fault := some (tileFault s t va c e l pa) } s
  | .poisoned => tileEnd { t' with failed := some .poisoned } s

/-- Gives the units that wait for a page what its walk has come to (R116). -/
def unitsTold (t page : Nat) (fail : Option WalkFail) (s : State) : State :=
  let leaf := tlbHit s t (page * 4096)
  let up (w : UnitWalk) : UnitWalk :=
    if w.table = t ∧ w.page = page ∧ w.fail.isNone ∧ w.leaf.isNone then
      { w with fail := fail, leaf := if fail.isSome then none else leaf }
    else w
  trnMod (fun r => { r with unitWalks := r.unitWalks.map up }) s

/-- The end of a walk: the tiles and the units that wait on its page go on, or fail. -/
def walkDone (w : Nat) (x : Walk) (fail : Option WalkFail) (s : State) : State :=
  let s := trnMod (fun r => { r with walks := mapDel r.walks w, groupIdle := mapPut r.groupIdle (w / 8) (now s) }) s
  let s := unitsTold x.table x.page fail s
  let ts := s.trn.tiles.filter (fun t => t.table = x.table && t.waitPage = some x.page)
  match fail with
  | some f => ts.foldl (tileMissFail f) s
  | none => ts.foldl (fun s t => tileRun t.src t.d.tag s) s

/-- A walker starts a walk of a page, or ends it where the table has no root. -/
def walkOpen (w t page : Nat) (s : State) : State :=
  match walkBegin s t page with
  | some x => trnMod (fun r => { r with walks := mapPut r.walks w x }) (walkCacheUse t page s)
  | none => walkDone w { table := t, page := page, level := 5, tablePa := 0, discard := false } (some (.fault .noRoot 0 0 0)) s

/-- WALK_START (R117, R118): a free walker takes the next queued miss; an idle group asks for its draw. -/
def execWalkStart (s : State) : Result :=
  live s (fun s =>
    match missTable s, groupFor s with
    | some t, some g =>
      match s.trn.missQ.find? (fun m => m.1 = t), groupFree s g with
      | some m, w :: _ =>
        let s := anteRequest 6 g false (trnMod (fun r => { r with missQ := r.missQ.erase m, lastTable := t }) s)
        tilesRecheck (walkOpen w t m.2 s)
      | _, _ => s
    | _, _ => s)

/-- A read of a walk has come (R112, R115): the walk goes on, ends, or starts again when a shootdown has marked it (R135). -/
def walkGo (w : Nat) (x : Walk) (r : Status × List Byte) (s : State) : State :=
  if x.discard then walkOpen w x.table x.page s
  else
    match walkStep s x r with
    | .more y =>
      trnMod (fun r => { r with walks := mapPut r.walks w y })
        (walkCacheFill x.table x.level (x.page * 4096) (y.tablePa / 4096) s)
    | .fault c e l pa => walkDone w x (some (.fault c e l pa)) s
    | .poisoned => walkDone w x (some .poisoned) s
    | .leaf e l a es =>
      (match walkLeaf x.table x.page e l a es s with
       | .ok s' => walkDone w x none s'
       | .error y => walkDone w x (some (.fault y.1 y.2.1 y.2.2.1 y.2.2.2)) s)

/-- The hub and the forwarded address of a walk's next read, when its page-table page has moved to another hub (R90, R91, R107). -/
def walkFar (s : State) (w : Walk) : Option (Nat × Nat) :=
  if walkAllowed s w then remoteOf s (placeOf s (walkAddr w / 128 * 128)) else none

/-- The next read of a walk. A walk marked by a shootdown walks again (R135); a read of another hub's memory goes out as a forwarded RD, and
its answer carries the walk on (R91, R227); a read of this hub's memory waits for its channel block (R38), and fills its cache (R195). -/
def walkRead (w : Nat) (s : State) : State :=
    match mapGet s.trn.walks w with
    | none => s
    | some x =>
      if !anteHas s 6 (w / 8) || x.away.isSome then s
      else match (if x.discard then none else walkFar s x) with
        | some (n, a) =>
          let o := txnOpen n (.walk w) s
          let s := packetSend n { src := 0, tenant := (tenantOf s x.table).getD 0, type := 0x01, fwd := true, addr := a, tag := o.1,
                                  len := 128 } o.2
          trnMod (fun r => { r with walks := mapPut r.walks w { x with away := some o.1 } }) s
        | none =>
          let pa := walkAddr x / 128 * 128
          let near := !x.discard && walkAllowed s x
          match blocksTake (if near then rangeStacks s pa 128 else []) s with
          | (some k, s) => trnMod (fun r => { r with walks := mapPut r.walks w { x with wants := some k } }) s
          | (none, s) =>
            let r := walkBlock s x
            let s := if near && r.1 = .ok then readFill (tableKey s x.table) pa 128 s else s
            walkGo w { x with wants := none } r s

/-- WALK_PTE_READ: one read of a walk (R112, R115). -/
def execWalkPteRead (walker : Fin 96) (s : State) : Result := live s (walkRead walker.val)

/-- The answer of a walk's read of another hub's memory (R91); anything but OK gives the walk no entry (R119 step 1). -/
def walkArrive (w tag : Nat) (st : Status) (bs : List Byte) (s : State) : State :=
  match mapGet s.trn.walks w with
  | some x => if x.away = some tag then walkGo w { x with away := none } (st, bs) s else s
  | none => s

/-- WALKER_GROUP_IDLE (R118): 256 ticks without a walk. -/
def execWalkerGroupIdle (group : Fin 12) (s : State) : Result :=
  live s (fun s =>
    let g := group.val
    let busy := s.trn.walks.any (fun w => w.1 / 8 = g)
    if anteHas s 6 g ∧ !busy ∧ now s ≥ mapGetD s.trn.groupIdle g 0 + 256 then anteDrop 6 g s else s)

-- shootdowns (R133 to R139) ---------------------------------------------------------------------------------------------

/-- Whether two ranges of 4 KiB pages meet; a count of 0 names the whole table. -/
def pagesMeet (a n b m : Nat) : Bool := n = 0 || m = 0 || (a < b + m && b < a + n)

/-- Steps 1 to 4 of a shootdown (R135). A tile's checked pieces keep the translations they use, and are marked with it (R132); a unit that
holds a translation between its tiles walks again. -/
def shootRun (x : Shootdown) (s : State) : State :=
  let first := x.va / 4096
  let keepT (e : TlbEntry) : Bool := e.table ≠ x.table || !pagesMeet first x.pages (e.base / 4096) (e.span / 4096)
  let keepW (e : WalkCacheEntry) : Bool :=
    e.table ≠ x.table || !pagesMeet first x.pages (e.tag * pageSize e.level / 4096) (pageSize e.level / 4096)
  let mark (w : Walk) : Walk := if w.table = x.table && pagesMeet first x.pages w.page 1 then { w with discard := true } else w
  let meets (e : TlbEntry) : Bool := !keepT e
  let usesP (p : Piece) : Piece := if pagesMeet first x.pages p.page p.pages then { p with shoot := x.id :: p.shoot } else p
  let uses (t : TileRec) : TileRec :=
    if t.table = x.table then
      { t with checked := t.checked.map usesP, heldShoot := if t.held.any meets then x.id :: t.heldShoot else t.heldShoot }
    else t
  let cs := clustersOf s x.table
  let y : Shootdown := { x with clusters := cs, drain := true, started := now s }
  let s := trnMod (fun r => { r with
    tlb := r.tlb.filter keepT
    walkCache := r.walkCache.filter keepW
    walks := r.walks.map (fun w => (w.1, mark w.2))
    unitWalks := r.unitWalks.filter (fun w => !w.leaf.any meets)
    tiles := r.tiles.map uses
    shoot := r.shoot ++ [y] }) s
  cs.foldl (fun s c => emit (.utlbInval c x.id x.va x.pages) s) s

/-- The next shootdown of a range. -/
def shootNew (s : State) (table va pages : Nat) (who : ShootFor) : Shootdown :=
  { id := s.trn.nextShoot, table := table, va := va, pages := pages, clusters := [], drain := true, who := who, started := now s }

/-- Requests a shootdown: it starts at once while fewer than 16 run and none waits, else it waits; none when 256 wait already (R139). -/
def shootAsk (table va pages : Nat) (who : ShootFor) (s : State) : Option State :=
  let x := shootNew s table va pages who
  if s.trn.shootQ.length ≥ 256 then none
  else
    let s := trnMod (fun r => { r with nextShoot := (r.nextShoot + 1) % 2 ^ 32 }) s
    if s.trn.shoot.length < 16 ∧ s.trn.shootQ.isEmpty then some (shootRun x s)
    else some (trnMod (fun r => { r with shootQ := r.shootQ ++ [x] }) s)

/-- A shootdown of firmware's own: Snisol keeps it until the queue of 256 has room, so it is never refused (R139). -/
def shootInternal (table va pages : Nat) (who : ShootFor) (s : State) : State :=
  match (if s.trn.shootHold.isEmpty then shootAsk table va pages who s else none) with
  | some s => s
  | none =>
    let x := shootNew s table va pages who
    trnMod (fun r => { r with nextShoot := (r.nextShoot + 1) % 2 ^ 32, shootHold := r.shootHold ++ [x] }) s

/-- Every shootdown that has not completed: those that run, those in the queue, and those that firmware keeps. -/
def shootAll (s : State) : List Shootdown := s.trn.shoot ++ s.trn.shootQ ++ s.trn.shootHold

/-- Runs a command that has been dispatched. -/
def withCmd (r : CmdRef) (f : Queue → QEntry → State → State) (s : State) : State :=
  match queueOf s r.queue, entryOf s r with
  | some q, some e => if e.state = .dispatched then f q e s else s
  | _, _ => s

/-- A dispatched command has begun to run. -/
def cmdBegins (r : CmdRef) (s : State) : State := entryMod r (fun e => { e with state := .running }) s

/-- INVALIDATE of a queue (R133, R431). -/
def execInvalidate (r : CmdRef) (s : State) : Result :=
  live s (withCmd r (fun q e s =>
    match e.d.body with
    | .invalidate va pages =>
      let s := cmdBegins r s
      if va % 4096 ≠ 0 ∨ va ≥ 2 ^ 57 ∨ pages > 2 ^ 45 then failCmd r .range 0 s
      else match shootAsk q.table va pages (.queue r) s with
        | some s => s
        | none => failCmd r .busy 0 s
    | _ => s))

/-- INVALIDATE of Gararn (R133, R525). -/
def effGararnInvalidate (m : Fin 64) (va pages t : Nat) (s : State) : Outcome :=
  if va % 4096 ≠ 0 ∨ va ≥ 2 ^ 57 ∨ pages > 2 ^ 45 then done .range s
  else match shootAsk t va pages (.mailbox m) s with
    | some s => later s
    | none => done .busy s

/-- GARARN_INVALIDATE. -/
def execGararnInvalidate (c : Caller) (va pages : Nat) (s : State) : Result :=
  gararn 0x201 .t c (withTable c (effGararnInvalidate c.mbx va pages)) s

/-- SHOOTDOWN_START (R139): the oldest waiting shootdown starts when fewer than 16 run, and one that firmware keeps takes its room in the
queue. -/
def execShootdownStart (s : State) : Result :=
  live s (fun s =>
    match s.trn.shootQ with
    | [] => s
    | x :: r =>
      if s.trn.shoot.length < 16 then
        shootRun x (trnMod (fun k => { k with shootQ := r ++ k.shootHold.take 1, shootHold := k.shootHold.drop 1 }) s)
      else s)

/-- Every cluster of a shootdown has acknowledged and TRN has drained. -/
def Shootdown.over (x : Shootdown) : Bool := x.clusters.isEmpty && !x.drain

/-- Whether a tile still uses translations that a shootdown has removed (R132, R135). -/
def drainOpen (s : State) (x : Shootdown) : Bool :=
  s.trn.tiles.any (fun t => t.table = x.table && (t.heldShoot.contains x.id || t.checked.any (fun p => p.shoot.contains x.id)))

/-- Sets the root of a table (R106, R140). -/
def effSetRoot (m : Fin 64) (root : Nat) (ad : Bool) (t : Nat) (s : State) : Outcome :=
  if root % 4096 ≠ 0 ∨ root ≥ 2 ^ 60 ∨ !localDevice s root ∨ slabOwner s root ≠ some t then done .range s
  else match shootAsk t 0 0 (.mailbox m) (tableMod t (fun tb => { tb with root := some (root / 4096, ad) }) s) with
    | some s => later s
    | none => done .busy s

/-- SET_ROOT (R140): answered when its whole-table shootdown completes. -/
def execSetRoot (c : Caller) (root : Nat) (ad : Bool) (s : State) : Result :=
  gararn 0x200 .t c (withTable c (effSetRoot c.mbx root ad)) s

/-- Nothing of a table slot stays in the translation caches (R141). The groups of the walks that go are idle from now (R118). A tile of the
host that still waits ends GONE, and what waited for the tiles goes on (DESIGN CHOICE, notes/assumptions/152). -/
def trnForget (t : Nat) (s : State) : State :=
  let host := s.trn.tiles.filterMap (fun x => if x.table = t then (match x.src with
    | .hostWindow p => some (p.val, x.d.tag)
    | _ => none) else none)
  donesSettle <| winSettle <| host.foldl (fun s x => winReport x.1 x.2 .gone [] s) <| trnMod (fun r => { r with
    groupIdle := (r.walks.filter (fun w => w.2.table = t)).foldl (fun g w => mapPut g (w.1 / 8) (now s)) r.groupIdle
    unitWalks := r.unitWalks.filter (fun w => w.table ≠ t)
    tlb := r.tlb.filter (fun e => e.table ≠ t)
    walkCache := r.walkCache.filter (fun e => e.table ≠ t)
    missQ := r.missQ.filter (fun m => m.1 ≠ t)
    walks := r.walks.filter (fun w => w.2.table ≠ t)
    tiles := r.tiles.filter (fun x => x.table ≠ t)
    faultQ := r.faultQ.filter (fun f => f.table ≠ t) }) s

end Sys2Proof.Machine
end

