-- ==== Sys2Proof/Machine/Faults.lean ====
section
/-! DEFINITION. Faults (R142 to R161): the fault CAM, records, parking and resuming of contexts with their waiter registrations
(R369, R370), and the block moves of host-backed ranges (R162 to R173). -/

namespace Sys2Proof.Machine

-- writes that may have to wait for a port -------------------------------------------------------------------------------

/-- Posts a write to host memory, or keeps it until a port can carry it (R492, R493). -/
def hostWriteHold (t addr : Nat) (bs : List Byte) (s : State) : State :=
  match hostWrite t addr bs s with
  | some s' => s'
  | none => { s with hif := { s.hif with lostWrites := s.hif.lostWrites ++ [.write t addr bs] } }

/-- Writes bytes at an offset of a memory object, or keeps the write until its host memory can be reached. -/
def objWriteHold (t : Nat) (h : Handle) (off : Nat) (bs : List Byte) (s : State) : State :=
  match objWrite t h off bs s with
  | some s' => s'
  | none =>
    match (memOf s h).bind (fun o => extentAt o.extents off) with
    | some a => hostWriteHold t a bs s
    | none => s

-- contexts: park, save, restore (R148, R151, R369, R370) ----------------------------------------------------------------

/-- An active context is parked; a saved one is marked as parked when saved (R148, R419). -/
def ctxPark (c : Handle) (s : State) : State :=
  ctxMod c (fun x => match x.state with
    | .active => { x with state := .parked }
    | .saved => { x with wasParked := true }
    | _ => x) s

/-- The bytes of one entry of a wait save record (R369). -/
def waitEntry (s : State) (w : Waiter) : List Byte :=
  let k := match w.kind with
    | .core cl co _ => (1, cl, co)
    | .copyEngine e => (2, e, 0)
    | .queue _ => (3, 0, 0)
  leBytes 4 (mkHandle 6 w.gen w.counter) ++ leBytes 1 k.1 ++ leBytes 1 k.2.1 ++ leBytes 1 k.2.2 ++ leBytes 1 0 ++ leBytes 8 w.target
    ++ leBytes 8 w.registered ++ leBytes 8 (counterShown s w.counter)

/-- Saves a context's registrations out of the slots in one step, and writes its wait save record (R369, R370, R420). -/
def ctxSave (c : Handle) (s : State) : State :=
  match ctxOf s c with
  | none => s
  | some x =>
    let mine := s.tck.waiters.filter (fun w => w.ctx = c)
    let all := x.saved ++ mine
    let s := { s with tck := { s.tck with waiters := s.tck.waiters.filter (fun w => w.ctx ≠ c) } }
    let s := ctxMod c (fun x => { x with saved := all }) s
    let record := leBytes 4 c ++ leBytes 4 all.length ++ leBytes 8 (now s) ++ List.replicate 16 0
      ++ (all.map (waitEntry s)).flatten
    objWriteHold x.table x.saveObj (x.saveOff + 0x20000) record s

/-- Whether a context's save may run: it is parked or saved and still has slots. -/
def execContextSave (ctx : Handle) (s : State) : Result :=
  live s (fun s =>
    match ctxOf s ctx with
    | some x =>
      if liveHandle s 1 (hIdx ctx) = ctx ∧ (x.state = .parked ∨ x.state = .saved) ∧ s.tck.waiters.any (fun w => w.ctx = ctx) then
        ctxSave ctx s
      else s
    | none => s)

/-- How a saved registration comes back: registered again, fired OK with a value, or fired with its counter's status. -/
def savedFires (s : State) (w : Waiter) : Option (Status × Nat) :=
  let c := counterOf s w.counter
  if c.state = .free ∨ (slotOf s 6 w.counter).gen ≠ w.gen then some (.gone, 0)
  else if c.state = .lost then some (.lost, 0)
  else if c.value ≥ w.target then some (.ok, c.value)
  else none

/-- Restores a context's registrations (R370): with too few free slots it stays as it is; otherwise it becomes ACTIVE. -/
def ctxRestore (c : Handle) (s : State) : State :=
  match ctxOf s c with
  | none => s
  | some x =>
    let back := x.saved.filter (fun w => (savedFires s w).isNone)
    let quota := match tableAt s x.table with
      | some tb => tb.quota
      | none => 0
    if s.tck.waiters.length + back.length > 16384 ∨ waitersOf s x.table + back.length > quota then
      ctxMod c (fun x => { x with state := if x.state = .saved then .parked else x.state, wasParked := false }) s
    else
      let s := ctxMod c (fun x => { x with state := .active, saved := [], wasParked := false }) s
      let s := { s with tck := { s.tck with waiters := s.tck.waiters ++ back } }
      (x.saved.filterMap (fun w => (savedFires s w).map (fun r => (w, r)))).foldl (fun s y => fireOne y.1 y.2.1 y.2.2 s) s

/-- Whether a context still waits for a fault: an open entry lists it, or the overflow list does. -/
def ctxFaulted (s : State) (c : Handle) : Bool :=
  s.trn.cam.any (fun e => !e.2.resolved && e.2.waiters.any (fun a => a.ctx = c)) || s.trn.overflow.any (fun f => f.ctx = c)
    || s.trn.faultQ.any (fun f => f.ctx = c)

/-- Whether a context is parked, or is to be parked when its saved state is restored. -/
def ctxParked (s : State) (c : Handle) : Bool := match ctxOf s c with
  | some x => decide (x.state = .parked) || decide (x.state = .saved) && x.wasParked
  | none => false

/-- A context that has resumed has done so at every resolved entry that lists it (R152). -/
def camResumed (c : Handle) (s : State) : State :=
  if ctxParked s c then s
  else trnMod (fun r => { r with cam := r.cam.map (fun e => (e.1, if e.2.resolved then { e.2 with
    waiters := e.2.waiters.map (fun a => if a.ctx = c then { a with resumed := true } else a) } else e.2)) }) s

/-- Resumes a context that waits for no fault any more (R151). -/
def ctxResume (c : Handle) (s : State) : State :=
  match ctxOf s c with
  | none => s
  | some x =>
    if ctxFaulted s c then s
    else camResumed c (match x.state with
      | .parked => ctxRestore c s
      | .saved => ctxMod c (fun x => { x with wasParked := false }) s
      | _ => s)

/-- A context leaves every waiting list (R149, R150). -/
def ctxLeave (c : Handle) (s : State) : State :=
  trnMod (fun r => { r with
    cam := r.cam.map (fun e => (e.1, { e.2 with waiters := e.2.waiters.filter (fun a => a.ctx ≠ c) }))
    overflow := r.overflow.filter (fun f => f.ctx ≠ c)
    faultQ := r.faultQ.filter (fun f => f.ctx ≠ c) }) s

-- resolution (R151, R152) -----------------------------------------------------------------------------------------------

/-- Runs a faulting request again as its source does (R143). An engine's command, at the head of its queue, may start again though its context
still waits for another entry (R148, R151). -/
def rerunRequest (src : Source) (cmd : Option CmdRef) (tag : Nat) (s : State) : State :=
  match src with
  | .cf .. => tileRestart src tag s
  | .engine e =>
    let up (t : NmeTask) : NmeTask := if t.ref = cmd ∧ t.cmd.tag = tag then { t with parked := false, rerun := true } else t
    let s := { s with nme := { s.nme with engines := mapMod s.nme.engines e.val (fun x => { x with queue := x.queue.map up }) } }
    tileRestart src tag s
  | .queue _ => tileRestart src tag s
  | .copyEngine _ =>
    let up (c : Channel) : Channel := { c with jobs := c.jobs.map (fun j => if some j.ref = cmd then { j with parked := false } else j) }
    tileRestart src tag { s with obj := { s.obj with channels := s.obj.channels.map (fun x => (x.1, up x.2)) } }
  | _ => tileRestart src tag s

/-- Runs an attached request again. -/
def attachedRerun (s : State) (a : Attached) : State := rerunRequest a.source a.cmd a.tag s

/-- Contexts resume in order, and then their overflowed requests run again (R147). -/
def overflowGo (fs : List FaultReq) (s : State) : State :=
  fs.foldl (fun s f => rerunRequest f.source f.cmd f.tag s) (fs.foldl (fun s f => ctxResume f.ctx s) s)

/-- Takes entries off the CAM (R147): the overflowed contexts of their tables, or of every table when the CAM was full, run again. -/
def camFree (gone : CamEntry → Bool) (s : State) : State :=
  let full := decide (s.trn.cam.length ≥ 512)
  let out := s.trn.cam.filter (fun e => gone e.2)
  if out.isEmpty then s
  else
    let again (f : FaultReq) : Bool := full || out.any (fun e => e.2.table = f.table)
    let fs := s.trn.overflow.filter again
    overflowGo fs (trnMod (fun r => { r with
      cam := r.cam.filter (fun e => !gone e.2)
      overflow := r.overflow.filter (fun f => !again f) }) s)

/-- Whether an entry leaves the CAM: it is resolved and its last attached context has resumed (R152). -/
def camLeaves (s : State) (e : CamEntry) : Bool := e.resolved && e.waiters.all (fun a => a.resumed || !ctxParked s a.ctx)

/-- Frees the resolved entries whose attached contexts have all resumed (R152). A request that was run again while its entry stood, and was
refused again, now runs once more and makes a new record if it must (R145). -/
def camSweep (s : State) : State :=
  let waits := ((s.trn.cam.filter (fun e => camLeaves s e.2)).map (fun e => e.2.waiters.filter (fun a => a.again))).flatten
  waits.foldl attachedRerun (camFree (camLeaves s) s)

/-- Resolves an entry (R151): each context for which this was the last entry resumes, in the order in which they attached, every attached
request runs again, and the table advances (R373). The entry leaves with its last context (R152), before the requests run, so that one which
is refused again makes a new record (R145). -/
def camResolve (i : Nat) (s : State) : State :=
  match mapGet s.trn.cam i with
  | none => s
  | some e =>
    let s := trnMod (fun r => { r with cam := mapPut r.cam i { e with resolved := true } }) s
    let s := e.waiters.foldl (fun s a => ctxResume a.ctx s) s
    e.waiters.foldl attachedRerun (camSweep (advance e.table s))

/-- A failed fault ends an attached request with a status: the command, and the tile of a core. -/
def requestEnd (st : Status) (cause : Nat) (a : Attached) (s : State) : State :=
  let s := match a.cmd with
    | some r => failCmd r st cause s
    | none => (match a.source with
      | .engine e =>
        let up (t : NmeTask) : NmeTask :=
          if t.ref.isNone && t.cmd.tag = a.tag && t.parked then { t with parked := false, effect := some st } else t
        { s with nme := { s.nme with engines := mapMod s.nme.engines e.val (fun x => { x with queue := x.queue.map up }) } }
      | _ => s)
  if (tileOf s a.source a.tag).isSome then tileReport a.source a.tag st [] (tileDel a.source a.tag s) else s

/-- Fails an entry (R158): each attached command ends FAULT and its context is LOST; the entry is freed. -/
def camFail (i : Nat) (s : State) : State :=
  match mapGet s.trn.cam i with
  | none => s
  | some e =>
    let s := trnMod (fun r => { r with cam := mapPut r.cam i { e with resolved := true, waiters := [] } }) s
    let s := e.waiters.foldl (fun s a => requestEnd .fault e.fault.cause.code a s) s
    let s := (e.waiters.map (fun a => a.ctx)).eraseDups.foldl (fun s c => contextLose c (ctxLeave c s)) s
    camSweep s

/-- The open entry of a record on this hub for a table (R155, R159). -/
def recordEntry (s : State) (t record : Nat) : Option Nat :=
  let i := record % 512
  match mapGet s.trn.cam i with
  | some e => if e.table = t && e.serial = some (record / 512) && !e.resolved then some i else none
  | none => none

/-- FAULT_RESOLVE (R159). -/
def effFaultResolve (record t : Nat) (s : State) : Outcome :=
  match recordEntry s t record with
  | some i => done .ok (camResolve i s)
  | none => done .gone s

/-- FAULT_FAIL (R158, R159). -/
def effFaultFail (record t : Nat) (s : State) : Outcome :=
  match recordEntry s t record with
  | some i => done .ok (camFail i s)
  | none => done .gone s

/-- FAULT_RESOLVE. -/
def execFaultResolve (c : Caller) (record : Nat) (s : State) : Result :=
  gararn 0x203 .t c (withTable c (effFaultResolve record)) s

/-- FAULT_FAIL. -/
def execFaultFail (c : Caller) (record : Nat) (s : State) : Result := gararn 0x204 .t c (withTable c (effFaultFail record)) s

/-- Whether a region lies within a live memory object of a table (R612, R413): OK, or the status. -/
def regionStatus (s : State) (t : Nat) (h : Handle) (off len : Nat) : Status :=
  match checkOwned s ((tenantOf s t).getD 0) t 3 h with
  | .ok =>
    (match memOf s h with
     | some o =>
       if o.state ≠ .live then .gone
       else if o.kind = .hostback ∨ off + len > extentsLen o.extents then .range
       else .ok
     | none => .gone)
  | st => st

/-- FAULT_RING_SET (R153, R525). On a table that has delivered records before, the serial runs on, so that the first record of the new ring
need not go to its first slot (DESIGN CHOICE, notes/assumptions/144). -/
def effFaultRingSet (obj ev : Handle) (off t : Nat) (s : State) : Outcome :=
  let st := worst [regionStatus s t obj off 32768, checkOwned s ((tenantOf s t).getD 0) t 4 ev,
                   if off % 4096 ≠ 0 then .range else .ok]
  if st ≠ .ok then done st s
  else done .ok (memReleaseAll (tableMod t (fun tb => { tb with ring := some (obj, ev, off) }) s))

/-- FAULT_RING_SET. -/
def execFaultRingSet (c : Caller) (object event : Handle) (offset : Nat) (s : State) : Result :=
  gararn 0x202 .t c (withTable c (effFaultRingSet object event offset)) s

/-- WAIT_RESTORE_RETRY (R370): a parked context whose faults are resolved tries again to get its registrations back. -/
def execWaitRestoreRetry (ctx : Handle) (s : State) : Result :=
  live s (fun s => if liveHandle s 1 (hIdx ctx) = ctx then camSweep (ctxResume ctx s) else s)

/-- The node that owns the host-backed range of a table in which an address lies, on a hub that is a reader node of it (R166). How a reader
node's firmware knows the range, the spec does not say (notes/assumptions/86): a free value. -/
opaque Config.readRange : State → Nat → Nat → Option Nat

/-- Whether a reader node lacks a level-1 table of a range of bytes of a table (R162, R168): a free value, since no message of R521 tells the
hub (notes/assumptions/86). -/
opaque Config.farLacks : State → Nat → Nat → Nat → Nat → Bool

-- host-backed ranges (R162 to R166) -------------------------------------------------------------------------------------

/-- The host-backed object of a table that covers an address, with its index. -/
def hostbackAt (s : State) (t va : Nat) : Option (Nat × MemObj × Hostback) :=
  s.obj.mems.findSome? (fun x => match x.2.hb with
    | some h => if x.2.table = t && x.2.state = .live && h.b.va ≤ va && va < h.b.va + h.b.length then some (x.1, x.2, h) else none
    | none => none)

/-- A block of a host-backed range. -/
def blockOf (h : Hostback) (k : Nat) : Block := mapGetD h.blocks k {}

/-- The placement policy of a block (R167). -/
def policyOf (h : Hostback) (k : Nat) : Policy :=
  (mapGet h.policies k).getD { home := h.home, shareReads := h.shareReads, readers := h.b.readers }

/-- The state to which a read fault on a HOST block brings it, or a background action (R167). -/
def readTarget (h : Hostback) (k : Nat) : BlockState := if (policyOf h k).shareReads then .both else .device

/-- Changes what a host-backed object registers. -/
def hbMod (i : Nat) (f : Hostback → Hostback) (s : State) : State :=
  { s with obj := { s.obj with mems := mapMod s.obj.mems i (fun o => { o with hb := o.hb.map f }) } }

/-- Changes a block. -/
def blockMod (i k : Nat) (f : Block → Block) (s : State) : State :=
  hbMod i (fun h => { h with blocks := mapPutD {} h.blocks k (f (blockOf h k)) }) s

/-- The level-1 table that maps an address, found from the root through the pointers (R106). -/
def leafTable (s : State) (t va : Nat) : Nat → Nat → Option Nat
  | 0, _ => none
  | n + 1, pa =>
    if !localDevice s pa || slabOwner s pa ≠ some t then none
    else if n = 0 then some pa
    else
      let r := pteRead s t (pa + 8 * vaIndex va (n + 1))
      if r.1 = .ok && pteBit r.2 0 && pteOk r.2 (n + 1) && !pteBit r.2 6 then leafTable s t va n (pteFrame r.2) else none

/-- The level-1 table of an address of a table, if this hub's replica has it. -/
def levelOne (s : State) (t va : Nat) : Option Nat :=
  match (tableAt s t).bind (fun tb => tb.root) with
  | some r => leafTable s t va 5 (r.1 * 4096)
  | none => none

/-- One leaf of a host-backed block (R163, R164): host frames carry the policy's PLACE. -/
def hbLeaf (s : State) (h : Hostback) (k i : Nat) (st : BlockState) (open_ : Bool) : Nat :=
  let b := blockOf h k
  let base := match st with
    | .host => s.sys.nodeId * 2 ^ 48 + 2 ^ 47 + h.b.hostIova % 2 ^ 47 + k * 65536
    | _ => b.dev
  let place := match st with
    | .host => if (policyOf h k).home = 1 then 0 else 2 ^ 62
    | _ => 0
  let w := open_ && st ≠ .both && h.b.permW
  let a := open_ && st ≠ .both && h.b.permA
  place + 2 ^ 60 + (base + i * 4096) / 4096 * 4096 + b2n b.p * 1024 + 64 + b2n a * 32 + b2n w * 16 + b2n h.b.permR * 8 + 1

/-- The 128 bytes of a block's sixteen leaves. -/
def hbLeaves (s : State) (h : Hostback) (k : Nat) (st : BlockState) (open_ : Bool) : List Byte :=
  ((List.range 16).map (fun i => leBytes 8 (hbLeaf s h k i st open_))).flatten

/-- Writes 128 bytes of leaves of an address in this hub's replica of a table's page tables (R163). -/
def leavesWrite (t va : Nat) (bs : List Byte) (s : State) : State :=
  match levelOne s t va with
  | some l1 => devWrite (tableKey s t) (l1 + 8 * vaIndex va 1) bs s
  | none => s

/-- Leaves with V = 0. -/
def noLeaves : List Byte := List.replicate 128 0

/-- Writes a block's leaves for a state here and on the reader nodes, where a HOST block has V = 0 (R163 to R165). -/
def blockLeaves (t : Nat) (h : Hostback) (k : Nat) (st : BlockState) (open_ : Bool) (s : State) : State :=
  let va := h.b.va + k * 65536
  let bs := hbLeaves s h k st open_
  let g := match tableAt s t with
    | some tb => tb.globalId
    | none => 0
  let far := if st = .host then noLeaves else bs
  (policyOf h k).readers.foldl (fun s n => emit (.leaves n g va far) s) (leavesWrite t va bs s)

/-- The free 64 KiB blocks of extents, in order. -/
def blocksOf (exts : List (Nat × Nat)) : List Nat :=
  (exts.map (fun x => (List.range (x.2 / 65536)).map (fun i => x.1 + 65536 * i))).flatten

/-- Device blocks that ranges or models hold. -/
def blocksUsed (s : State) : List Nat :=
  (s.obj.mems.map (fun x => match x.2.hb with
    | some h => (h.blocks.map (fun b => b.2.dev)).filter (fun d => d ≠ 0)
    | none => [])).flatten 
    ++ (s.obj.models.map (fun x => (x.2.blocks.map (fun b => (List.range 32).map (fun i => b + 65536 * i))).flatten)).flatten
    ++ (s.trn.moves.map (fun m => m.dev)).filter (fun d => d ≠ 0)

/-- Whether the pool object of a range has been released (R173). -/
def poolGone (s : State) (pool : Handle) : Bool := match memOf s pool with
  | some o => decide (o.state ≠ .live)
  | none => true

/-- A free block of a pool object (R171). -/
def poolFree (s : State) (pool : Handle) : Option Nat :=
  match memOf s pool with
  | some o =>
    let used := blocksUsed s
    if o.state = .live then (blocksOf o.extents).find? (fun b => b ∉ used) else none
  | none => none

-- block moves (R165, R171 to R173) --------------------------------------------------------------------------------------

/-- Whether a block is already where a move would bring it. -/
def atTarget (b target : BlockState) : Bool := b = target || (target = .both && b = .device)

/-- Queues a move of a block (R171). -/
def moveAsk (i k : Nat) (target : BlockState) (cmd : Option CmdRef) (node : Option Nat) (s : State) : State :=
  let m : BlockMove := { object := i, block := k, target := target, before := .host, dev := 0, running := false, forCmd := cmd, node := node }
  trnMod (fun r => { r with moves := r.moves ++ [m] }) s

/-- The CAM entries that wait on a block for firmware (R171). -/
def blockEntries (s : State) (t va : Nat) : List Nat :=
  (s.trn.cam.filter (fun e => e.2.table = t && e.2.page = va && e.2.hostback && e.2.serial.isNone && !e.2.resolved)).map (fun e => e.1)

/-- The running move of a block. -/
def moveOf (s : State) (i k : Nat) : Option BlockMove := s.trn.moves.find? (fun m => m.object = i && m.block = k && m.running)

/-- The instance of the class 0x5 draw of a block move (DESIGN CHOICE, notes/assumptions/39). -/
def blockInst (m : BlockMove) : Nat := 8192 + m.object * 2 ^ 22 + m.block

/-- Removes the running move of a block, or the first that waits, with its draw. -/
def moveDel (m : BlockMove) (s : State) : State :=
  copyFree (blockInst m) (trnMod (fun r => { r with moves := r.moves.erase m }) s)

/-- Changes a move where it stands. -/
def movePut (m m' : BlockMove) (s : State) : State :=
  trnMod (fun r => { r with moves := r.moves.map (fun x => if x = m then m' else x) }) s

/-- After a move of a PREFETCH: it commits when no move of it remains; a failure ends it and drops the rest (R170). -/
def prefetchCheck (m : BlockMove) (st : Status) (moved : Bool) (s : State) : State :=
  match m.forCmd with
  | none => s
  | some r =>
    let s := if moved then entryMod r (fun e => { e with result := e.result + 1 }) s else s
    if st ≠ .ok then
      failCmd r st (if st = .fault then Cause.code .permission else 0)
        (trnMod (fun k => { k with moves := k.moves.filter (fun x => !(x.forCmd = some r && !x.running)) }) s)
    else if s.trn.moves.any (fun x => x.forCmd = some r) then s else commitCmd r s

/-- A record of a fault goes to the driver (R153 to R155): 64 bytes in one write, then the ring's event. Without a ring the fault
is failed at once (R156). PHASE follows the serial, also after a second FAULT_RING_SET (DESIGN CHOICE, notes/assumptions/144). -/
def recordDeliver (i : Nat) (s : State) : State :=
  match mapGet s.trn.cam i with
  | none => s
  | some e =>
    match tableAt s e.table with
    | none => s
    | some tb =>
      match tb.ring with
      | none => camFail i s
      | some (obj, ev, off) =>
        let n := tb.serial
        let f := e.fault
        let code := f.cause.code
        let rec_ := i + 512 * n
        let pa := if code = 2 ∨ (5 ≤ code ∧ code ≤ 8) then f.pa else 0
        let flags := b2n e.hostback + 2 * b2n e.noBacking + 4 * b2n e.window + 128 * b2n (n / 512 % 2 = 0)
        let bs := leBytes 4 rec_ ++ leBytes 4 tb.globalId ++ leBytes 8 e.page ++ leBytes 8 pa ++ leBytes 8 f.entry ++ leBytes 8 e.time
          ++ leBytes 4 f.ctx ++ leBytes 1 code ++ leBytes 1 f.level ++ leBytes 1 f.access ++ leBytes 1 f.source.trnCode
          ++ leBytes 2 s.sys.nodeId ++ leBytes 1 flags ++ List.replicate 13 0
        let s := trnMod (fun r => { r with cam := mapPut r.cam i { e with serial := some n } }) s
        let s := tableMod e.table (fun tb => { tb with serial := (n + 1) % 2 ^ 23 }) s
        let s := objWriteHold e.table obj (off + 64 * (n % 512)) bs s
        let x : EventEntry := { type := 3, status := .ok, source := tableHandle s e.table, cookie := rec_, detail := e.page, time := now s }
        eventWrite ev x s

/-- A move ends without reaching its target (R173): the block is as it was, its leaves are restored, and faults that wait go to the
driver when the rule says so; with NO_BACKING too when the pool has been released (DESIGN CHOICE, notes/assumptions/146). -/
def moveFail (m : BlockMove) (st : Status) (noBacking : Bool) (s : State) : State :=
  match (mapGet s.obj.mems m.object).bind (fun o => o.hb.map (fun h => (o, h))) with
  | none => moveDel m s
  | some (o, h) =>
    let s := moveDel m (blockMod m.object m.block (fun b => { b with state := m.before }) s)
    let s := blockLeaves o.table h m.block m.before true s
    let es := blockEntries s o.table (h.b.va + m.block * 65536)
    let deliver := noBacking || st = .fault
    let s := if deliver then es.foldl (fun s i => recordDeliver i (trnMod (fun r => { r with
        cam := mapMod r.cam i (fun e => { e with noBacking := noBacking }) }) s)) s else s
    prefetchCheck m st false s

/-- A reader node that has forwarded a fault is told that the block has reached its target (R166). -/
def moveReport (m : BlockMove) (o : MemObj) (h : Hostback) (s : State) : State :=
  match m.node, tableAt s o.table with
  | some n, some tb => ctrlSend n 0x806 tb.globalId 0 .ok (h.b.va + m.block * 65536) s
  | _, _ => s

/-- The block reaches its target (R171): its entries are resolved and a reader node that asked is told (R166). -/
def moveFinish (m : BlockMove) (s : State) : State :=
  match (mapGet s.obj.mems m.object).bind (fun o => o.hb.map (fun h => (o, h))) with
  | none => moveDel m s
  | some (o, h) =>
    let s := moveDel m s
    let s := blockMod m.object m.block (fun b => { b with state := m.target, dev := if m.target = .host then 0 else b.dev }) s
    let s := trnMod (fun r => { r with
      migToHost := if m.target = .host then sat32 (r.migToHost + 1) else r.migToHost
      migToDevice := if m.target = .host then r.migToDevice else sat32 (r.migToDevice + 1) }) s
    let s := (blockEntries s o.table (h.b.va + m.block * 65536)).foldl (fun s i => camResolve i s) s
    prefetchCheck m .ok true (moveReport m o h s)

/-- The leaves of a move's target are written and the block is shot down; the move ends when the shootdown does (R171). -/
def moveLeaves (m : BlockMove) (s : State) : State :=
  match (mapGet s.obj.mems m.object).bind (fun o => o.hb.map (fun h => (o, h))) with
  | none => moveDel m s
  | some (o, h) =>
    let s := blockLeaves o.table h m.block m.target true (movePut m { m with guard := none } s)
    shootInternal o.table (h.b.va + m.block * 65536) 16 (.move m.object m.block true) s

/-- Moves to the host whose flush reads have completed go on (R171). -/
def movesFlushed (s : State) : State :=
  (s.trn.moves.filter (fun m => match m.guard with
    | some g => !guardStands s g
    | none => false)).foldl (fun s m => moveLeaves m s) s

/-- Whether a move copies bytes (R171). -/
def moveCopies (m : BlockMove) : Bool :=
  (m.target ≠ .host && m.before = .host) || (m.target = .host && m.before = .device)

/-- Goes on after the first shootdown of a move. -/
def moveOn (i k : Nat) (s : State) : State :=
  match moveOf s i k with
  | some m => if moveCopies m then s else moveLeaves m s
  | none => s

/-- Starts a move whose block is free (R171). -/
def moveStart (m : BlockMove) (s : State) : State :=
  match (mapGet s.obj.mems m.object).bind (fun o => o.hb.map (fun h => (o, h))) with
  | none => prefetchCheck m .gone false (moveDel m s)
  | some (o, h) =>
    let va := h.b.va + m.block * 65536
    let b := blockOf h m.block
    if o.state ≠ .live then prefetchCheck m .gone false (moveDel m s)
    else if atTarget b.state m.target then
      let s := (blockEntries s o.table va).foldl (fun s i => camResolve i s) (moveDel m s)
      prefetchCheck m .ok false (moveReport m o h s)
    else
      let need := b.state = .host && m.target ≠ .host
      let dev := if need then poolFree s h.b.pool else some b.dev
      match dev with
      | none =>
        let m' : BlockMove := { m with before := b.state }
        moveFail m' (if poolGone s h.b.pool then .gone else .noResource) true (movePut m m' s)
      | some d =>
        let m' : BlockMove := { m with before := b.state, dev := d, running := true }
        let s := movePut m m' s
        let s := blockMod m.object m.block (fun b => { b with state := .moving, dev := d }) s
        let opens := m.target = .host || (b.state = .device && h.b.permW) || (b.state = .host && (policyOf h m.block).home = 1 && h.b.permW)
        if opens then
          let s := blockLeaves o.table { h with blocks := mapPut h.blocks m.block { b with dev := d } } m.block b.state false s
          shootInternal o.table va 16 (.move m.object m.block false) s
        else moveOn m.object m.block s

/-- The first queued move whose block no running move and no earlier one holds. -/
def moveReady : List BlockMove → List BlockMove → Option BlockMove
  | _, [] => none
  | seen, m :: r =>
    if !m.running && !seen.any (fun x => x.object = m.object && x.block = m.block) then some m else moveReady (m :: seen) r

/-- Whether a queued move will copy bytes when it starts. -/
def moveWillCopy (s : State) (m : BlockMove) : Bool := match (mapGet s.obj.mems m.object).bind (fun o => o.hb) with
  | some h =>
    let b := (blockOf h m.block).state
    !atTarget b m.target && moveCopies { m with before := b } && ((m.target = .host) || (poolFree s h.b.pool).isSome)
  | none => false

/-- BLOCK_MOVE_START (R171, R172): at most 16 moves run, and one that copies starts once its NORMAL draw of class 0x5 is granted. -/
def execBlockMoveStart (s : State) : Result :=
  live s (fun s =>
    let runs := (s.trn.moves.filter (fun m => m.running)).length
    match moveReady [] (s.trn.moves.filter (fun m => m.running) ++ s.trn.moves.filter (fun m => !m.running)) with
    | some m =>
      if coreRuns s && decide (runs < 16) then
        let d := if moveWillCopy s m then copyTake (blockInst m) false s else (true, s)
        if d.1 then moveStart m d.2 else d.2
      else s
    | none => s)

/-- A copy to the host has been posted: the flush reads of its port follow, and the move goes on when they complete (R171, R444). -/
def moveFlush (m : BlockMove) (t addr : Nat) (s : State) : State :=
  match primaryOf s t with
  | some p => hostReadSend p t addr 0 .flush (movePut m { m with guard := some (portGuard s p) } s)
  | none => s

/-- BLOCK_MOVE_COPY_DONE (R171, R173): the copy of a running move ends, with the bytes that a host read returned; the flush reads of a copy to
the host follow. -/
def execBlockMoveCopyDone (object : Handle) (block : Nat) (st : Status) (hostData : List Byte) (s : State) : Result :=
  live s (fun s =>
    let i := hIdx object
    match moveOf s i block, mapGet s.obj.mems i with
    | some m, some o =>
      let busy := (shootAll s).any (fun x => x.who = .move i block false || x.who = .move i block true)
      if busy ∨ m.guard.isSome ∨ !moveCopies m ∨ (primaryOf s o.table).isNone ∨ liveHandle s 3 i ≠ object then s
      else
        match o.hb with
        | none => s
        | some h =>
          let key := tableKey s o.table
          if m.target = .host then
            let r := devRead s key m.dev 65536
            if r.1 ≠ .ok then moveFail m .poisoned false s
            else
              let a := h.b.hostIova % 2 ^ 47 + block * 65536
              moveFlush m o.table a (hostWriteHold o.table a r.2 s)
          else if st ≠ .ok then moveFail { m with dev := 0 } .fault false
            (blockMod i block (fun b => { b with dev := 0 }) (movePut m { m with dev := 0 } s))
          else moveLeaves m (devWrite key m.dev (hostData.take 65536 ++ List.replicate (65536 - hostData.length) 0) s)
    | _, _ => s)

end Sys2Proof.Machine
end

