-- ==== Sys2Proof/Machine/Hand.lean ====
section
/-! DEFINITION. The hand (R556 to R560): models, their pool blocks, loads and discards; and the frame of messages between the
firmware of two hubs (R521). -/

namespace Sys2Proof.Machine

/-- A firmware message about a table is taken from its members only (R521): any other is dropped and counted. -/
def fromMember (src globalId : Nat) (f : Nat → State → State) (s : State) : State :=
  match slotOfGlobal s globalId with
  | none => lnkDrop s
  | some t =>
    match tableAt s t with
    | none => lnkDrop s
    | some tb => if src ∈ membersOf tb then f t (irqRaise 11 s) else lnkDrop s

-- models ----------------------------------------------------------------------------------------------------------------

/-- The instance of the class 0x5 draw of a model's load (DESIGN CHOICE, notes/assumptions/39). -/
def modelInst (i : Nat) : Nat := 2 ^ 60 + i

/-- Changes a model. -/
def modelMod (i : Nat) (f : Model → Model) (s : State) : State :=
  { s with obj := { s.obj with models := mapMod s.obj.models i f } }

/-- The model of a table whose range holds an address. -/
def modelAt (s : State) (t va : Nat) : Option Nat :=
  (s.obj.models.find? (fun x => x.2.table = t && x.2.b.va ≤ va && va < x.2.b.va + x.2.b.size)).map (fun x => x.1)

/-- The level-2 table of an address of a table, if this hub's replica has it. -/
def levelTwoFrom (s : State) (t va : Nat) : Nat → Nat → Option Nat
  | 0, _ => none
  | n + 1, pa =>
    if !localDevice s pa || slabOwner s pa ≠ some t then none
    else if n = 1 then some pa
    else
      let r := pteRead s t (pa + 8 * vaIndex va (n + 1))
      if r.1 = .ok && pteBit r.2 0 && pteOk r.2 (n + 1) && !pteBit r.2 6 then levelTwoFrom s t va n (pteFrame r.2) else none

/-- The level-2 table of an address, from the table's root. -/
def levelTwo (s : State) (t va : Nat) : Option Nat :=
  match (tableAt s t).bind (fun tb => tb.root) with
  | some r => levelTwoFrom s t va 5 (r.1 * 4096)
  | none => none

/-- Writes one level-2 leaf of an address in this hub's replica. -/
def leafTwoWrite (t va e : Nat) (s : State) : State :=
  match levelTwo s t va with
  | some l2 => devWrite (tableKey s t) (l2 + 8 * vaIndex va 2) (leBytes 8 e) s
  | none => s

/-- Whether the sixteen leaves of the group of leaf k of a model form a contiguity group (R111): all lie in the range, and their
blocks follow one another from an aligned one. -/
def modelGroup (m : Model) (k : Nat) : Bool :=
  let first := (m.b.va / 2 ^ 21 + k) / 16 * 16
  let base := m.b.va / 2 ^ 21
  decide (base ≤ first) && decide (first + 16 ≤ base + m.blocks.length)
    && (let a := m.blocks.getD (first - base) 0
        a % 2 ^ 25 = 0 && (List.range 16).all (fun i => m.blocks.getD (first - base + i) 0 = a + i * 2 ^ 21))

/-- The leaf of a resident model's page (R557): R and P set, W, A and H clear, PLACE IN_PLACE. -/
def modelLeaf (m : Model) (k : Nat) : Nat :=
  (if modelGroup m k then 2 ^ 60 else 0) + m.blocks.getD k 0 + 1024 + 64 + 8 + 1

/-- Writes the leaves of a model: of its blocks, or with V = 0. -/
def modelLeaves (m : Model) (resident : Bool) (s : State) : State :=
  (List.range (m.b.size / 2 ^ 21)).foldl (fun s k =>
    leafTwoWrite m.table (m.b.va + k * 2 ^ 21) (if resident then modelLeaf m k else 0) s) s

/-- The free 2 MiB blocks of a table's hand pool. -/
def handFree (s : State) (t : Nat) : List Nat :=
  match (tableAt s t).bind (fun tb => memOf s tb.hand) with
  | some o =>
    let used := blocksUsed s
    let all := (o.extents.map (fun x => (List.range (x.2 / 2 ^ 21)).map (fun i => x.1 + 2 ^ 21 * i))).flatten
    all.filter (fun b => (List.range 32).all (fun i => (b + 65536 * i) ∉ used))
  | none => []

/-- The handle of a model. -/
def modelHandle (s : State) (i : Nat) : Handle := liveHandle s 8 i

/-- Whether a model may be discarded to make room (R558): resident, not pinned, and not named by the open part of a step. -/
def modelVictim (s : State) (i : Nat) (m : Model) : Bool :=
  m.state = .resident && m.pins = 0
    && !(match tableAt s m.table with
      | some tb => tb.step.isOpen && tb.step.models.contains (modelHandle s i)
      | none => false)

/-- Starts a discard (R560): the leaves are cleared and shot down, and the blocks return when that completes. -/
def modelDrop (i : Nat) (s : State) : State :=
  match mapGet s.obj.models i with
  | none => s
  | some m =>
    let s := modelLeaves m false (modelMod i (fun m => { m with state := .discarding }) s)
    shootInternal m.table m.b.va (m.b.size / 4096) (.model i) s

/-- The open CAM entries that wait on a model's range. -/
def modelEntries (s : State) (m : Model) : List Nat :=
  (s.trn.cam.filter (fun e => e.2.table = m.table && !e.2.resolved && m.b.va ≤ e.2.page && e.2.page < m.b.va + m.b.size)).map
    (fun e => e.1)

/-- A load that has failed (R559): its draw is withdrawn (R45), its requests are answered, and waiting faults go to the driver with NO_BACKING, or with the
cause MIGRATE. -/
def modelLoadFail (i : Nat) (st : Status) (s : State) : State :=
  match mapGet s.obj.models i with
  | none => s
  | some m =>
    let es := (modelEntries s m).filter (fun e => match mapGet s.trn.cam e with
      | some c => c.serial.isNone
      | none => false)
    let s := modelMod i (fun m => { m with state := .discarded, blocks := [], loadFor := [] }) (anteDrop 5 (modelInst i) s)
    let s := m.loadFor.foldl (fun s b => answer b.val { st := st } s) s
    es.foldl (fun s e =>
      let up (c : CamEntry) : CamEntry :=
        if st = .fault then { c with fault := { c.fault with cause := .migrate } } else { c with noBacking := true }
      recordDeliver e (trnMod (fun r => { r with cam := mapMod r.cam e up }) s)) s

/-- The model of a table least recently used among those that a condition picks. -/
def modelOldest (s : State) (t : Nat) (p : Nat → Model → Bool) : Option Nat :=
  let l := s.obj.models.filter (fun x => x.2.table = t && p x.1 x.2)
  (l.foldl (fun (b : Option (Nat × Model)) x => match b with
    | none => some x
    | some y => if x.2.lastUse < y.2.lastUse then some x else some y) none).map (fun x => x.1)

/-- Whether a model waits for blocks. -/
def modelWaits (m : Model) : Bool := m.state = .loading && m.blocks.isEmpty

/-- Moves the loads of a table that wait for blocks, within a number of moves (R558 steps 1 and 2): the load asked for first
takes its blocks, or a victim is discarded for it, or it waits for a discard under way, or it fails NO_RESOURCE. -/
def handSettle : Nat → Nat → State → State
  | 0, _, s => s
  | n + 1, t, s =>
    match modelOldest s t (fun _ m => modelWaits m) with
    | none => s
    | some i =>
      match mapGet s.obj.models i with
      | none => s
      | some m =>
        let need := m.b.size / 2 ^ 21
        let free := handFree s t
        if need ≤ free.length then handSettle n t (modelMod i (fun m => { m with blocks := free.take need }) s)
        else
          let coming := ((s.obj.models.filter (fun x => x.2.table = t && x.2.state = .discarding)).map
            (fun x => x.2.blocks.length)).sum
          if need ≤ free.length + coming then s
          else match modelOldest s t (modelVictim s) with
            | some v => handSettle n t (modelDrop v s)
            | none => if coming > 0 then s else handSettle n t (modelLoadFail i .noResource s)

/-- Lets a table's waiting loads move as far as they can. -/
def handMoves (t : Nat) (s : State) : State := handSettle (2 * s.obj.models.length + 2) t s

/-- Begins a load of a discarded model (R558). -/
def modelLoadStart (i : Nat) (s : State) : State :=
  match mapGet s.obj.models i with
  | some m => handMoves m.table (modelMod i (fun m => { m with state := .loading, again := false, lastUse := now s }) s)
  | none => s

/-- The end of a discard (R560): the blocks are the pool's, and what waited for it goes on. A destroyed model stays DISCARDED
until its DESTROY ends. -/
def modelDiscarded (i : Nat) (s : State) : State :=
  match mapGet s.obj.models i with
  | none => s
  | some m =>
    let s := modelMod i (fun m => { m with state := .discarded, blocks := [], discardFor := [] }) s
    let s := m.discardFor.foldl (fun s b => answer b.val { st := .ok } s) s
    let s := if m.again && !m.destroying then modelLoadStart i s else s
    handMoves m.table s

/-- A NOT_VALID fault inside a model's range asks for its load (R558); entry e waits on it. -/
def modelFault (e i : Nat) (s : State) : State :=
  match mapGet s.obj.models i with
  | none => s
  | some m =>
    if m.destroying then recordDeliver e s
    else match m.state with
      | .resident => camResolve e s
      | .loading => s
      | .discarding => modelMod i (fun m => { m with again := true }) s
      | .discarded => modelLoadStart i s

-- requests --------------------------------------------------------------------------------------------------------------

/-- A model handle of a table: its index, or the status (R413, R415). -/
def modelCheck (s : State) (t : Nat) (h : Handle) : Except Status Nat :=
  match checkOwned s ((tenantOf s t).getD 0) t 8 h with
  | .ok => (match mapGet s.obj.models (hIdx h) with
      | some m => if m.destroying then .error .gone else .ok (hIdx h)
      | none => .error .gone)
  | st => .error st

/-- HAND_SET (R556, R529). -/
def effHandSet (pool : Handle) (t : Nat) (s : State) : Outcome :=
  match checkOwned s ((tenantOf s t).getD 0) t 3 pool with
  | .ok =>
    (match memOf s pool with
     | none => done .gone s
     | some o =>
       if o.state ≠ .live then done .gone s
       else if o.kind ≠ .device ∨ o.extents.any (fun x => x.1 % 2 ^ 21 ≠ 0 || x.2 % 2 ^ 21 ≠ 0) then done .range s
       else done .ok (tableMod t (fun tb => { tb with hand := pool }) s))
  | st => done st s

/-- HAND_SET. -/
def execHandSet (c : Caller) (pool : Handle) (s : State) : Result := gararn 0x710 .t c (withTable c (effHandSet pool)) s

/-- The status of a model's backing (R556): a HOST object that holds the weights, or a device object of another node. -/
def backingStatus (s : State) (t : Nat) (b : ModelBody) : Status :=
  if b.backingKind = 1 then
    if b.backing ≥ 2 ^ 32 then .range
    else match regionStatus s t b.backing b.offset b.size with
      | .ok => (match memOf s b.backing with
          | some o => if o.kind = .host then .ok else .range
          | none => .gone)
      | st => st
  else if b.backingKind = 2 then
    if b.backing ≥ 2 ^ 44 ∨ b.backing / 2 ^ 32 = s.sys.nodeId ∨ hKind (b.backing % 2 ^ 32) ≠ 3 then .range else .ok
  else .range

/-- MODEL_CREATE (R556, R557, R529). -/
def effModelCreate (b : ModelBody) (t : Nat) (s : State) : Outcome :=
  let clash := s.obj.mems.any (fun x => match x.2.hb with
      | some h => x.2.table = t && x.2.state ≠ .free && b.va < h.b.va + h.b.length && h.b.va < b.va + b.size
      | none => false)
    || s.obj.models.any (fun x => x.2.table = t && b.va < x.2.b.va + x.2.b.size && x.2.b.va < b.va + b.size)
  let bad := b.va % 2 ^ 21 ≠ 0 || b.size % 2 ^ 21 ≠ 0 || b.size = 0 || b.size > 2 ^ 38 || b.va + b.size > 2 ^ 57 || clash
  let st := worst [if bad then .range else .ok, backingStatus s t b]
  if st ≠ .ok then done st s
  else
    let missing := (List.range ((b.va + b.size + 2 ^ 30 - 1) / 2 ^ 30 - b.va / 2 ^ 30)).any (fun i =>
      (levelTwo s t ((b.va / 2 ^ 30 + i) * 2 ^ 30)).isNone)
    if missing then done .range s
    else match takeSlot s 8 ((tenantOf s t).getD 0) t with
      | none => done .noResource s
      | some (i, s) =>
        let m : Model := { table := t, b := b, state := .discarded, blocks := [], pins := 0, lastUse := now s, loadFor := [],
                           again := false, discardFor := [], destroying := false, created := now s }
        let s := { s with obj := { s.obj with models := mapPut s.obj.models i m } }
        doneWith (modelHandle s i) (shootInternal t b.va (b.size / 4096) .internal (modelLeaves m false s))

/-- MODEL_CREATE. -/
def execModelCreate (c : Caller) (b : ModelBody) (s : State) : Result := gararn 0x711 .t c (withTable c (effModelCreate b)) s

/-- MODEL_LOAD (R558): answered when the model is resident, or when its load fails. -/
def effModelLoad (m : Fin 64) (h : Handle) (t : Nat) (s : State) : Outcome :=
  match modelCheck s t h with
  | .error st => done st s
  | .ok i =>
    match mapGet s.obj.models i with
    | none => done .gone s
    | some x =>
      let s := modelMod i (fun x => { x with lastUse := now s }) s
      let ask (s : State) : State := modelMod i (fun x => { x with loadFor := x.loadFor ++ [m] }) s
      match x.state with
      | .resident => done .ok s
      | .loading => later (ask s)
      | .discarding => later (modelMod i (fun x => { x with again := true }) (ask s))
      | .discarded => later (modelLoadStart i (ask s))

/-- MODEL_LOAD. -/
def execModelLoad (c : Caller) (model : Handle) (s : State) : Result :=
  gararn 0x712 .t c (withTable c (effModelLoad c.mbx model)) s

/-- Writes a model's weights to its blocks in order. -/
def modelFill (key : Nat) : List Nat → List Byte → State → State
  | [], _, s => s
  | b :: r, bs, s => modelFill key r (bs.drop (2 ^ 21)) (devWrite key b (bs.take (2 ^ 21)) s)

/-- MODEL_LOAD_DONE (R558 steps 4 and 5, R559): the copy of the weights from the backing has ended, with the bytes it brought; its writes go
under a NORMAL draw of class 0x5 (R38). -/
def execModelLoadDone (model : Handle) (ok : Bool) (data : List Byte) (s : State) : Result :=
  live s (fun s =>
    let i := hIdx model
    match mapGet s.obj.models i with
    | none => s
    | some m =>
      if modelHandle s i ≠ model ∨ m.state ≠ .loading ∨ m.blocks.isEmpty ∨ (ok ∧ data.length ≠ m.b.size) then s
      else if ok then
        let d := copyTake (modelInst i) false s
        if !d.1 then d.2
        else
          let s := copyFree (modelInst i) (modelFill (tableKey s m.table) m.blocks data d.2)
          let s := modelLeaves m true s
          let s := modelMod i (fun m => { m with state := .resident, lastUse := now s, loadFor := [] }) s
          let s := m.loadFor.foldl (fun s b => answer b.val { st := .ok } s) s
          handMoves m.table ((modelEntries s m).foldl (fun s e => camResolve e s) s)
      else handMoves m.table (modelLoadFail i .fault s))

/-- MODEL_DISCARD (R560): BUSY for a model that R558 excludes; answered when the blocks have returned. -/
def effModelDiscard (m : Fin 64) (h : Handle) (t : Nat) (s : State) : Outcome :=
  match modelCheck s t h with
  | .error st => done st s
  | .ok i =>
    match mapGet s.obj.models i with
    | none => done .gone s
    | some x =>
      let ask (s : State) : State := modelMod i (fun x => { x with discardFor := x.discardFor ++ [m] }) s
      match x.state with
      | .discarded => done .ok s
      | .loading => done .busy s
      | .discarding => later (ask s)
      | .resident => if modelVictim s i x then later (modelDrop i (ask s)) else done .busy s

/-- MODEL_DISCARD. -/
def execModelDiscard (c : Caller) (model : Handle) (s : State) : Result :=
  gararn 0x713 .t c (withTable c (effModelDiscard c.mbx model)) s

/-- MODEL_PIN (R560). -/
def effModelPin (h : Handle) (t : Nat) (s : State) : Outcome :=
  match modelCheck s t h with
  | .error st => done st s
  | .ok i =>
    match mapGet s.obj.models i with
    | none => done .gone s
    | some x => if x.pins ≥ 255 then done .range s else done .ok (modelMod i (fun x => { x with pins := x.pins + 1 }) s)

/-- MODEL_PIN. -/
def execModelPin (c : Caller) (model : Handle) (s : State) : Result := gararn 0x714 .t c (withTable c (effModelPin model)) s

/-- MODEL_UNPIN (R560). -/
def effModelUnpin (h : Handle) (t : Nat) (s : State) : Outcome :=
  match modelCheck s t h with
  | .error st => done st s
  | .ok i =>
    match mapGet s.obj.models i with
    | none => done .gone s
    | some x => if x.pins = 0 then done .range s else done .ok (modelMod i (fun x => { x with pins := x.pins - 1 }) s)

/-- MODEL_UNPIN. -/
def execModelUnpin (c : Caller) (model : Handle) (s : State) : Result := gararn 0x715 .t c (withTable c (effModelUnpin model)) s

/-- A DESTROY of a model (R560): its range is no longer firmware's, so waiting faults go to the driver; a resident model is
discarded. True when nothing more is to come. -/
def modelDestroy (i : Nat) (s : State) : State :=
  match mapGet s.obj.models i with
  | none => s
  | some m =>
    let s := modelMod i (fun m => { m with destroying := true, again := false, loadFor := [], discardFor := [] }) s
    let s := (m.loadFor ++ m.discardFor).foldl (fun s b => answer b.val { st := .gone } s) s
    let s := (modelEntries s m).foldl (fun s e => match mapGet s.trn.cam e with
      | some c => if c.serial.isNone then recordDeliver e s else s
      | none => s) s
    match m.state with
    | .resident => modelDrop i s
    | .loading => handMoves m.table (modelMod i (fun m => { m with state := .discarded, blocks := [] }) (anteDrop 5 (modelInst i) s))
    | _ => s

end Sys2Proof.Machine
end

