-- ==== Sys2Proof/Machine/FaultCam.lean ====
section
/-! DEFINITION. The end of shootdowns (R135 to R138), lookups in the fault CAM (R142 to R148), and the requests and commands on
host-backed ranges (R162 to R176). -/

namespace Sys2Proof.Machine

-- completion of shootdowns (R135 to R138) -------------------------------------------------------------------------------

/-- What a completed shootdown sets free. -/
def shootAnswer (x : Shootdown) (s : State) : State :=
  match x.who with
  | .queue r => commitCmd r s
  | .mailbox m => answer m.val { st := .ok } s
  | .move i k false => moveOn i k s
  | .move i k true => (match moveOf s i k with
      | some m => moveFinish m s
      | none => s)
  | .model i => modelDiscarded i s
  | .internal => s

/-- Completes a shootdown whose count is zero (R135). -/
def shootTry (id : Nat) (s : State) : State :=
  match s.trn.shoot.find? (fun x => x.id = id) with
  | some x => if x.over then shootAnswer x (trnMod (fun r => { r with shoot := r.shoot.erase x }) s) else s
  | none => s

/-- Changes a running shootdown. -/
def shootMod (id : Nat) (f : Shootdown → Shootdown) (s : State) : State :=
  trnMod (fun r => { r with shoot := r.shoot.map (fun x => if x.id = id then f x else x) }) s

/-- A cluster counts as acknowledged. -/
def shootAck (id cluster : Nat) (s : State) : State :=
  shootTry id (shootMod id (fun x => { x with clusters := x.clusters.filter (fun c => c ≠ cluster) }) s)

/-- MICRO_TLB_ACK (R136). -/
def execMicroTlbAck (id : Nat) (cluster : Fin 120) (s : State) : Result := live s (shootAck id cluster.val)

/-- SHOOTDOWN_DRAIN_END (R132, R135): no tile uses a removed translation any more. -/
def execShootdownDrainEnd (id : Nat) (s : State) : Result :=
  live s (fun s =>
    match s.trn.shoot.find? (fun x => x.id = id) with
    | some x => if drainOpen s x then s else shootTry id (shootMod id (fun x => { x with drain := false }) s)
    | none => s)

/-- SHOOTDOWN_ACK_TIMEOUT (R138): 100 microseconds after its invalidate the cluster's binding is FAILED. -/
def execShootdownAckTimeout (id : Nat) (cluster : Fin 120) (s : State) : Result :=
  live s (fun s =>
    match s.trn.shoot.find? (fun x => x.id = id) with
    | some x =>
      if cluster.val ∈ x.clusters ∧ now s ≥ x.started + 100000 then
        let s := irqRaise 9 (trnMod (fun r => { r with shootTimeout := true }) s)
        shootAck id cluster.val (bindFail cluster.val s)
      else s
    | none => s)

-- the CAM (R144 to R148) ------------------------------------------------------------------------------------------------

/-- The owner of the host-backed range in which an address of a table lies, on a hub that is its reader node (R166). A table of one member has
none. -/
def rangeOwner (s : State) (t va : Nat) : Option Nat :=
  match tableAt s t with
  | some tb => if (membersOf tb).any (fun n => n ≠ s.sys.nodeId) && (hostbackAt s t va).isNone then Config.readRange s t va else none
  | none => none

/-- Whether an address lies in a host-backed range, as its owner or as a reader node. -/
def inHostback (s : State) (t va : Nat) : Bool := (hostbackAt s t va).isSome || (rangeOwner s t va).isSome

/-- The page by which a fault is keyed. -/
def camPage (s : State) (t va : Nat) : Nat :=
  if inHostback s t va then va / 65536 * 65536 else va / 4096 * 4096

/-- The move that firmware makes for a fault in a host-backed range, if it handles the fault (R167). -/
def firmwareMove (s : State) (f : FaultReq) : Option (Nat × Nat × BlockState) :=
  match hostbackAt s f.table f.va with
  | none => none
  | some (i, _, h) =>
    let k := (f.va - h.b.va) / 65536
    let b := blockOf h k
    let isRead := f.access % 2 = 1
    if f.cause = .migrate then some (i, k, if isRead then readTarget h k else .device)
    else if f.cause = .permission ∧ b.state = .both ∧ !isRead ∧ (if f.access / 4 % 2 = 1 then h.b.permA else h.b.permW) then
      some (i, k, .device)
    else none

/-- Whether a request came from the host window. -/
def isWindow (f : FaultReq) : Bool := match f.source with
  | .hostWindow _ => true
  | _ => false

/-- A fault's request, as it waits on an entry. -/
def attachedOf (f : FaultReq) : Attached := { ctx := f.ctx, source := f.source, cmd := f.cmd, tag := f.tag }

/-- Whether a waiter is the request of a fault. -/
def attachedSame (f : FaultReq) (a : Attached) : Bool := a.ctx = f.ctx && a.source = f.source && a.cmd = f.cmd && a.tag = f.tag

/-- Attaches a fault to an entry (R145). One that meets a resolved entry resumes at once (R152); a request that this entry has already run
again is refused by what resolved it, and waits until the entry leaves. -/
def camAttach (i : Nat) (f : FaultReq) (s : State) : State :=
  let s := trnMod (fun r => { r with attachCnt := sat64 (r.attachCnt + 1) }) s
  if isWindow f then s
  else
    match mapGet s.trn.cam i with
    | none => s
    | some e =>
      let put (w : List Attached) (s : State) : State := trnMod (fun r => { r with cam := mapPut r.cam i { e with waiters := w } }) s
      if !e.resolved then ctxPark f.ctx (put (e.waiters ++ [attachedOf f]) s)
      else if e.waiters.any (attachedSame f) then
        camSweep (put (e.waiters.map (fun a => if attachedSame f a then { a with again := true } else a)) s)
      else
        attachedRerun (camSweep (ctxResume f.ctx (put (e.waiters ++ [attachedOf f]) s))) (attachedOf f)

/-- The owner to which a reader node forwards a fault (R166). -/
def forwardTo (s : State) (f : FaultReq) : Option Nat := if f.cause = .notValid then rangeOwner s f.table f.va else none

/-- Creates an entry for a fault with no match, and hands it to firmware, to the owner of the range or to the driver (R144, R153, R166,
R167). -/
def camCreate (i : Nat) (f : FaultReq) (s : State) : State :=
  let mv := firmwareMove s f
  let far := forwardTo s f
  let e : CamEntry := { table := f.table, page := camPage s f.table f.va, serial := none, fault := f,
                        hostback := inHostback s f.table f.va, noBacking := false, window := isWindow f, time := now s,
                        waiters := if isWindow f then [] else [attachedOf f], resolved := false, forwarded := far }
  let s := trnMod (fun r => { r with cam := mapPut r.cam i e, faultCnt := sat64 (r.faultCnt + 1) }) s
  let s := if isWindow f then s else ctxPark f.ctx s
  match mv, far with
  | some (o, k, target), _ => moveAsk o k target none none s
  | none, some n => (match tableAt s f.table with
    | some tb => ctrlSend n 0x806 tb.globalId 0 .ok (camPage s f.table f.va) s
    | none => s)
  | none, none =>
    match (if f.cause = .notValid then modelAt s f.table f.va else none) with
    | some m => modelFault i m s
    | none => recordDeliver i s

/-- A lookup in the CAM (R144, R147). An entry that is resolved and has not left yet counts towards the 256 of its table (DESIGN CHOICE,
notes/assumptions/143). -/
def camLookup (f : FaultReq) (s : State) : State :=
  let page := camPage s f.table f.va
  match s.trn.cam.find? (fun e => e.2.table = f.table && e.2.page = page) with
  | some e => camAttach e.1 f s
  | none =>
    let mine := (s.trn.cam.filter (fun e => e.2.table = f.table)).length
    match (if mine ≥ 256 then none else mapFree s.trn.cam 512) with
    | some i => camCreate i f s
    | none => if isWindow f then s else ctxPark f.ctx (trnMod (fun r => { r with overflow := r.overflow ++ [f] }) s)

/-- Whether a fault is looked up before another of the same cycle (R146): by source code, then by instance number. -/
def faultFirst (s : State) (f : FaultReq) : Bool :=
  s.trn.faultQ.all (fun g => decide (f.source.trnCode < g.source.trnCode)
    || decide (f.source.trnCode = g.source.trnCode) && decide (f.source.inst ≤ g.source.inst))

/-- FAULT_CAM_LOOKUP (R142 to R148): takes a presented fault. -/
def execFaultCamLookup (f : FaultReq) (s : State) : Result :=
  live s (fun s =>
    if f ∈ s.trn.faultQ ∧ faultFirst s f then camLookup f (trnMod (fun r => { r with faultQ := r.faultQ.erase f }) s) else s)

/-- Presents a unit's fault to the CAM. -/
def faultPresent (f : FaultReq) (s : State) : State := trnMod (fun r => { r with faultQ := r.faultQ ++ [f] }) s

/-- The owner of a range reports that a block has reached its target (R166): the entries that wait for it are resolved. -/
def forwardDone (n t va : Nat) (s : State) : State :=
  ((s.trn.cam.filter (fun e => e.2.table = t && e.2.page = va / 65536 * 65536 && e.2.forwarded = some n && !e.2.resolved)).map
    (fun e => e.1)).foldl (fun s i => camResolve i s) s

/-- A forwarded fault (R166): at the owner of the range the block is migrated as for a local MIGRATE fault; at a reader node it is the
owner's report. -/
def faultForwardTake (node globalId va : Nat) : State → State :=
  fromMember node globalId (fun t s =>
    match hostbackAt s t va with
    | some (i, _, h) => moveAsk i ((va - h.b.va) / 65536) (readTarget h ((va - h.b.va) / 65536)) none (some node) s
    | none => forwardDone node t va s)

/-- FAULT_FORWARD (R166, R507, R521). -/
def execFaultForward (src : CtrlFrom) (globalId va : Nat) (s : State) : Result :=
  ctrlArrive src (ctrlCore (.faultForward src.node globalId va) (faultForwardTake src.node globalId va)) s

-- HOSTBACK_SET, HOSTBACK_CLEAR, ADVISE, PREFETCH ------------------------------------------------------------------------

/-- Whether two ranges of bytes overlap. -/
def overlap (a n b m : Nat) : Bool := a < b + m && b < a + n

/-- HOSTBACK_SET (R162 to R164, R525). A range of no bytes fails RANGE (DESIGN CHOICE, notes/assumptions/145). -/
def effHostbackSet (b : HostbackBody) (t : Nat) (s : State) : Outcome :=
  let ten := (tenantOf s t).getD 0
  let clash := s.obj.mems.any (fun x => match x.2.hb with
    | some h => x.2.table = t && x.2.state ≠ .free && overlap b.va b.length h.b.va h.b.length
    | none => false)
  let noTable := (List.range ((b.va + b.length + 2 ^ 21 - 1) / 2 ^ 21 - b.va / 2 ^ 21)).any (fun i =>
    (levelOne s t ((b.va / 2 ^ 21 + i) * 2 ^ 21)).isNone)
    || b.readers.any (fun n => Config.farLacks s n t b.va b.length)
  let bad := b.va % 65536 ≠ 0 || b.length % 65536 ≠ 0 || b.length = 0 || b.length > 2 ^ 38 || b.hostIova % 65536 ≠ 0
    || b.va + b.length > 2 ^ 57 || clash || (b.permA && !b.permW) || (b.permW && !b.permR) || b.readers.length > 8
  let pool := match checkOwned s ten t 3 b.pool with
    | .ok => (match memOf s b.pool with
        | some o => if o.state ≠ .live then Status.gone else if o.kind ≠ .device then .range else .ok
        | none => .gone)
    | st => st
  let st := worst [pool, if bad then .range else .ok]
  if st ≠ .ok then done st s
  else if noTable then done .range s
  else match takeSlot s 3 ten t with
    | none => done .noResource s
    | some (i, s) =>
      let h : Hostback := { b := b, home := 0, shareReads := false, blocks := [] }
      let o : MemObj := { table := t, kind := .hostback, extents := [], state := .live, hb := some h, created := now s }
      let s := { s with obj := { s.obj with mems := mapPut s.obj.mems i o } }
      let s := (List.range (b.length / 65536)).foldl (fun s k => blockLeaves t h k .host true s) s
      doneWith (liveHandle s 3 i) s

/-- HOSTBACK_SET. -/
def execHostbackSet (c : Caller) (b : HostbackBody) (s : State) : Result := gararn 0x205 .t c (withTable c (effHostbackSet b)) s

/-- Releases a host-backed range (R174): its entries fail GONE without loss, queued moves go, and its leaves have V = 0. -/
def hbRelease (i : Nat) (s : State) : State :=
  match (mapGet s.obj.mems i).bind (fun o => o.hb.map (fun h => (o, h))) with
  | none => s
  | some (o, h) =>
    let inside (e : CamEntry) : Bool := e.table = o.table && h.b.va ≤ e.page && e.page < h.b.va + h.b.length
    let es := s.trn.cam.filter (fun e => inside e.2 && !e.2.resolved)
    let drop := s.trn.moves.filter (fun m => m.object = i && !m.running)
    let s := trnMod (fun r => { r with moves := r.moves.filter (fun m => !(m.object = i && !m.running)) }) s
    let s := drop.foldl (fun s m => match m.forCmd with
      | some r => failCmd r .gone 0 s
      | none => s) s
    let s := es.foldl (fun s e =>
      let s := trnMod (fun r => { r with cam := mapPut r.cam e.1 { e.2 with resolved := true, waiters := [] } }) s
      let s := e.2.waiters.foldl (fun s a => requestEnd .gone 0 a s) s
      e.2.waiters.foldl (fun s a => ctxResume a.ctx s) s) s
    let g := match tableAt s o.table with
      | some tb => tb.globalId
      | none => 0
    let s := (List.range (h.b.length / 65536)).foldl (fun s k =>
      let va := h.b.va + k * 65536
      (policyOf h k).readers.foldl (fun s n => emit (.leaves n g va noLeaves) s) (leavesWrite o.table va noLeaves s)) s
    let s := shootInternal o.table h.b.va (h.b.length / 4096) .internal s
    let s := { s with obj := { s.obj with mems := mapMod s.obj.mems i (fun o => { o with hb := none, state := .freePending }) } }
    memRelease i (camSweep s)

/-- Whether moves of a range run. -/
def hbMoving (s : State) (i : Nat) : Bool := s.trn.moves.any (fun m => m.object = i && m.running)

/-- HOSTBACK_CLEAR (R174): answered at once, or when the running moves have ended. -/
def effHostbackClear (m : Fin 64) (h : Handle) (t : Nat) (s : State) : Outcome :=
  match checkOwned s ((tenantOf s t).getD 0) t 3 h with
  | .ok =>
    let i := hIdx h
    match mapGet s.obj.mems i with
    | none => done .gone s
    | some o =>
      if o.state ≠ .live then done .gone s
      else if o.kind ≠ .hostback then done .range s
      else if hbMoving s i then
        later { s with obj := { s.obj with
          mems := mapPut s.obj.mems i { o with state := .freePending }
          dying := s.obj.dying ++ [{ h := h, mbx := m, accepted := now s }] } }
      else done .ok (hbRelease i s)
  | st => done st s

/-- HOSTBACK_CLEAR. -/
def execHostbackClear (c : Caller) (object : Handle) (s : State) : Result :=
  gararn 0x206 .t c (withTable c (effHostbackClear c.mbx object)) s

/-- The range of a command within one host-backed range of its table. A range of no bytes is none (DESIGN CHOICE,
notes/assumptions/145). -/
def hbRange (s : State) (t va len : Nat) : Option (Nat × MemObj × Hostback) :=
  match hostbackAt s t va with
  | some (i, o, h) => if len > 0 && va + len ≤ h.b.va + h.b.length then some (i, o, h) else none
  | none => none

/-- The blocks of a part of a host-backed range. -/
def rangeBlocks (h : Hostback) (va len : Nat) : List Nat := (List.range (len / 65536)).map (fun j => (va - h.b.va) / 65536 + j)

/-- The policy that an ADVISE leaves (R167): parts outside its mask keep their values. -/
def policyNew (b : AdviseBody) (p : Policy) : Policy :=
  { home := if b.mask % 2 = 1 then b.home else p.home
    shareReads := if b.mask / 2 % 2 = 1 then b.shareReads = 1 else p.shareReads
    readers := if b.mask / 4 % 2 = 1 then b.nodes else p.readers }

/-- An ADVISE acts on one block of its range (R167, R168): its policy changes, a BOTH block whose copies are shared no more is DEVICE, its
leaves are written anew, and on nodes that no longer read it they have V = 0. -/
def adviseBlock (i t g : Nat) (b : AdviseBody) (k : Nat) (s : State) : State :=
  match (mapGet s.obj.mems i).bind (fun o => o.hb) with
  | none => s
  | some h =>
    let p := policyOf h k
    let p' := policyNew b p
    let x := blockOf h k
    let x' : Block := if x.state = .both && b.mask / 2 % 2 = 1 && b.shareReads = 0 then { x with state := .device } else x
    let h' : Hostback := { h with policies := mapPut h.policies k p', blocks := if x' = x then h.blocks else mapPut h.blocks k x' }
    let s := hbMod i (fun _ => h') s
    let s := if x'.state = .moving then s else blockLeaves t h' k x'.state true s
    (p.readers.filter (fun n => n ∉ p'.readers)).foldl (fun s n => emit (.leaves n g (h.b.va + k * 65536) noLeaves) s) s

/-- ADVISE (R167, R168): the policy of its range changes, the leaves it affects are rewritten and shot down, and the command completes with
the last shootdown. A node that it adds and that lacks a level-1 table makes it fail RANGE. -/
def execAdvise (r : CmdRef) (s : State) : Result :=
  live s (withCmd r (fun q e s =>
    match e.d.body with
    | .advise b =>
      let s := cmdBegins r s
      let bit (k : Nat) : Bool := b.mask / 2 ^ k % 2 = 1
      let bad := b.va % 65536 ≠ 0 || b.length % 65536 ≠ 0 || b.mask ≥ 8 || (bit 0 && b.home > 2) || (bit 1 && b.shareReads > 1)
        || (bit 2 && b.readerCount > 8)
      (match (if bad then none else hbRange s q.table b.va b.length) with
       | none => failCmd r .range 0 s
       | some (i, o, h) =>
         let ks := rangeBlocks h b.va b.length
         let added := b.nodes.filter (fun n => ks.any (fun k => n ∉ (policyOf h k).readers))
         if bit 2 && added.any (fun n => Config.farLacks s n o.table b.va b.length) then failCmd r .range 0 s
         else if b.mask = 0 then commitCmd r s
         else
           let g := match tableAt s o.table with
             | some tb => tb.globalId
             | none => 0
           shootInternal o.table b.va (b.length / 4096) (.queue r) (ks.foldl (fun s k => adviseBlock i o.table g b k s) s))
    | _ => s))

/-- BACKGROUND_ACTION (R167): the next HOST block of a range that is kept on the device moves there. -/
def execBackgroundAction (object : Handle) (s : State) : Result :=
  live s (fun s =>
    let i := hIdx object
    match mapGet s.obj.mems i with
    | none => s
    | some o =>
      match o.hb with
      | none => s
      | some h =>
        if o.state = .live ∧ liveHandle s 3 i = object ∧ coreRuns s then
          match (List.range (h.b.length / 65536)).find? (fun k => (policyOf h k).home = 2 &&
            (blockOf h k).state = .host && !s.trn.moves.any (fun m => m.object = i && m.block = k)) with
          | some k => moveAsk i k (readTarget h k) none none s
          | none => s
        else s)

/-- PREFETCH (R169, R170). -/
def execPrefetch (r : CmdRef) (s : State) : Result :=
  live s (withCmd r (fun q e s =>
    match e.d.body with
    | .prefetch va len target flags =>
      let s := cmdBegins r s
      let bad := va % 65536 ≠ 0 || len % 65536 ≠ 0 || len > 2 ^ 38 || target = 0 || target > 2 || flags > 1
      (match (if bad then none else hbRange s q.table va len) with
       | none => failCmd r .range 0 s
       | some (i, _, h) =>
         let to_ : BlockState := if target = 1 then .host else if flags = 1 then .both else .device
         let ks := (rangeBlocks h va len).filter (fun k => !atTarget (blockOf h k).state to_)
         if ks.isEmpty then commitCmd r s else ks.foldl (fun s k => moveAsk i k to_ (some r) none s) s)
    | _ => s))

/-- A running block move is aborted under a RECOVERY draw of class 0x5, which it returns (R39, R175). -/
def moveAbort (m : BlockMove) (s : State) : State := copyFree (blockInst m) (copyTake (blockInst m) true (copyFree (blockInst m) s)).2

/-- Every entry of a destroyed table is freed, none of its contexts resumes, its overflow list goes and its block moves are aborted (R175);
contexts of other tables that overflowed a full CAM run again (R147). -/
def camForget (t : Nat) (s : State) : State :=
  let mine (m : BlockMove) : Bool := match mapGet s.obj.mems m.object with
    | some o => o.table = t
    | none => true
  let runs := s.trn.moves.filter (fun m => mine m && m.running)
  let s := trnMod (fun r => { r with
    overflow := r.overflow.filter (fun f => f.table ≠ t)
    moves := r.moves.filter (fun m => !mine m) }) s
  camFree (fun e => e.table = t) (runs.foldl (fun s m => moveAbort m s) s)

end Sys2Proof.Machine
end

