-- ==== Sys2Proof/Machine/Steps.lean ====
section
/-! DEFINITION. Serving steps (R544 to R555): opening, killing and rerunning a step, publication and pre-emption. -/

namespace Sys2Proof.Machine

/-- STEP_OPEN (R544 to R548): the failures of R545, else the previous part closes and the next opens. -/
def effStepOpen (b : StepBody) (t : Nat) (s : State) : Outcome :=
  match tableAt s t with
  | none => done .gone s
  | some tb =>
    let ten := tb.tenant
    let leads := tb.lead = s.sys.nodeId
    let ctr : List Status :=
      if leads then
        if b.commitCtr = 0 then [.range]
        else [checkOwned s ten t 6 b.commitCtr,
          if counterCheck s (some ten) b.commitCtr = .lost then .lost else .ok,
          if (counterOf s (hIdx b.commitCtr)).value ≥ b.commitValue then .range else .ok]
      else [if b.commitCtr ≠ 0 ∨ b.commitValue ≠ 0 then .range else .ok]
    let mods := b.models.map (fun h => match modelCheck s t h with
      | .ok _ => Status.ok
      | .error st => st)
    let st := worst ([if b.step ≠ tb.step.last + 1 then .range else .ok, if b.models.length > 16 then .range else .ok,
                      if tb.step.onHold then .busy else .ok] ++ ctr ++ mods)
    if st ≠ .ok then done st s
    else
      let p : StepPart := { last := b.step, isOpen := true, state := .open_, ctr := b.commitCtr, value := b.commitValue,
                            models := b.models }
      let s := tableMod t (fun tb => { tb with step := p }) s
      let s := (queuesOfTable s t).foldl (fun s q => queueMod q (fun x => { x with rewind := none, sawStep := false }) s) s
      done .ok (b.models.foldl (fun s h => modelMod (hIdx h) (fun m => { m with lastUse := now s }) s) s)

/-- STEP_OPEN. -/
def execStepOpen (c : Caller) (b : StepBody) (s : State) : Result := gararn 0x700 .t c (withTable c (effStepOpen b)) s

/-- The answer to a kill that the lead hub's arbiter takes (R547, R550). -/
def killStatus (tb : Table) (step : Nat) : Status :=
  if tb.step.last ≠ step ∨ step = 0 then .gone
  else if tb.step.state = .committed then .alreadyComplete
  else if tb.step.isOpen && (tb.step.state = .open_ || tb.step.onHold) then .ok
  else .gone

/-- A kill at the lead hub: its status, and the state after. -/
def killAtLead (t step action : Nat) (s : State) : Status × State :=
  match tableAt s t with
  | none => (.gone, s)
  | some tb =>
    match killStatus tb step with
    | .ok => (.ok, stepKillLead t action s)
    | st => (st, s)

/-- STEP_KILL (R550): decided here when this hub leads the table, and by the lead hub otherwise. -/
def effStepKill (m : Fin 64) (step action t : Nat) (s : State) : Outcome :=
  if action ≠ 1 ∧ action ≠ 2 then done .range s
  else match tableAt s t with
    | none => done .gone s
    | some tb =>
      if tb.lead = s.sys.nodeId then
        let r := killAtLead t step action s
        done r.1 r.2
      else
        let a : CtrlAsk := { code := 0x808, mbx := m, dst := tb.lead, globalId := tb.globalId, seat := step, tenant := tb.tenant,
                             keySource := 0 }
        later (ctrlSend tb.lead 0x808 tb.globalId step .ok action
          { s with bnd := { s.bnd with asked := s.bnd.asked ++ [a] } })

/-- STEP_KILL. -/
def execStepKill (c : Caller) (step action : Nat) (s : State) : Result :=
  gararn 0x701 .ot c (withTable c (effStepKill c.mbx step action)) s

/-- The queue entries of a context's saved state (R420). -/
def savedQueues (s : State) (c : Handle) : List Byte :=
  ((queuesOfCtx s c).map (fun h => match queueOf s h with
    | some q => leBytes 4 h ++ leBytes 4 q.fetchPos ++ leBytes 4 q.retire ++ leBytes 4 (QueueState.code q.state)
    | none => [])).flatten

/-- Saves a context (R419, R420): its registrations leave the slots, and its saved state is written. -/
def ctxSaveAll (c : Handle) (s : State) : State :=
  match ctxOf s c with
  | none => s
  | some x =>
    if x.state ≠ .active ∧ x.state ≠ .parked then s
    else
      let parked := x.state = .parked
      let s := ctxSave c (ctxMod c (fun x => { x with state := .saved, wasParked := parked }) s)
      let head := leBytes 4 c ++ leBytes 4 (if parked then 2 else 1) ++ leBytes 8 (now s)
      let s := objWriteHold x.table x.saveObj x.saveOff (head ++ List.replicate (4096 - head.length) 0) s
      let qs := savedQueues s c
      if qs.isEmpty then s else objWriteHold x.table x.saveObj (x.saveOff + 0x1000) qs s

/-- Whether a context's save area reads POISONED where its state was written (R448). -/
def savePoisoned (s : State) (x : Ctx) : Bool :=
  let bad (off len : Nat) : Bool := match (memOf s x.saveObj).bind (fun o => extentAt o.extents (x.saveOff + off)) with
    | some a => (devRead s (tableKey s x.table) a len).1 = .poisoned
    | none => false
  bad 0 16 || bad 0x20000 (32 + 32 * x.saved.length)

/-- Restores a saved context (R370, R419, R448): to ACTIVE, or to PARKED; a poisoned save area loses it. -/
def ctxRestoreAll (c : Handle) (s : State) : State :=
  match ctxOf s c with
  | none => s
  | some x =>
    if x.state ≠ .saved then s
    else if savePoisoned s x then contextLose c s
    else if x.wasParked then ctxMod c (fun x => { x with state := .parked, wasParked := false }) s
    else ctxRestore c s

/-- Holds a table's dispatch and saves its contexts at this hub (R555). -/
def preemptHere (t : Nat) (s : State) : State :=
  (ctxsOfTable s t).foldl (fun s c => ctxSaveAll c s) (tableMod t (fun tb => { tb with preempted := true }) s)

/-- Restores a table's contexts at this hub (R555). -/
def resumeHere (t : Nat) (s : State) : State :=
  (ctxsOfTable s t).foldl (fun s c => ctxRestoreAll c s) (tableMod t (fun tb => { tb with preempted := false }) s)

/-- The contexts of a table whose queues hold entries of the step. -/
def stepContexts (s : State) (t : Nat) : List Handle :=
  (ctxsOfTable s t).filter (fun c => s.obj.queues.any (fun x => x.2.ctx = c && (x.2.rewind.isSome || x.2.entries.any (fun e => e.d.step))))

/-- Parked contexts leave every waiting list when a kill ends what they wait for (R149). -/
def contextsLeave (cs : List Handle) (s : State) : State :=
  cs.foldl (fun s c => match ctxOf s c with
    | some x => if x.state = .parked then camSweep (ctxResume c (ctxLeave c s)) else s
    | none => s) s

/-- STEP_ABORT at a hub (R550, R551, R555). From another member to the lead hub it presents a kill; to a member it acts on the
open or held part, and any other step is answered GONE. The answer goes back to its sender. -/
def execStepAbort (src : CtrlFrom) (globalId step action : Nat) (s : State) : Result :=
  ctrlArrive src (fromMember src.node globalId (fun t s =>
    match tableAt s t with
    | none => s
    | some tb =>
      let r : Status × State :=
        if tb.lead = s.sys.nodeId then
          if action = 1 ∨ action = 2 then killAtLead t step action s else (.range, s)
        else if tb.step.last = step && step ≠ 0 && tb.step.isOpen then
          let cs := stepContexts s t
          let s := stepAct t action s
          let s := if action = 1 then contextsLeave cs s else s
          (.ok, if action = 3 then preemptHere t s else if action = 4 then resumeHere t s else s)
        else (.gone, s)
      ctrlSend src.node 0x808 globalId step r.1 0 r.2)) s

/-- The response body of STEP_STATUS (R529). -/
def stepBody (p : StepPart) : List Byte :=
  let code := match p.state with
    | .open_ => 1 | .committed => 2 | .heldStep => 3 | .ended => 4
  leBytes 4 p.last ++ leBytes 1 code ++ List.replicate 3 0 ++ leBytes 4 p.reruns ++ List.replicate 4 0 ++ leBytes 8 p.commitTime

/-- STEP_STATUS (R554, R529): of the last step opened on this hub. -/
def effStepStatus (step t : Nat) (s : State) : Outcome :=
  match tableAt s t with
  | none => done .gone s
  | some tb => if step ≠ tb.step.last ∨ step = 0 then done .gone s else doneBody (stepBody tb.step) s

/-- STEP_STATUS. -/
def execStepStatus (c : Caller) (step : Nat) (s : State) : Result :=
  gararn 0x702 .ot c (withTable c (effStepStatus step)) s

/-- Notes the members whose answer a pre-emption or a resumption waits for; it is answered at once when there is none. -/
def askMembers (code : Nat) (m : Fin 64) (tb : Table) (s : State) : Outcome :=
  let others := (membersOf tb).filter (fun n => n ≠ s.sys.nodeId)
  let asks : List CtrlAsk := others.map (fun n =>
    { code := code, mbx := m, dst := n, globalId := tb.globalId, seat := tb.step.last, tenant := tb.tenant, keySource := 0 })
  if others.isEmpty then done .ok s else later { s with bnd := { s.bnd with asked := s.bnd.asked ++ asks } }

/-- PREEMPT (R555): the open step is killed with HOLD and every member saves the table's contexts; with no open step only this
hub's dispatch is held and its contexts saved. -/
def effPreempt (m : Fin 64) (t : Nat) (s : State) : Outcome :=
  match tableAt s t with
  | none => done .gone s
  | some tb =>
    if tb.step.isOpen && tb.step.state = .open_ && tb.lead = s.sys.nodeId then
      askMembers 0x703 m tb (preemptHere t (stepKillLead t 3 s))
    else if tb.step.isOpen && tb.step.state = .committed then done .ok (tableMod t (fun tb => { tb with preempted := true }) s)
    else done .ok (preemptHere t s)

/-- PREEMPT. -/
def execPreempt (c : Caller) (s : State) : Result := gararn 0x703 .o c (withTable c (effPreempt c.mbx)) s

/-- Whether a table has a LOST context on this hub. -/
def hasLost (s : State) (t : Nat) : Bool := s.obj.ctxs.any (fun x => x.2.table = t && x.2.state = .lost)

/-- RESUME (R449, R555): the contexts are restored, and a held step runs again on every member. A LOST context cannot be restored: the
others are, and the request fails LOST (DESIGN CHOICE, notes/assumptions/154). -/
def effResume (m : Fin 64) (t : Nat) (s : State) : Outcome :=
  match tableAt s t with
  | none => done .gone s
  | some tb =>
    let held := tb.step.onHold && tb.lead = s.sys.nodeId
    let s := resumeHere t s
    let s' := if held then stepKillLead t 4 s else s
    if hasLost s t then done .lost s'
    else if held then askMembers 0x704 m tb s'
    else done .ok s'

/-- RESUME. -/
def execResume (c : Caller) (s : State) : Result := gararn 0x704 .o c (withTable c (effResume c.mbx)) s

/-- PUBLISH (R549, R529): P is kept for every block of the range, its leaves are rewritten here and on the reader nodes, and the
answer follows the shootdown. -/
def effPublish (m : Fin 64) (va len p t : Nat) (s : State) : Outcome :=
  if va % 65536 ≠ 0 ∨ len % 65536 ≠ 0 ∨ p > 1 then done .range s
  else match hbRange s t va len with
    | none => done .range s
    | some (i, _, h) =>
      let first := (va - h.b.va) / 65536
      let ks := (List.range (len / 65536)).map (fun j => first + j)
      let h' : Hostback := { h with blocks := ks.foldl (fun bs k => mapUp bs k {} (fun b => { b with p := p = 1 })) h.blocks }
      let s := hbMod i (fun _ => h') s
      let s := ks.foldl (fun s k =>
        let st := (blockOf h' k).state
        if st = .moving then s else blockLeaves t h' k st true s) s
      later (shootInternal t va (len / 4096) (.mailbox m) s)

/-- PUBLISH. -/
def execPublish (c : Caller) (va length p : Nat) (s : State) : Result :=
  gararn 0x705 .t c (withTable c (effPublish c.mbx va length p)) s

end Sys2Proof.Machine
end

