-- ==== Sys2Proof/Machine/Objects.lean ====
section
/-! DEFINITION. Objects (R412 to R427, R448 to R457, R527): contexts, queues, memory objects, events, counters and channels are made
and destroyed; doorbell pages and counter windows are given and bound (R611); mirrors and table events are set. -/

namespace Sys2Proof.Machine

-- handles of objects that still live ------------------------------------------------------------------------------------

/-- Whether the object that a checked handle names has been destroyed or is being destroyed (R415). -/
def objDying (s : State) (h : Handle) : Bool :=
  let i := hIdx h
  match hKind h with
  | 1 => (match mapGet s.obj.ctxs i with | some x => x.state = .destroying | none => true)
  | 2 => (match mapGet s.obj.queues i with | some x => x.state = .destroying | none => true)
  | 3 => (match mapGet s.obj.mems i with | some x => x.state ≠ .live | none => true)
  | 4 => (match mapGet s.obj.events i with | some x => x.destroying | none => true)
  | 5 => (match mapGet s.tables i with | some x => x.destroying | none => true)
  | 6 => (counterOf s i).state = .free || s.obj.dying.any (fun d => d.h = h)
  | 7 => (match mapGet s.obj.channels i with | some x => x.destroying | none => true)
  | 8 => (match mapGet s.obj.models i with | some x => x.destroying | none => true)
  | _ => true

/-- A handle that must name a live object of a kind of the table (R413, R415). -/
def ownedStatus (s : State) (t kind : Nat) (h : Handle) : Status :=
  match checkOwned s ((tenantOf s t).getD 0) t kind h with
  | .ok => if objDying s h then .gone else .ok
  | st => st

/-- An event that may be left null. -/
def eventStatus (s : State) (t : Nat) (h : Handle) : Status := if h = 0 then .ok else ownedStatus s t 4 h

/-- The context of a create request: nothing more is made in a LOST context (R419). -/
def ctxStatus (s : State) (t : Nat) (h : Handle) : Status :=
  match ownedStatus s t 1 h with
  | .ok => (match ctxOf s h with
      | some x => if x.state = .lost then .lost else .ok
      | none => .gone)
  | st => st

/-- A power of two from 64 to 65,536. -/
def ringSize (n : Nat) : Bool := (List.range 11).any (fun k => n = 2 ^ (6 + k))

/-- A slot or window of a doorbell page of the table (R611). -/
def pageStatus (s : State) (t page slot : Nat) : Status :=
  firstFailure [(mapGet s.obj.pages page ≠ some t, .denied), (decide (page > 4095) || decide (slot > 127), .range)]

/-- A doorbell slot in a page of the table that is not bound (R611). -/
def dbStatus (s : State) (t page slot : Nat) : Status :=
  worse (pageStatus s t page slot) (if (mapGet s.obj.dbSlots (page * 128 + slot)).isSome then .busy else .ok)

/-- Whether an index slot of a kind is free for a new object. -/
def roomStatus (s : State) (kind : Nat) : Status := if (takeSlot s kind 0 0).isSome then .ok else .noResource

/-- A region that must be aligned, in a memory object (R428, R450, R612). -/
def ringStatus (s : State) (t : Nat) (h : Handle) (off len : Nat) : Status :=
  worst [regionStatus s t h off len, if off % 4096 ≠ 0 then .range else .ok]

-- creation --------------------------------------------------------------------------------------------------------------

/-- CTX_CREATE (R420, R527). -/
def effCtxCreate (obj : Handle) (off t : Nat) (s : State) : Outcome :=
  let dev := match memOf s obj with
    | some o => if o.kind = .device then Status.ok else .range
    | none => .ok
  let st := worst [regionStatus s t obj off (2 ^ 20), dev, if off % 65536 ≠ 0 then .range else .ok]
  if st ≠ .ok then done st s
  else match takeSlot s 1 ((tenantOf s t).getD 0) t with
    | none => done .noResource s
    | some (i, s) =>
      let x : Ctx := { table := t, saveObj := obj, saveOff := off, state := .active, wasParked := false, saved := [], created := now s }
      let s := { s with obj := { s.obj with ctxs := mapPut s.obj.ctxs i x } }
      doneWith (liveHandle s 1 i) s

/-- CTX_CREATE. -/
def execCtxCreate (c : Caller) (saveObject : Handle) (saveOffset : Nat) (s : State) : Result :=
  gararn 0x500 .t c (withTable c (effCtxCreate saveObject saveOffset)) s

/-- QUEUE_CREATE (R421, R428, R527, R611, R612): a queue begins ACTIVE at position 0, or PAUSED when a ring of it lies in host memory that no
port can reach. -/
def effQueueCreate (b : QueueBody) (t : Nat) (s : State) : Outcome :=
  let full := (s.obj.queues.filter (fun x => x.2.ctx = b.context)).length ≥ 1024
  let st := worst [ctxStatus s t b.context, ringStatus s t b.ringObject b.ringOffset (b.size * 128),
                   ringStatus s t b.cplObject b.cplOffset (b.size * 16), eventStatus s t b.event, dbStatus s t b.dbPage b.dbSlot,
                   if ringSize b.size then .ok else .range, if full then .noResource else .ok, roomStatus s 2]
  if st ≠ .ok then done st s
  else match takeSlot s 2 ((tenantOf s t).getD 0) t with
    | none => done .noResource s
    | some (i, s) =>
      let q : Queue := {
        ctx := b.context
        table := t
        size := b.size
        ringObj := b.ringObject
        ringOff := b.ringOffset
        cplObj := b.cplObject
        cplOff := b.cplOffset
        dbPage := b.dbPage
        dbSlot := b.dbSlot
        event := b.event
        cookie := b.cookie
        state := if objReachable s t b.ringObject && objReachable s t b.cplObject then .active else .paused
        err := 0
        fetchPos := 0
        tail := 0
        retire := 0
        entries := []
        outcomes := []
        namesPend := none
        rereads := 0
        rereadAt := none
        rewind := none
        sawStep := false
        retryAt := none
        abortedAt := []
        created := now s }
      let h := liveHandle s 2 i
      let s := { s with obj := { s.obj with
        queues := mapPut s.obj.queues i q
        dbSlots := mapPut s.obj.dbSlots (b.dbPage * 128 + b.dbSlot) h } }
      doneWith h s

/-- QUEUE_CREATE. -/
def execQueueCreate (c : Caller) (b : QueueBody) (s : State) : Result := gararn 0x501 .t c (withTable c (effQueueCreate b)) s

/-- Whether an extent lies wholly in slabs bound to the table on this hub (R424). -/
def extentBound (s : State) (t base len : Nat) : Bool :=
  (List.range (len / 65536)).all (fun i =>
    let pa := base + 65536 * i
    localDevice s pa && slabOwner s pa = some t)

/-- Whether two lists of extents meet. -/
def extentsMeet (a b : List (Nat × Nat)) : Bool := a.any (fun x => b.any (fun y => x.1 < y.1 + y.2 && y.1 < x.1 + x.2))

/-- The checks of a DEVICE object (R424). -/
def deviceStatus (s : State) (t : Nat) (es : List (Nat × Nat)) : Status :=
  let bad := es.any (fun x => x.1 % 65536 ≠ 0 || x.2 % 65536 ≠ 0 || x.2 = 0 || !extentBound s t x.1 x.2)
  let met (p : MemObj → Bool) : Bool := s.obj.mems.any (fun x => x.2.kind = .device && p x.2 && extentsMeet es x.2.extents)
  worst [if bad || met (fun o => o.state = .live && o.table = t) then .range else .ok,
         if met (fun o => o.state = .freePending || o.state = .refill) then .busy else .ok]

/-- MEM_CREATE (R424, R527). -/
def effMemCreate (kind : Nat) (es : List (Nat × Nat)) (t : Nat) (s : State) : Outcome :=
  let st : Status :=
    if kind = 1 then (if es.length = 0 ∨ es.length > 64 then .range else deviceStatus s t es)
    else if kind = 2 then
      match es with
      | [(base, len)] =>
        if base % 4096 ≠ 0 ∨ len % 4096 ≠ 0 ∨ len = 0 ∨ len > 2 ^ 40 ∨ base + len > 2 ^ 64 then .range else .ok
      | _ => .range
    else .range
  let st := worse st (roomStatus s 3)
  if st ≠ .ok then done st s
  else match takeSlot s 3 ((tenantOf s t).getD 0) t with
    | none => done .noResource s
    | some (i, s) =>
      let o : MemObj := { table := t, kind := if kind = 1 then .device else .host, extents := es, state := .live, hb := none, created := now s }
      doneWith (liveHandle s 3 i) { s with obj := { s.obj with mems := mapPut s.obj.mems i o } }

/-- MEM_CREATE. -/
def execMemCreate (c : Caller) (kind : Nat) (extents : List (Nat × Nat)) (s : State) : Result :=
  gararn 0x502 .t c (withTable c (effMemCreate kind extents)) s

/-- EVENT_CREATE (R450, R527). -/
def effEventCreate (b : EventBody) (t : Nat) (s : State) : Outcome :=
  let bad := !ringSize b.size || (b.vector > 2047 && b.vector ≠ 0xFFFF) || b.moderation > 65535
  let st := worst [ringStatus s t b.ringObject b.ringOffset (b.size * 32), dbStatus s t b.dbPage b.dbSlot,
                   if bad then .range else .ok, roomStatus s 4]
  if st ≠ .ok then done st s
  else match takeSlot s 4 ((tenantOf s t).getD 0) t with
    | none => done .noResource s
    | some (i, s) =>
      let e : Event := {
        table := t
        ringObj := b.ringObject
        ringOff := b.ringOffset
        size := b.size
        vector := b.vector
        moderation := b.moderation
        dbPage := b.dbPage
        dbSlot := b.dbSlot
        prod := 0
        cons := 0
        errRange := false
        dropped := 0
        ring := []
        heldFrom := 0
        lastMsg := none
        msgDue := false
        destroying := false
        created := now s }
      let h := liveHandle s 4 i
      let s := { s with obj := { s.obj with
        events := mapPut s.obj.events i e
        dbSlots := mapPut s.obj.dbSlots (b.dbPage * 128 + b.dbSlot) h } }
      doneWith h s

/-- EVENT_CREATE. -/
def execEventCreate (c : Caller) (b : EventBody) (s : State) : Result := gararn 0x503 .t c (withTable c (effEventCreate b)) s

/-- COUNTER_CREATE (R332, R527): LIVE with its initial value. -/
def effCounterCreate (ctx : Handle) (v t : Nat) (s : State) : Outcome :=
  let st := worst [ctxStatus s t ctx, if v ≥ 2 ^ 64 - 1 then .range else .ok]
  if st ≠ .ok then done st s
  else match takeSlot s 6 ((tenantOf s t).getD 0) t with
    | none => done .noResource s
    | some (i, s) =>
      let k : Counter := { state := .live, value := v, table := t, ctx := ctx, mirror := none }
      doneWith (liveHandle s 6 i) { s with tck := { s.tck with counters := mapPut s.tck.counters i k } }

/-- COUNTER_CREATE. -/
def execCounterCreate (c : Caller) (context : Handle) (initial : Nat) (s : State) : Result :=
  gararn 0x504 .t c (withTable c (effCounterCreate context initial)) s

/-- The engines that serve a kind of channel. -/
def enginePool : ChanKind → List Nat
  | .hostIn | .device => List.range 16
  | .hostOut => (List.range 16).map (fun i => 16 + i)
  | .peer => (List.range 8).map (fun i => 32 + i)

/-- How many channels an engine has. -/
def engineLoad (s : State) (k : Nat) : Nat := (s.obj.channels.filter (fun x => x.2.engine = k)).length

/-- The engine of a new channel: the one of its pool with the fewest channels, the lowest among equals (R480). -/
def engineFor (s : State) (k : ChanKind) : Nat :=
  let p := enginePool k
  p.foldl (fun b e => if engineLoad s e < engineLoad s b then e else b) (p.headD 0)

/-- CHANNEL_CREATE (R433, R480, R527). -/
def effChannelCreate (ctx : Handle) (kind port t : Nat) (s : State) : Outcome :=
  let k : Option ChanKind := match kind with
    | 1 => some .hostIn | 2 => some .hostOut | 3 => some .peer | 4 => some .device | _ => none
  let p : Option ChanPort :=
    if kind = 4 then some .hp0
    else match port with
      | 0 => some .hp0
      | 1 => some .hp1
      | 2 => if kind = 1 ∨ kind = 2 then some .stripe else none
      | _ => none
  match k, p with
  | some k, some p =>
    let st := ctxStatus s t ctx
    if st ≠ .ok then done st s
    else (match takeSlot s 7 ((tenantOf s t).getD 0) t with
      | none => done .noResource s
      | some (i, s) =>
        let x : Channel := { ctx := ctx, table := t, kind := k, port := p, engine := engineFor s k, jobs := [], destroying := false,
                             created := now s }
        doneWith (liveHandle s 7 i) { s with obj := { s.obj with channels := mapPut s.obj.channels i x } })
  | _, _ => done (worst [ctxStatus s t ctx, .range]) s

/-- CHANNEL_CREATE. -/
def execChannelCreate (c : Caller) (context : Handle) (kind port : Nat) (s : State) : Result :=
  gararn 0x505 .t c (withTable c (effChannelCreate context kind port)) s

-- doorbell pages, windows, mirrors, table events ------------------------------------------------------------------------

/-- DB_PAGE without RELEASE (R611). -/
def effDbPage (page t : Nat) (s : State) : Outcome :=
  if page > 4095 then done .range s
  else match mapGet s.obj.pages page with
    | none => done .ok { s with obj := { s.obj with pages := mapPut s.obj.pages page t } }
    | some u => if u = t then done .ok s else done .busy s

/-- DB_PAGE. -/
def execDbPage (c : Caller) (page : Nat) (s : State) : Result := gararn 0x509 .o c (withTable c (effDbPage page)) s

/-- Whether a doorbell slot or a counter window of a page is bound. -/
def pageBound (s : State) (page : Nat) : Bool :=
  s.obj.dbSlots.any (fun x => x.1 / 128 = page) || s.tck.windows.any (fun x => x.1 / 128 = page)

/-- DB_PAGE with RELEASE (R611). -/
def effDbPageRelease (page t : Nat) (s : State) : Outcome :=
  if mapGet s.obj.pages page ≠ some t then done .denied s
  else if pageBound s page then done .busy s
  else done .ok { s with obj := { s.obj with pages := mapDel s.obj.pages page } }

/-- DB_PAGE with RELEASE. -/
def execDbPageRelease (c : Caller) (page : Nat) (s : State) : Result :=
  gararn 0x509 .o c (withTable c (effDbPageRelease page)) s

/-- DB_COUNTER (R356, R611): binds a window to a counter of the table, or unbinds it. -/
def effDbCounter (page window : Nat) (h : Handle) (t : Nat) (s : State) : Outcome :=
  let k := page * 128 + window
  let set (w : FMap Nat) : State := { s with tck := { s.tck with windows := w } }
  let pg := pageStatus s t page window
  let busy : Bool := match mapGet s.tck.windows k with
    | some i => i ≠ hIdx h
    | none => false
  let st := worst [pg, if h = 0 then .ok else ownedStatus s t 6 h, if h ≠ 0 && busy then .busy else .ok]
  if st ≠ .ok then done st s
  else if h = 0 then done .ok (set (mapDel s.tck.windows k))
  else done .ok (set (mapPut s.tck.windows k (hIdx h)))

/-- DB_COUNTER. -/
def execDbCounter (c : Caller) (page window : Nat) (counter : Handle) (s : State) : Result :=
  gararn 0x50A .t c (withTable c (effDbCounter page window counter)) s

/-- A mirror's event entry (R361, R451). -/
def mirrorEvent (m : Mirror) (v : Nat) (s : State) : State :=
  eventWrite m.event { type := 4, status := .ok, source := liveHandle s 6 m.counter, cookie := m.cookie, detail := v, time := now s } s

/-- MIRROR_SET (R359, R361, R527): attaches a mirror or changes and arms the counter's own; a threshold already reached raises the
event at once. -/
def effMirrorSet (b : MirrorBody) (t : Nat) (s : State) : Outcome :=
  let i := hIdx b.counter
  let c := counterOf s i
  let own := ownedStatus s t 6 b.counter
  let st := worst [own, ownedStatus s t 4 b.event, if own = .ok ∧ c.state = .lost then .lost else .ok,
                   if b.hostAddr % 8 ≠ 0 then .range else .ok]
  if st ≠ .ok then done st s
  else match (match c.mirror with | some m => some m | none => mapFree s.tck.mirrors 4096) with
    | none => done .noResource s
    | some k =>
      let old := mapGet s.tck.mirrors k
      let hit := decide (b.threshold ≤ c.value)
      let m : Mirror := { counter := i, table := t, event := b.event, addr := b.hostAddr, cookie := b.cookie, threshold := b.threshold,
                          armed := !hit, inFlight := (old.map (fun x => x.inFlight)).getD false,
                          due := (old.map (fun x => x.due)).getD false, heldEvent := false }
      let s := { s with tck := { s.tck with mirrors := mapPut s.tck.mirrors k m } }
      let s := counterMod i (fun c => { c with mirror := some k }) s
      done .ok (if hit then mirrorEvent m c.value s else s)

/-- MIRROR_SET. -/
def execMirrorSet (c : Caller) (b : MirrorBody) (s : State) : Result := gararn 0x50B .t c (withTable c (effMirrorSet b)) s

/-- Frees the mirror entry of a counter. -/
def mirrorFree (i : Nat) (s : State) : State :=
  match (counterOf s i).mirror with
  | some k => counterMod i (fun c => { c with mirror := none }) { s with tck := { s.tck with mirrors := mapDel s.tck.mirrors k } }
  | none => s

/-- MIRROR_SET with DETACH. -/
def effMirrorDetach (h : Handle) (t : Nat) (s : State) : Outcome :=
  match ownedStatus s t 6 h with
  | .ok => done .ok (mirrorFree (hIdx h) s)
  | st => done st s

/-- MIRROR_SET with DETACH. -/
def execMirrorDetach (c : Caller) (counter : Handle) (s : State) : Result :=
  gararn 0x50B .t c (withTable c (effMirrorDetach counter)) s

/-- TABLE_EVENT_SET (R456, R524): names, or with the null handle clears, the event of either kind. -/
def effTableEventSet (ev : Handle) (kinds t : Nat) (s : State) : Outcome :=
  let st := worst [eventStatus s t ev, if kinds ≥ 4 then .range else .ok]
  if st ≠ .ok then done st s
  else done .ok (tableMod t (fun tb => { tb with
    migEvent := if kinds % 2 = 1 then ev else tb.migEvent
    memEvent := if kinds / 2 = 1 then ev else tb.memEvent }) s)

/-- TABLE_EVENT_SET. -/
def execTableEventSet (c : Caller) (event : Handle) (kinds : Nat) (s : State) : Result :=
  gararn 0x105 .t c (withTable c (effTableEventSet event kinds)) s

-- OBJ_INFO (R414, R527) -------------------------------------------------------------------------------------------------

/-- The table that an object's handle belongs to. -/
def objTable (s : State) (h : Handle) : Nat := (slotOf s (hKind h) (hIdx h)).table

/-- The check of a handle that any request may name: from a table mailbox it must be of that table (R413, R522). -/
def anyHandle (c : Caller) (s : State) (h : Handle) : Status :=
  let st : Status :=
    if isOperator c.mbx then checkHandle s none (hKind h) h
    else match callerTable s c with
      | .ok t => checkOwned s ((tenantOf s t).getD 0) t (hKind h) h
      | .error st => st
  match st with
  | .ok => if objDying s h then .gone else .ok
  | st => st

/-- State number, owner, creation tick and dropped entries of a live object. -/
def objFacts (s : State) (h : Handle) : Nat × Handle × Tick × Nat :=
  let i := hIdx h
  let own := tableHandle s (objTable s h)
  match hKind h with
  | 1 => (match mapGet s.obj.ctxs i with
      | some x => ((match x.state with | .active => 1 | .parked => 2 | .saved => 3 | .lost => 4 | .destroying => 5), own, x.created, 0)
      | none => (0, 0, 0, 0))
  | 2 => (match mapGet s.obj.queues i with
      | some x => (QueueState.code x.state, x.ctx, x.created, 0)
      | none => (0, 0, 0, 0))
  | 3 => (match mapGet s.obj.mems i with
      | some x => (1, own, x.created, 0)
      | none => (0, 0, 0, 0))
  | 4 => (match mapGet s.obj.events i with
      | some x => (1, own, x.created, x.dropped)
      | none => (0, 0, 0, 0))
  | 5 => (match mapGet s.tables i with
      | some x => (1, 0, x.created, 0)
      | none => (0, 0, 0, 0))
  | 6 =>
    let c := counterOf s i
    (if c.state = .lost then 2 else 1, c.ctx, (slotOf s 6 i).created, 0)
  | 7 => (match mapGet s.obj.channels i with
      | some x => (1, x.ctx, x.created, 0)
      | none => (0, 0, 0, 0))
  | 8 => (match mapGet s.obj.models i with
      | some x => ((match x.state with | .discarded => 1 | .loading => 2 | .resident => 3 | .discarding => 4), own, x.created, 0)
      | none => (0, 0, 0, 0))
  | _ => (0, 0, 0, 0)

/-- OBJ_INFO. -/
def effObjInfo (c : Caller) (h : Handle) (s : State) : Outcome :=
  match anyHandle c s h with
  | .ok =>
    let (st, own, t, d) := objFacts s h
    doneBody (leBytes 1 (hKind h) ++ leBytes 1 st ++ List.replicate 2 0 ++ leBytes 4 own ++ leBytes 8 t ++ leBytes 8 d) s
  | st => done st s

/-- OBJ_INFO. -/
def execObjInfo (c : Caller) (h : Handle) (s : State) : Result := gararn 0x507 .ot c (effObjInfo c h) s

-- DESTROY (R415 to R418) ------------------------------------------------------------------------------------------------

/-- Ends every undecided command of a queue by an abort (R415), and frees the queue's waiter slots. -/
def queueKill (q : Handle) (s : State) : State :=
  let s := (openCmds s q).foldl (fun s r => endCommand r (.abort none) s) s
  { s with tck := { s.tck with waiters := s.tck.waiters.filter (fun w => match w.kind with
    | .queue r => r.queue ≠ q
    | _ => true) } }

/-- A queue enters DESTROYING. -/
def queueDestroy (q : Handle) (s : State) : State :=
  queueKill q (queueMod q (fun x => { x with state := .destroying, namesPend := none, rereadAt := none, abortedAt := [] }) s)

/-- The undecided commands that name a channel (R415). -/
def channelCmds (s : State) (h : Handle) : List CmdRef :=
  (s.obj.queues.map (fun x =>
    let q := queueHandle s x.1
    (x.2.entries.filter (fun e => !e.isDecided && (match e.d.body with
      | .copy b => b.channel = h
      | .fill b => b.channel = h
      | _ => false))).map (fun e => { queue := q, pos := e.pos }))).flatten

/-- A channel enters DESTROYING. -/
def channelDestroy (h : Handle) (s : State) : State :=
  let s := { s with obj := { s.obj with channels := mapMod s.obj.channels (hIdx h) (fun x => { x with destroying := true }) } }
  (channelCmds s h).foldl (fun s r => endCommand r (.abort none) s) s

/-- The live counters of a context. -/
def countersOfCtx (s : State) (c : Handle) : List Nat :=
  (s.tck.counters.filter (fun k => k.2.ctx = c && k.2.state ≠ .free)).map (fun k => k.1)

/-- The channels of a context, by handle. -/
def channelsOfCtx (s : State) (c : Handle) : List Handle :=
  (s.obj.channels.filter (fun x => x.2.ctx = c)).map (fun x => liveHandle s 7 x.1)

/-- A context enters DESTROYING with its queues, counters and channels (R150, R367, R412, R415). -/
def ctxDestroy (c : Handle) (s : State) : State :=
  let s := camSweep (ctxLeave c (ctxMod c (fun x => { x with state := .destroying, saved := [] }) s))
  let s := (queuesOfCtx s c).foldl (fun s q => queueDestroy q s) s
  let s := (channelsOfCtx s c).foldl (fun s h => channelDestroy h s) s
  let s := (countersOfCtx s c).foldl (fun s i => counterLose i s) s
  fireWhere (fun w => w.ctx = c) .aborted 0 s

/-- An event enters DESTROYING: it raises nothing more and every target bound to it is unbound (R455, R584). -/
def eventDestroy (h : Handle) (s : State) : State := irqUnbind h (eventMod h (fun e => { e with destroying := true }) s)

/-- Answers a RESEAT request at its mailbox, or to the hub that passed it on. -/
def reseatReply (r : LeadReseat) (st : Status) (detail : Nat) (s : State) : State :=
  let s := match r.caller with
    | some m => answer m.val { st := st, detail := detail } s
    | none => s
  match r.fwdFrom with
  | some n => ctrlSend n 0x800 r.req.globalId r.req.seat st detail s
  | none => s

/-- Whether the lead hub has not answered a reseat yet. -/
def LeadReseat.unanswered (r : LeadReseat) : Bool := r.decided ≠ some false && !(r.oldReported && r.newReported)

/-- Cancels what a destroyed table's reseats have under way (R88): requests end GONE, members are told of a decision still open, and new
bindings are free. A cluster that is being cleared goes on being cleared (R616). -/
def reseatForget (t g : Nat) (s : State) : State :=
  let lead := s.bnd.lead.filter (fun x => x.req.globalId = g && x.unanswered)
  let asked := s.bnd.asked.filter (fun a => a.globalId = g)
  let mine := s.bnd.slots.filter (fun x => x.2.table = t && x.2.phase ≠ .idle)
  let s := { s with bnd := { s.bnd with
    lead := s.bnd.lead.filter (fun x => x.req.globalId ≠ g)
    slots := s.bnd.slots.filter (fun x => !(x.2.table = t && x.2.phase ≠ .idle))
    asked := s.bnd.asked.filter (fun a => a.globalId ≠ g)
    stale := s.bnd.stale.filter (fun x => x.table ≠ t)
    moves := s.bnd.moves.filter (fun m => m.table ≠ t)
    held := s.bnd.held.filter (fun h => (bindAt s h.binding).table ≠ t) } }
  let s := lead.foldl (fun s x =>
    let others := (membersOf ((tableAt s t).getD { globalId := g, tenant := 0, keySlot := 0, lead := 0 })).filter (fun n => n ≠ s.sys.nodeId)
    let s := if x.decided.isNone then others.foldl (fun s n => seatSend n 0x803 g x.req.seat x.newEpoch .ok 0 s) s else s
    reseatReply x .gone 0 s) s
  let s := (asked.map (fun a => a.mbx)).eraseDups.foldl (fun s m => answer m.val { st := .gone } s) s
  mine.foldl (fun s x => if x.2.newHere && (bindAt s x.2.new).state = .armed then bindPut x.2.new {} s else s) s

/-- The clusters of a table, in whatever state it holds them. -/
def tableClusters (s : State) (t : Nat) : List Nat :=
  (List.range 120).filter (fun c => let b := bindAt s c; b.table = t && (match b.state with
    | .bound | .armed | .suspended => true
    | .failed => b.epoch ≠ 0
    | _ => false))

/-- A table enters being destroyed: its clusters go off (R69), its step ends, its contexts and events with it, and its faults are forgotten (R88, R175). -/
def tableDestroy (t : Nat) (s : State) : State :=
  match tableAt s t with
  | none => s
  | some tb =>
    let s := tableMod t (fun tb => { tb with destroying := true, step := { tb.step with isOpen := false, state := .ended, onHold := false } }) s
    let s := camForget t s
    let s := (ctxsOfTable s t).foldl (fun s c => ctxDestroy c s) s
    let s := ((s.obj.events.filter (fun x => x.2.table = t)).map (fun x => liveHandle s 4 x.1)).foldl (fun s h => eventDestroy h s) s
    let s := reseatForget t tb.globalId s
    (tableClusters s t).foldl (fun s c => clusterOff c s) s

/-- DESTROY (R173, R415, R426): a memory object is answered at once, a host-backed range or a pool object when the moves that use it have
ended, and every other object when its commands have retired. -/
def effDestroy (c : Caller) (h : Handle) (s : State) : Outcome :=
  if hKind h = 5 ∧ !isOperator c.mbx then done .denied s
  else match anyHandle c s h with
  | .ok =>
    let wait (s : State) : Outcome :=
      later { s with obj := { s.obj with dying := s.obj.dying ++ [{ h := h, mbx := c.mbx, accepted := now s }] } }
    let i := hIdx h
    match hKind h with
    | 1 => wait (ctxDestroy h s)
    | 2 => wait (queueDestroy h s)
    | 3 =>
      (match mapGet s.obj.mems i with
       | none => done .gone s
       | some o =>
         let s' := { s with obj := { s.obj with mems := mapPut s.obj.mems i { o with state := .freePending } } }
         if o.kind = .hostback then (if hbMoving s i then wait s' else done .ok (hbRelease i s))
         else if poolMoving s i then wait s' else done .ok (memRelease i s'))
    | 4 => wait (eventDestroy h s)
    | 5 => wait (tableDestroy i s)
    | 6 => wait (counterLose i s)
    | 7 => wait (channelDestroy h s)
    | 8 => wait (modelDestroy i s)
    | _ => done .gone s
  | st => done st s

/-- DESTROY. -/
def execDestroy (c : Caller) (h : Handle) (s : State) : Result := gararn 0x506 .ot c (effDestroy c h) s

-- the end of a destruction (R416) ---------------------------------------------------------------------------------------

/-- Whether a queue being destroyed has no command left but those decided whose ring no port can reach. -/
def queueReady (s : State) (i : Nat) : Bool :=
  match mapGet s.obj.queues i with
  | some q => q.entries.all (fun e => e.isDecided) && (q.entries.isEmpty || !objReachable s q.table q.cplObj)
  | none => true

/-- The records of commands that no port could take are kept with the other writes that wait (R493). -/
def queueFlush (i : Nat) (s : State) : State :=
  match mapGet s.obj.queues i with
  | none => s
  | some q => q.entries.foldl (fun s e => match e.state with
      | .decided _ st =>
        objWriteHold q.table q.cplObj (q.cplOff + 16 * (e.pos % q.size))
          (recordBytes (phaseAt e.pos q.size) e.sigFail (e.pos % 256) st (if st = .fault then e.cause else 0) e.result (now s)) s
      | _ => s) s

/-- Frees a queue: its doorbell slot and its index slot. -/
def queueFree (i : Nat) (s : State) : State :=
  match mapGet s.obj.queues i with
  | none => s
  | some q =>
    let s := queueFlush i s
    freeSlot { s with obj := { s.obj with
      queues := mapDel s.obj.queues i
      dbSlots := mapDel s.obj.dbSlots (q.dbPage * 128 + q.dbSlot) } } 2 i

/-- Frees an event. -/
def eventFree (i : Nat) (s : State) : State :=
  match mapGet s.obj.events i with
  | none => s
  | some e => freeSlot { s with obj := { s.obj with
      events := mapDel s.obj.events i
      dbSlots := mapDel s.obj.dbSlots (e.dbPage * 128 + e.dbSlot) } } 4 i

/-- The mirror of a counter. -/
def mirrorOfCounter (s : State) (i : Nat) : Option Mirror := (counterOf s i).mirror.bind (fun k => mapGet s.tck.mirrors k)

/-- The write of a LOST counter's mirror that no port could carry is kept with the other writes that wait, and its event is raised
(R362, R367; DESIGN CHOICE, notes/assumptions/124). -/
def mirrorLast (i : Nat) (s : State) : State :=
  match mirrorOfCounter s i with
  | some m =>
    if m.due then
      let v := counterShown s i
      let s := hostWriteHold m.table m.addr (leBytes 8 v) s
      if m.heldEvent then mirrorEvent m v s else s
    else s
  | none => s

/-- Frees a counter with its windows and its mirror in one step (R357, R368). -/
def counterFree (i : Nat) (s : State) : State :=
  let s := mirrorFree i (mirrorLast i s)
  freeSlot { s with tck := { s.tck with
    counters := mapDel s.tck.counters i
    windows := s.tck.windows.filter (fun w => w.2 ≠ i) } } 6 i

/-- Whether an unretired command still names a channel, or its burst runs. -/
def channelBusy (s : State) (h : Handle) : Bool :=
  s.hif.ce.any (fun x => x.2.busy = some h)
    || s.obj.queues.any (fun x => x.2.entries.any (fun e => match e.d.body with
      | .copy b => b.channel = h
      | .fill b => b.channel = h
      | _ => false))

/-- Frees a channel. -/
def channelFree (i : Nat) (s : State) : State :=
  freeSlot { s with obj := { s.obj with channels := mapDel s.obj.channels i } } 7 i

/-- Frees a context with its queues, channels and counters. -/
def ctxFree (i : Nat) (s : State) : State :=
  let c := liveHandle s 1 i
  let s := ((s.obj.queues.filter (fun x => x.2.ctx = c)).map (fun x => x.1)).foldl (fun s j => queueFree j s) s
  let s := ((s.obj.channels.filter (fun x => x.2.ctx = c)).map (fun x => x.1)).foldl (fun s j => channelFree j s) s
  let s := (countersOfCtx s c).foldl (fun s j => counterFree j s) s
  freeSlot { s with obj := { s.obj with ctxs := mapDel s.obj.ctxs i } } 1 i

/-- Starts the erase of a table's key slot (R189). -/
def keyErase (k : Nat) (s : State) : State :=
  if k = 0 then s
  else { s with mem := { s.mem with keys := mapMod s.mem.keys k (fun x => { x with state := .erasing, eraseAt := now s }) } }

/-- Releases the bindings of a destroyed table on this hub: its slabs enter REFILL and stay there for at least 1 s after the DESTROY
(R418), and their re-fill follows the erase of the table's key (R189); what has failed stays FAILED (R66, R89), and every other binding is
FREE. -/
def bindingsFree (t : Nat) (accepted : Tick) (s : State) : State :=
  let key := ((tableAt s t).map (fun tb => tb.keySlot)).getD 0
  let mine := (s.bnd.seats.filter (fun x => x.2.table = t && (match x.2.state with
    | .bound | .armed | .suspended | .migrating | .aliased | .failed => true
    | _ => false))).map (fun x => x.1)
  mine.foldl (fun s i =>
    if (bindAt s i).state = .failed then bindPut i { state := .failed } s
    else if kindOfIndex i = .channel then
      let k := (i - 120) / 48
      let j := (i - 120) % 48
      let s := { s with mem := { s.mem with refillHold := mapPut s.mem.refillHold i (accepted + 1000000000) } }
      let s := recallSlab k j s
      if (mapGetD s.mem.keys key {}).state = .erasing then
        bindPut i { state := .refill } { s with mem := { s.mem with keys := mapMod s.mem.keys key (fun x => { x with slabs := x.slabs ++ [i] }) } }
      else refillEnter k j s
    else bindPut i {} s) s

/-- Drops what the engines, the fold slots and the clusters hold for a table; what runs here for another hub's command is answered ABORTED,
or with its DONE (DESIGN CHOICE, notes/assumptions/152). -/
def enginesForget (t : Nat) (s : State) : State :=
  let s := tasksEnd (fun k => k.table = t) s
  let s := (s.nme.subs.filter (fun x => x.table = t)).foldl (fun s x => seatReply t (x.src, x.tag) .aborted s) s
  let s := (s.obj.launched.filter (fun l => l.table = t)).foldl (fun s l => match l.replyTo with
    | some p => seatReply t p .aborted s
    | none => s) s
  let s := (s.obj.doneWaits.filter (fun w => w.table = t)).foldl (fun s w => seatReply t (w.node, w.tag) w.st s) s
  { s with
    nme := { s.nme with
      folds := s.nme.folds.map (fun x => (x.1, if x.2.isOpen && x.2.table = t then foldFreed x.2 else x.2))
      subs := s.nme.subs.filter (fun x => x.table ≠ t)
      waiting := s.nme.waiting.filter (fun r => (queueOf s r.queue).isSome) }
    obj := { s.obj with launched := s.obj.launched.filter (fun l => l.table ≠ t), doneWaits := s.obj.doneWaits.filter (fun w => w.table ≠ t) } }

/-- The mailboxes of a destroyed table (R511): a request that still waits is answered GONE, and the mailbox is unassigned. -/
def boxesForget (t : Nat) (s : State) : State :=
  ((s.mbx.boxes.filter (fun x => x.2.assigned = some t)).map (fun x => x.1)).foldl (fun s m =>
    let s := if (boxOf s m).busy then answer m { st := .gone } s else s
    boxMod m (fun b => { b with assigned := none, lastSeq := 0, version := 0, stored := none }) s) s

/-- The shootdowns of a freed table have nothing left to answer. -/
def shootForget (t : Nat) (s : State) : State :=
  let keep (l : List Shootdown) : List Shootdown := l.filter (fun x => x.table ≠ t)
  trnMod (fun r => { r with shoot := keep r.shoot, shootQ := keep r.shootQ, shootHold := keep r.shootHold }) s

/-- Frees a table slot with every object of the table on this hub (R141, R189, R418, R505, R511). -/
def tableFree (t : Nat) (accepted : Tick) (s : State) : State :=
  match tableAt s t with
  | none => s
  | some tb =>
    let keep {α : Type} (f : α → Nat) (m : FMap α) : FMap α := m.filter (fun x => f x.2 ≠ t)
    let s := ((s.obj.ctxs.filter (fun x => x.2.table = t)).map (fun x => x.1)).foldl (fun s i => ctxFree i s) s
    let s := ((s.obj.events.filter (fun x => x.2.table = t)).map (fun x => x.1)).foldl (fun s i => eventFree i s) s
    let s := ((s.obj.mems.filter (fun x => x.2.table = t)).map (fun x => x.1)).foldl (fun s i => freeSlot s 3 i) s
    let s := ((s.obj.models.filter (fun x => x.2.table = t)).map (fun x => x.1)).foldl (fun s i => freeSlot (anteDrop 5 (modelInst i) s) 8 i) s
    let gone := (s.obj.mems.filter (fun x => x.2.table = t)).map (fun x => x.1)
    let s := enginesForget t (shootForget t (camForget t (trnForget t s)))
    let s := bindingsFree t accepted (keyErase tb.keySlot s)
    let wipe (w : FMap WinEntry) : FMap WinEntry := w.filter (fun x => !(x.2.valid && x.2.table = t))
    let s : State := { s with
      obj := { s.obj with
        mems := keep (fun o => o.table) s.obj.mems
        models := keep (fun m => m.table) s.obj.models
        pages := s.obj.pages.filter (fun x => x.2 ≠ t) }
      mem := { s.mem with objRefill := s.mem.objRefill.filter (fun x => x.1 ∉ gone) }
      tck := { s.tck with
        waiters := s.tck.waiters.filter (fun w => w.table ≠ t)
        held := s.tck.held.filter (fun h => h.table ≠ t)
        mirrors := keep (fun m => m.table) s.tck.mirrors }
      hif := { s.hif with
        tbl := mapDel s.hif.tbl t
        win := wipe s.hif.win
        hdm := wipe s.hif.hdm
        winWait := s.hif.winWait.filter (fun w => w.table ≠ t)
        lostWrites := s.hif.lostWrites.filter (fun w => w.table ≠ some t) }
      coh := { s.coh with hostEnabled := [0, 1].foldl (fun b p =>
        let e := mapGetD s.hif.hdm p {}
        if e.valid && e.table = t then b &&& ~~~(BitVec.ofNat 4 (2 * 4 ^ p)) else b) s.coh.hostEnabled }
      bnd := { s.bnd with slots := s.bnd.slots.filter (fun x => x.2.table ≠ t) }
      tables := mapDel s.tables t }
    freeSlot (boxesForget t s) 5 t

/-- Whether counters that are destroyed have told of their loss (R367, R416): no wake with status LOST waits in the ramp, and no write of
their mirrors is due that a port can carry (DESIGN CHOICE, notes/assumptions/124). -/
def lossTold (s : State) (cs : List Nat) : Bool :=
  cs.isEmpty
    || (s.tck.ramp.all (fun e => e.answers.all (fun a => a.2.2.1 ≠ .lost))
      && cs.all (fun i => match mirrorOfCounter s i with
        | some m => !m.due || (primaryOf s m.table).isNone
        | none => true))

/-- Whether nothing of a destruction is left to wait for (R416). -/
def destroyReady (s : State) (h : Handle) : Bool :=
  let i := hIdx h
  match hKind h with
  | 1 => s.obj.queues.all (fun x => x.2.ctx ≠ h || queueReady s x.1) && (channelsOfCtx s h).all (fun k => !channelBusy s k)
      && lossTold s (countersOfCtx s h)
  | 2 => queueReady s i
  | 3 => !hbMoving s i && !poolMoving s i
  | 5 => s.obj.queues.all (fun x => x.2.table ≠ i || queueReady s x.1)
      && s.obj.channels.all (fun x => x.2.table ≠ i || !channelBusy s (liveHandle s 7 x.1))
      && lossTold s ((s.tck.counters.filter (fun k => k.2.table = i && k.2.state ≠ .free)).map (fun k => k.1))
  | 6 => lossTold s [i]
  | 7 => !channelBusy s h
  | 8 => (match mapGet s.obj.models i with | some m => m.state = .discarded | none => true)
  | _ => true

/-- Frees what a destruction destroys. -/
def destroyFree (h : Handle) (accepted : Tick) (s : State) : State :=
  let i := hIdx h
  match hKind h with
  | 1 => ctxFree i s
  | 2 => queueFree i s
  | 3 => memRelease i (hbRelease i s)
  | 4 => eventFree i s
  | 5 => tableFree i accepted s
  | 6 => counterFree i s
  | 7 => channelFree i s
  | 8 => freeSlot { s with obj := { s.obj with models := mapDel s.obj.models i } } 8 i
  | _ => s

/-- Whether a handle no longer names what its slot holds. -/
def handleStale (s : State) (h : Handle) : Bool := checkHandle s none (hKind h) h ≠ .ok

/-- DESTROY_COMPLETE (R416, R426, R507): with the control core running, the slot is free, DESTROY is answered, and so is every other whose object went with it; memory
objects that nothing names any more are let go. -/
def execDestroyComplete (h : Handle) (s : State) : Result :=
  live s (fun s =>
    if !coreAnswers s then s else
    match s.obj.dying.find? (fun d => d.h = h) with
    | none => s
    | some d =>
      if destroyReady s h then
        let s := destroyFree h d.accepted s
        let fin := s.obj.dying.filter (fun x => x.h = h || handleStale s x.h)
        let s := { s with obj := { s.obj with dying := s.obj.dying.filter (fun x => !(x.h = h || handleStale s x.h)) } }
        memReleaseAll (fin.foldl (fun s x => answer x.mbx.val { st := .ok } s) s)
      else s)

end Sys2Proof.Machine
end

