-- ==== Sys2Proof/Machine/Units.lean ====
section
/-! DEFINITION. How a unit of the hub (a near-memory engine, a copy engine, the reads of a command at issue) reaches the memory of a table:
as one-row tiles within a page and 64 KiB, in address order (R121, R124, R610). One whose bytes lie in device memory of this hub completes
in the row that makes it; every other target takes a tile of its own that later rows answer, and a later pass finds its answer. -/

namespace Sys2Proof.Machine

/-- Why a pass over a command stops: it waits for a piece, a slab or a port; a fault of R120; or it ends with a status. -/
inductive Halt where
  | wait
  | fault (op va : Nat) (c : Cause) (entry level pa : Nat)
  | status (st : Status)
  deriving DecidableEq, Repr

/-- A pass of a unit over a command: the state goes on whether it halts or not. -/
abbrev Pass (α : Type) := ExceptT Halt (StateM State) α

/-- Who accesses memory: the source, the table, whether its writes are rerunnable (R160), whether it may reach the host
bus, and whether what it writes is unspecified: an aborted command (R328, R445). -/
structure Accessor where
  src : Source
  table : Nat
  rerun : Bool
  host : Bool
  spoil : Bool := false
  deriving DecidableEq, Repr

/-- Changes the state in a pass. -/
def passDo (f : State → State) : Pass Unit := modify f

/-- Halts a pass. -/
def passStop {α : Type} (h : Halt) : Pass α := throw h

/-- Halts a pass with RANGE when a condition holds. -/
def passRange (bad : Bool) : Pass Unit := if bad then throw (.status .range) else pure ()

/-- What a unit holds about a page (R116). -/
def unitWalkOf (s : State) (src : Source) (t page : Nat) : Option UnitWalk :=
  s.trn.unitWalks.find? (fun w => w.src = src && w.table = t && w.page = page)

/-- Changes what a unit holds about a page. -/
def unitWalkPut (w : UnitWalk) (s : State) : State :=
  let other (x : UnitWalk) : Bool := !(x.src = w.src && x.table = w.table && x.page = w.page)
  trnMod (fun r => { r with unitWalks := w :: r.unitWalks.filter other }) s

/-- Forgets what a unit holds about a page. -/
def unitWalkDel (src : Source) (t page : Nat) (s : State) : State :=
  trnMod (fun r => { r with unitWalks := r.unitWalks.filter (fun x => !(x.src = src && x.table = t && x.page = page)) }) s

/-- A unit no longer waits for a channel block on a page. -/
def unitWalkMet (src : Source) (t page : Nat) (s : State) : State :=
  if s.trn.unitWalks.any (fun w => w.src = src && w.table = t && w.page = page && w.wants.isSome) then
    let up (w : UnitWalk) : UnitWalk := if w.src = src && w.table = t && w.page = page then { w with wants := none } else w
    trnMod (fun r => { r with unitWalks := r.unitWalks.map up }) s
  else s

/-- A unit's miss of a page joins the queue (R116). -/
def unitMiss (u : Accessor) (page : Nat) (s : State) : State :=
  missPut u.table page (unitWalkPut { src := u.src, table := u.table, page := page } s)

/-- The halt with which a failed walk ends a pass. -/
def WalkFail.halt (op va : Nat) : WalkFail → Halt
  | .fault c en lv pa => .fault op va c en lv pa
  | .poisoned => .status .poisoned

/-- Translates and checks an access of a length at an address, as far as its page goes: its target, its physical address and the bytes left
on the page. A miss waits for its walk (R116), and no request is taken while the miss queue is full; a translation that has been given stays
with the unit until a shootdown removes it. -/
def accPage (u : Accessor) (op va len : Nat) : Pass (Target × Nat × Nat) := do
  if va ≥ 2 ^ 57 then throw (.status .range)
  let s ← get
  if missFull s then throw .wait
  let page := va / 4096
  let w := unitWalkOf s u.src u.table page
  match w.bind (fun w => w.fail) with
  | some f => do set (unitWalkDel u.src u.table page s); throw (f.halt op va)
  | none =>
    match (match tlbHit s u.table va with
      | some e => some e
      | none => w.bind (fun w => w.leaf)) with
    | none => do set (unitMiss u page s); throw .wait
    | some e =>
      let s := tlbTouch e s
      let left := pageSize e.level - (va - e.base) % pageSize e.level
      match checkPiece s u.table op u.rerun e va (min len left) with
      | .fault c en lv pa => do set s; throw (.fault op va c en lv pa)
      | .denied pa => do set (trnDenied u.table u.src.trnCode false pa s); throw (.status .denied)
      | .waits => do set (unitWalkPut { src := u.src, table := u.table, page := page, leaf := some e } s); throw .wait
      | .go tg pa =>
        match dirtyUpdate u.table op va e s with
        | none => do set (unitMiss u page (tlbDrop e s)); throw .wait
        | some s =>
        match blocksTake (if tg = .device then rangeStacks s pa (min len left) else []) s with
        | (some k, s) => do set (unitWalkPut { src := u.src, table := u.table, page := page, leaf := some e, wants := some k } s); throw .wait
        | (none, s) => do
          set (blocksIdle (unitWalkMet u.src u.table page s))
          match tg with
          | .host _ => if u.host then pure (tg, pa, left) else throw (.status .range)
          | _ => pure (tg, pa, left)

/-- Whether a range of a device target lies on this hub after aliases. -/
def rangeHere (s : State) (pa len : Nat) : Bool := (partsOf pa len).all (fun p => (remoteOf s (placeOf s p.1)).isNone)

/-- The piece of a unit that a tile carries: the answer of an earlier one for a read, or none and a tile that starts now. -/
def accTile (u : Accessor) (op va len atom : Nat) (bs : List Byte) : Pass (Option (List Byte)) := do
  let s ← get
  match (if op = 1 then s.nme.pieces.find? (fun p => p.src = u.src && p.op = 1 && p.va = va && p.len = len) else none) with
  | some p =>
    (match p.answer with
     | some (.ok, bs) => pure (some bs)
     | some (st, _) => throw (.status st)
     | none => pure none)
  | none => do
    let tag := 2 ^ 31 + s.nme.nextPiece
    let p : UnitPiece := { src := u.src, tag := tag, op := op, va := va, len := len, answer := none }
    let d : TileDesc := { va := va, rowBytes := len, rows := 1, pitch := 0, op := op, flags := b2n u.rerun, tag := tag, atom := atom }
    let t : TileRec := { src := u.src, table := u.table, d := d, data := bs }
    if tileBad d then throw (.status .range)
    let s := { s with nme := { s.nme with pieces := s.nme.pieces ++ [p], nextPiece := (s.nme.nextPiece + 1) % 2 ^ 31 } }
    set (tileNew t s)
    pure none

/-- The bytes of the next tile of an access that has a number left on its page (R610): one row of at most 64 KiB. -/
def tileCut (len left : Nat) : Nat := min (min len left) 65536

/-- Reads a range page by page: the bytes, and whether all of them are here. -/
def accReadN (u : Accessor) : Nat → Nat → Nat → Pass (List Byte × Bool)
  | 0, _, _ => pure ([], true)
  | n + 1, va, len =>
    if len = 0 then pure ([], true)
    else do
      let (tg, pa, left) ← accPage u 1 va (min len 65536)
      let k := tileCut len left
      let s ← get
      let r ← (if tg = .device && rangeHere s pa k then do
          let r := devRead s (tableKey s u.table) pa k
          if r.1 = .ok then do set (readFill (tableKey s u.table) pa k s); pure (some r.2) else throw (.status r.1)
        else accTile u 1 va k 0 [])
      let rest ← accReadN u n (va + k) (len - k)
      pure (r.getD (List.replicate k 0) ++ rest.1, r.isSome && rest.2)

/-- Reads a range; the pass waits while part of it is still on its way. -/
def accRead (u : Accessor) (va len : Nat) : Pass (List Byte) := do
  let r ← accReadN u (len / 4096 + 2) va len
  if r.2 then pure r.1 else throw .wait

/-- Reads ranges one after the other. -/
def accReads (u : Accessor) : List (Nat × Nat) → Pass (List (List Byte))
  | [] => pure []
  | (va, len) :: r => do
    let b ← accRead u va len
    let bs ← accReads u r
    pure (b :: bs)

/-- Translates and checks a range for an access without making it. -/
def accCheckN (u : Accessor) (op : Nat) : Nat → Nat → Nat → Pass Unit
  | 0, _, _ => pure ()
  | n + 1, va, len =>
    if len = 0 then pure ()
    else do
      let (_, _, left) ← accPage u op va (min len 65536)
      accCheckN u op n (va + tileCut len left) (len - tileCut len left)

/-- Translates and checks a range. -/
def accCheck (u : Accessor) (op va len : Nat) : Pass Unit := accCheckN u op (len / 4096 + 2) va len

/-- Translates and checks ranges one after the other. -/
def accChecks (u : Accessor) (op : Nat) : List (Nat × Nat) → Pass Unit
  | [] => pure ()
  | (va, len) :: r => do accCheck u op va len; accChecks u op r

/-- Writes a range page by page. -/
def accWriteN (u : Accessor) : Nat → Nat → List Byte → Pass Unit
  | 0, _, _ => pure ()
  | n + 1, va, bs =>
    if bs.isEmpty then pure ()
    else do
      let (tg, pa, left) ← accPage u 2 va (min bs.length 65536)
      let k := tileCut bs.length left
      let s ← get
      if tg = .device && rangeHere s pa k then
        if devWorks s pa k then set (ncWrite (tableKey s u.table) pa (bs.take k) s) else throw (.status .poisoned)
      else do let _ ← accTile u 2 va k 0 (bs.take k); pure ()
      accWriteN u n (va + k) (bs.drop k)

/-- Takes a number of unspecified bytes. -/
def freeBytes (n : Nat) : Pass (List Byte) := do
  let s ← get
  set { s with fresh := s.fresh + n }
  pure ((List.range n).map (fun i => Config.freeByte (s.fresh + i)))

/-- Writes a range. -/
def accWrite (u : Accessor) (va : Nat) (bs : List Byte) : Pass Unit := do
  let out ← (if u.spoil then freeBytes bs.length else pure bs)
  accWriteN u (out.length / 4096 + 2) va out

/-- Writes ranges one after the other. -/
def accWrites (u : Accessor) : List (Nat × List Byte) → Pass Unit
  | [] => pure ()
  | (va, bs) :: r => do accWrite u va bs; accWrites u r

/-- Makes one atomic row (R203). -/
def accAtomic (u : Accessor) (va code : Nat) (bs : List Byte) : Pass Unit := do
  let (tg, pa, _) ← accPage u 3 va bs.length
  let s ← get
  if u.spoil then accWrite u va bs
  else if tg = .device && rangeHere s pa bs.length then do
    let r := ncAtomic (tableKey s u.table) pa code bs.length bs s
    set r.2
    if r.1.1 = .ok then pure () else throw (.status r.1.1)
  else do let _ ← accTile u 3 va bs.length code bs; pure ()

/-- Makes atomic rows one after the other. -/
def accAtomics (u : Accessor) (code : Nat) : List (Nat × List Byte) → Pass Unit
  | [] => pure ()
  | (va, bs) :: r => do accAtomic u va code bs; accAtomics u code r

/-- What the writes and atomics of a source have come to: none while one is unanswered, else the status R16 chooses. -/
def accEnd (s : State) (src : Source) : Option Status :=
  let mine := s.nme.pieces.filter (fun p => p.src = src && p.op ≠ 1)
  if mine.any (fun p => p.answer.isNone) then none
  else some (worst (mine.filterMap (fun p => p.answer.map (fun a => a.1))))

/-- Forgets the pieces of a source, with their tiles, and the translations it holds. -/
def accForget (src : Source) (s : State) : State :=
  let tags := (s.nme.pieces.filter (fun p => p.src = src)).map (fun p => p.tag)
  let s := { s with nme := { s.nme with pieces := s.nme.pieces.filter (fun p => p.src ≠ src) } }
  blocksIdle (trnMod (fun r => { r with
    tiles := r.tiles.filter (fun t => !(t.src = src && t.d.tag ∈ tags))
    unitWalks := r.unitWalks.filter (fun w => w.src ≠ src) }) s)

end Sys2Proof.Machine
end

