-- ==== Sys2Proof/Machine/Seats.lean ====
section
/-! DEFINITION. Messages of commands to seats (R76 to R80): how the issuing hub sends, resends and ends them, and how a cluster seat
takes a LAUNCH (R434 to R436, R565). -/

namespace Sys2Proof.Machine

-- sending ---------------------------------------------------------------------------------------------------------------

/-- The payload bytes of a command message. -/
def subLen : SubCmd → Nat
  | .attnPart _ _ _ _ _ _ _ _ _ es => 64 + 16 * es.length
  | .queryPiece _ _ bs => 8 + bs.length
  | .attnCancel .. => 8
  | .launch .. => 96

/-- Changes the record of a message to a seat. -/
def staleMod (tag : Nat) (f : StaleTx → StaleTx) (s : State) : State :=
  { s with bnd := { s.bnd with stale := s.bnd.stale.map (fun x => if x.tag = tag then f x else x) } }

/-- The record of a message to a seat. -/
def staleOf (s : State) (tag : Nat) : Option StaleTx := s.bnd.stale.find? (fun x => x.tag = tag)

/-- Forgets a message to a seat, and its transactions. -/
def staleDel (tag : Nat) (s : State) : State :=
  { s with bnd := { s.bnd with stale := s.bnd.stale.filter (fun x => x.tag ≠ tag) },
           nme := { s.nme with busyResend := s.nme.busyResend.filter (fun x => x.1 ≠ tag) } }

/-- The CMD packet of a message (R226). -/
def cmdPacket (s : State) (x : StaleTx) (c : SubCmd) (tag : Nat) : Packet :=
  { src := s.sys.nodeId, tenant := (tenantOf s x.table).getD 0, type := 0x03, addr := x.seat, tag := tag, len := subLen c,
    rerun := x.rerun, epoch := x.epoch }

/-- The directory entry of a seat in this hub's copy. -/
def dirEntry (s : State) (t seat : Nat) : SeatEntry :=
  match tableAt s t with
  | some tb => mapGetD tb.dir seat {}
  | none => {}

/-- Sends a message under the directory's entry for its seat by a CMD packet (R76, R434). -/
def cmdOut (x : StaleTx) (s : State) : State :=
  match x.msg with
  | .nme _ => s
  | .sub c =>
    let e := dirEntry s x.table x.seat
    let x : StaleTx := { x with epoch := e.epoch }
    let s := staleMod x.tag (fun y => { y with epoch := e.epoch, waiting := false, resolving := false }) s
    let r := txnOpen e.node (.subcmd x.tag) s
    let p := cmdPacket r.2 x c r.1
    packetSend e.node p (emit (.subcmd e.node x.seat x.epoch r.1 p.tenant c) r.2)

/-- Notes a new message to a seat; its tag is the next transaction tag. -/
def staleNew (table seat : Nat) (msg : SeatMsg) (rest : List SubCmd) (cmd : Option CmdRef) (s : State) : StaleTx × State :=
  let rerun := match cmd with
    | some r => inStep s r
    | none => false
  let tag := s.lnk.nextTag
  let x : StaleTx := { tag := tag, table := table, seat := seat, epoch := (dirEntry s table seat).epoch, count := 0,
                       waiting := false, resolving := false, msg := msg, cmd := cmd, rest := rest, rerun := rerun }
  (x, { s with lnk := { s.lnk with nextTag := (tag + 1) % 2 ^ 32 }, bnd := { s.bnd with stale := s.bnd.stale ++ [x] } })

-- cluster seats ---------------------------------------------------------------------------------------------------------

/-- The cores of a cluster that are on. -/
def coresOn (s : State) (cl : Nat) : Nat := mapGetD s.pwr.cores cl 0

/-- Starts a launch that waits for its cores, if they are all on and the cluster is BOUND (R87, R565). The message carries bytes 8 to 95 of
the LAUNCH body as they are (R435), so a mask of 0 is sent as 0. -/
def launchGo (l : Launched) (s : State) : State :=
  match l.body with
  | .launch m entry args =>
    if (bindAt s l.cluster).state ≠ .bound then s
    else if l.mask &&& coresOn s l.cluster = l.mask then
      let s := { s with obj := { s.obj with launched := s.obj.launched.map (fun x =>
        if x.tag = l.tag then { x with waitCore := false } else x) } }
      emit (.cfLaunch l.cluster l.table l.tag m entry args) s
    else
      let off := l.mask &&& (2 ^ 64 - 1 - coresOn s l.cluster)
      { s with pwr := { s.pwr with onAsked := mapUp s.pwr.onAsked l.cluster 0 (fun m => m ||| off) } }
  | _ => s

/-- Dispatches a LAUNCH on a cluster of this hub (R434, R435); 0 names all 64 cores. -/
def launchHere (cluster table : Nat) (sub : SubCmd) (rerun : Bool) (ref : Option CmdRef) (replyTo : Option (Nat × Nat)) (s : State) :
    State :=
  match sub with
  | .launch m _ _ =>
    let tag := s.obj.nextLaunch
    let l : Launched := { tag := tag, cluster := cluster, table := table, mask := if m = 0 then 2 ^ 64 - 1 else m, ref := ref,
                          replyTo := replyTo, waitCore := true, body := sub, rerun := rerun }
    launchGo l { s with obj := { s.obj with launched := s.obj.launched ++ [l], nextLaunch := (tag + 1) % 2 ^ 32 } }
  | _ => s

/-- What a seat does with a message (R76, R77, R84): a binding takes it at once, it is held for a binding, or it is answered STALE. -/
inductive SeatTake where
  | takes (binding : Nat)
  | holds (binding : Nat)
  | stale
  deriving DecidableEq, Repr

/-- Whether a binding belongs to a seat of a tenant's table for a kind of message: a LAUNCH goes to a cluster, the others to a
near-memory share. -/
def seatIs (s : State) (tenant seat : Nat) (launch : Bool) (i : Nat) (b : Binding) : Bool :=
  b.state ≠ .free && b.seat = seat && tenantOf s b.table = some tenant
    && (if launch then kindOfIndex i = .cluster else kindOfIndex i = .nme)

/-- Whether an ARMED binding is to take its epoch at a tick that has not come, or whose switch is only a step away (R77). -/
def armHolds (s : State) (i : Nat) (b : Binding) : Bool :=
  b.state = .armed && (decide (now s < b.armT) || s.bnd.slots.any (fun x => x.2.phase = .committed && x.2.newHere && x.2.new = i))

/-- The check of a message's epoch at the hub that holds the seat (R76, R77, R84). -/
def seatTake (s : State) (tenant seat epoch : Nat) (launch : Bool) : SeatTake :=
  let mine := s.bnd.seats.filter (fun x => seatIs s tenant seat launch x.1 x.2)
  match mine.find? (fun x => armHolds s x.1 x.2 && x.2.armEpoch = epoch) with
  | some x => .holds x.1
  | none =>
    match mine.find? (fun x => x.2.epoch = epoch && (x.2.state = .bound || x.2.state = .migrating)) with
    | some x => if x.2.held then .holds x.1 else .takes x.1
    | none => .stale

/-- Counts a STALE answer of this hub (R76). -/
def staleCount (s : State) : State := { s with bnd := { s.bnd with staleCnt := sat32 (s.bnd.staleCnt + 1) } }

/-- Holds a message for a binding (R77, R84). -/
def seatHold (i epoch : Nat) (p : Packet) (sub : SubCmd) (s : State) : State :=
  { s with bnd := { s.bnd with held := s.bnd.held ++ [{ binding := i, epoch := epoch, packet := p, sub := sub }] } }

/-- The STALE answer of a message: the status, and the seat number and epoch that it rejects (R78). -/
def staleReply (p : Packet) (s : State) : State :=
  packetSend p.src { src := 0, tenant := p.tenant, type := 0x20, status := .stale, tag := p.tag, addr := p.addr, epoch := p.epoch } s

-- the answers of a message ----------------------------------------------------------------------------------------------

/-- The handle of a context whose command is a message's. -/
def cmdContext (s : State) (r : CmdRef) : Handle := match queueOf s r.queue with
  | some q => q.ctx
  | none => 0

/-- Ends the command of a message with a status; LOST loses its context too (R248). -/
def cmdEndWith (r : CmdRef) (st : Status) (s : State) : State :=
  let s := failCmd r st 0 s
  if st = .lost then contextLose (cmdContext s r) s else s

/-- Ends a message that the sending hub resends no more: its command ends STALE (R80). -/
def staleFail (x : StaleTx) (s : State) : State :=
  let s := staleDel x.tag s
  match x.cmd with
  | some r => failCmd r .stale 0 s
  | none => s

/-- Where a near-memory command stands that its share may take: an ATTN_DECODE at its issue, any other at its dispatch. -/
def nmeStands (c : NmeCmd) : EntryState := match c.body with
  | .attnDecode .. => .dispatched
  | _ => .fetched

/-- What a seat of this hub does with a LAUNCH or near-memory command of this hub: it takes or holds it, or answers STALE (none). -/
def cmdHere (x : StaleTx) (s : State) : Option State :=
  match x.msg with
  | .sub c =>
    (match seatTake s ((tenantOf s x.table).getD 0) x.seat x.epoch true with
     | .takes i => some (launchHere i x.table c x.rerun x.cmd none (staleDel x.tag s))
     | .holds i => some (seatHold i x.epoch (cmdPacket s x c x.tag) c s)
     | .stale => none)
  | .nme c =>
    (match shareFind s c.engine x.table with
     | .serves _ | .waits => some (match x.cmd with
         | some r => entryMod r (fun e => { e with state := nmeStands c }) (staleDel x.tag s)
         | none => staleDel x.tag s)
     | _ => none)

/-- Whether a message reaches its seat by a packet: a LAUNCH or near-memory command for a seat of this hub does not. -/
def cmdFar (s : State) (x : StaleTx) (e : SeatEntry) : Bool := match x.msg with
  | .sub (.launch ..) => e.node ≠ s.sys.nodeId
  | .sub _ => true
  | .nme _ => false

/-- A message waits 10 µs before it is sent again (R79 step 3). -/
def staleWait (tag : Nat) (s : State) : State :=
  { (staleMod tag (fun y => { y with resolving := false, waiting := true }) s) with
      nme := { s.nme with busyResend := s.nme.busyResend ++ [(tag, now s + 10000)] } }

/-- A STALE answer of a message (R79, R80), with what sends it again. The lead hub's own copy is the answer of RESOLVE. -/
def staleStep (again : Nat → State → State) (tag : Nat) (s : State) : State :=
  match staleOf s tag with
  | none => s
  | some x =>
    let e := dirEntry s x.table x.seat
    let s := staleMod tag (fun y => { y with count := y.count + 1 }) s
    if x.count + 1 ≥ 8 then staleFail x s
    else if e.epoch ≠ x.epoch then again tag s
    else match tableAt s x.table with
      | none => s
      | some tb =>
        if tb.lead = s.sys.nodeId then (if e.state = .suspended ∨ e.state = .failed then staleWait tag s else again tag s)
        else seatSend tb.lead 0x805 tb.globalId x.seat x.epoch .ok 0 (staleMod tag (fun y => { y with resolving := true }) s)

/-- Sends a message again under the directory's entry, and what goes with it, within a number of tries at seats of this hub. -/
def cmdTries : Nat → Nat → State → State
  | 0, tag, s => (match staleOf s tag with
      | some x => staleFail x s
      | none => s)
  | n + 1, tag, s =>
    match staleOf s tag with
    | none => s
    | some x =>
      let e := dirEntry s x.table x.seat
      let x : StaleTx := { x with epoch := e.epoch, waiting := false, resolving := false }
      let s := staleMod tag (fun _ => x) s
      if cmdFar s x e then
        x.rest.foldl (fun s r =>
          let y := staleNew x.table x.seat (.sub r) [] x.cmd s
          cmdOut y.1 y.2) (cmdOut x s)
      else match cmdHere x s with
        | some s => s
        | none => staleStep (cmdTries n) tag (staleCount s)

/-- Sends a message again (R79): a seat of this hub answers at once, and the eighth STALE in a row is the last. -/
def cmdAgain (tag : Nat) (s : State) : State := cmdTries 8 tag s

/-- A STALE answer of a message (R79, R80). -/
def staleTaken (tag : Nat) (s : State) : State := staleStep cmdAgain tag s

/-- The answer of the lead hub has come for a seat: a message waits 10 µs while the seat is SUSPENDED or FAILED, and is resent
otherwise (R79). -/
def resolvedFor (tag : Nat) (e : SeatEntry) (s : State) : State :=
  if e.state = .suspended ∨ e.state = .failed then staleWait tag s else cmdAgain tag s

/-- A near-memory command of this hub whose seat answers STALE (R76, R79). -/
def nmeStale (r : CmdRef) (table seat : Nat) (c : NmeCmd) (s : State) : State :=
  let y := staleNew table seat (.nme c) [] (some r) (entryMod r (fun e => { e with state := .running }) s)
  staleTaken y.1.tag (staleCount y.2)

/-- The status that the final fold of a command has gathered (R286). -/
def foldsWorst (s : State) (r : CmdRef) : Status :=
  worst ((s.nme.folds.filter (fun f => f.2.isOpen && f.2.ref = some r)).map (fun f => f.2.worst))

/-- The answer of a message other than STALE: a LAUNCH commits on OK and ends with any failure; a failing part of an ATTN_DECODE ends
the command with its status (R286, R434), and BUSY, which parts a run of STALEs (R80), is tried again after 1 µs (R285). -/
def subAnswer (tag : Nat) (st : Status) (s : State) : State :=
  match staleOf s tag with
  | none => s
  | some x =>
    match st with
    | .stale => staleTaken tag s
    | .busy =>
      let s := staleMod tag (fun y => { y with count := 0 }) s
      { s with nme := { s.nme with busyResend := (s.nme.busyResend.filter (fun y => y.1 ≠ tag)) ++ [(tag, now s + 1000)] } }
    | .ok =>
      let s := staleDel tag s
      (match x.msg, x.cmd with
       | .sub (.launch ..), some r => commitCmd r s
       | _, _ => s)
    | st =>
      let s := staleDel tag s
      (match x.cmd with
       | some r => cmdEndWith r (worse st (foldsWorst s r)) s
       | none => s)

-- LAUNCH and DONE -------------------------------------------------------------------------------------------------------

/-- LAUNCH (R434): a seat of this hub at once, any other by a CMD packet under the seat's epoch. -/
def execLaunch (r : CmdRef) (s : State) : Result :=
  live s (withCmd r (fun q e s =>
    match e.d.body with
    | .launch seat mask entry args =>
      let s := cmdBegins r s
      let d := dirEntry s q.table seat
      let tenant := (tenantOf s q.table).getD 0
      let sub : SubCmd := .launch mask entry args
      if d.kind ≠ .cluster ∨ d.epoch = 0 ∨ d.state = .free ∨ entry % 4 ≠ 0 ∨ entry ≥ 2 ^ 57 then failCmd r .range 0 s
      else if d.node = s.sys.nodeId then
        match seatTake s tenant seat d.epoch true with
        | .takes i => launchHere i q.table sub (inStep s r) (some r) none s
        | .holds i =>
          let y := staleNew q.table seat (.sub sub) [] (some r) s
          seatHold i d.epoch (cmdPacket y.2 y.1 sub y.1.tag) sub y.2
        | .stale =>
          let y := staleNew q.table seat (.sub sub) [] (some r) s
          staleTaken y.1.tag (staleCount y.2)
      else
        let y := staleNew q.table seat (.sub sub) [] (some r) s
        cmdOut y.1 y.2
    | _ => s))

/-- The numbers of the set bits of a core mask. -/
def maskCores (m : Nat) : List Nat := (List.range 64).filter (fun i => m / 2 ^ i % 2 = 1)

/-- Notes that cores of a cluster have become free of work now (R565). -/
def coresIdle (cl m : Nat) (s : State) : State :=
  { s with pwr := { s.pwr with idleSince := (maskCores m).foldl (fun f i => mapPut f (cl * 64 + i) (now s)) s.pwr.idleSince } }

/-- DONE (R434 to R436): the command of a LAUNCH commits or ends; a hub that sent it by CMD gets the status in CMPL, once what the cores wrote
is in place (R341, R444). A DONE for a LAUNCH already ended is discarded. -/
def execDone (cluster : Fin 120) (st : Status) (tag : Nat) (_cores : BitVec 64) (s : State) : Result :=
  live s (fun s =>
    match s.obj.launched.find? (fun l => l.tag = tag && l.cluster = cluster.val && !l.waitCore) with
    | none => s
    | some l =>
      let s := { s with obj := { s.obj with launched := s.obj.launched.filter (fun x => x.tag ≠ tag) } }
      let s := coresIdle l.cluster l.mask s
      let s := match l.ref with
        | some r =>
          let s := entryMod r (fun e => { e with ran := some (l.cluster, l.mask) }) s
          if st = .ok then commitCmd r s else failCmd r st 0 s
        | none => s
      match l.replyTo with
      | some (src, t) =>
        donesSettle { s with obj := { s.obj with doneWaits := s.obj.doneWaits ++
          [{ node := src, table := l.table, tag := t, st := st, guards := coresGuards s l.cluster l.mask }] } }
      | none => s)

end Sys2Proof.Machine
end

