-- ==== Sys2Proof/Machine/Descriptors.lean ====
section
/-! DEFINITION. Queue descriptors from their bytes (R430, R431, R434), the bodies of near-memory commands (R290 to R322) with the
checks of their fields (R293), and the pool, split and block-table entries they name (R262, R267, R268). Reserved bytes are not
looked at (R7). -/

namespace Sys2Proof.Machine

-- near-memory bodies ----------------------------------------------------------------------------------------------------

/-- The command, or the status with which it fails its field checks (R293). -/
def nmeChecked (bad : Bool) (c : NmeCmd) (raw : List Byte) : QBody := if bad then .badNme .range else .nme c raw

/-- Whether a code names one of a list. -/
def oneOf (x : Nat) (l : List Nat) : Bool := l.contains x

/-- Whether a number lies outside a range. -/
def outside (x lo hi : Nat) : Bool := x < lo || x > hi

/-- The body of an NME command (R291, R292, R304 to R321). ATTN_DECODE is checked when it is issued (R270), and the rest of a
KV_APPEND and KV_COPY against their pool when they run. -/
def nmeBody (b : List Byte) : QBody :=
  let f := fieldAt b
  let engine := f 1 1
  let c (x : NmeBody) : NmeCmd := { engine := engine % 16, tag := f 4 4, body := x }
  let far := engine ≥ 16
  match f 0 1 with
  | 0x01 => .nme (c (.attnDecode (f 8 8) (f 16 8) (f 24 8) (f 32 8) (f 40 8) (f 48 4) (f 52 4) (f 56 4) (f 60 2) (f 62 2) (f 64 1)
      (f 65 1) (f 66 1))) b
  | 0x02 => nmeChecked (far || f 8 8 % 32 ≠ 0 || f 16 8 % 16 ≠ 0 || f 24 8 % 64 ≠ 0 || f 34 2 = 0 || !oneOf (f 36 1) [3, 4, 5])
      (c (.kvAppend (f 8 8) (f 16 8) (f 24 8) (f 32 2) (f 34 2) (f 36 1))) b
  | 0x03 => nmeChecked (far || f 8 8 % 32 ≠ 0 || f 16 8 % 16 ≠ 0 || outside (f 24 4) 1 4096)
      (c (.kvCopy (f 8 8) (f 16 8) (f 24 4) (f 28 2))) b
  | 0x04 => nmeChecked (far || f 8 8 % 32 ≠ 0 || f 16 8 % 16 ≠ 0 || f 24 8 % 8 ≠ 0 || f 32 8 % 8 ≠ 0 || f 40 8 % 16 ≠ 0
        || f 48 8 % 8 ≠ 0 || outside (f 56 4) 1 65536 || outside (f 60 4) 1 65536)
      (c (.kvCompact (f 8 8) (f 16 8) (f 24 8) (f 32 8) (f 40 8) (f 48 8) (f 56 4) (f 60 4))) b
  | 0x05 => nmeChecked (far || f 16 8 % 4 ≠ 0 || f 32 8 < f 48 4 || f 40 8 < f 48 4 || outside (f 48 4) 1 65536
        || outside (f 52 4) 1 65536 || f 56 4 = 0)
      (c (.gather (f 8 8) (f 16 8) (f 24 8) (f 32 8) (f 40 8) (f 48 4) (f 52 4) (f 56 4))) b
  | 0x06 => nmeChecked (far || !oneOf (f 68 1) [4, 5] || f 8 8 % (if f 68 1 = 4 then 2 else 4) ≠ 0 || f 16 8 % 4 ≠ 0 || f 24 8 % 4 ≠ 0
        || f 32 8 % 4 ≠ 0 || f 48 8 % 4 ≠ 0 || f 48 8 < 4 * f 56 4 || outside (f 56 4) 1 16384 || outside (f 60 4) 1 65536 || f 64 4 = 0)
      (c (.scatterAdd (f 8 8) (f 16 8) (f 24 8) (f 32 8) (f 40 8) (f 48 8) (f 56 4) (f 60 4) (f 64 4) (f 68 1))) b
  | 0x07 =>
    let fmt := f 43 1
    let size := if fmt = 0x20 then 8 else if fmt = 5 then 4 else 2
    nmeChecked (far || !oneOf fmt [3, 4, 5, 0x20] || f 8 8 % size ≠ 0 || f 16 8 % 8 ≠ 0 || f 24 8 < f 32 4 * size
        || outside (f 32 4) 1 16777216 || (fmt ≠ 0x20 && decide (f 36 4 + f 32 4 > 2 ^ 32)) || outside (f 40 2) 1 256
        || outside (f 42 1) 1 128)
      (c (.topk (f 8 8) (f 16 8) (f 24 8) (f 32 4) (f 36 4) (f 40 2) (f 42 1) fmt)) b
  | 0x08 => nmeChecked (far || f 8 8 % 64 ≠ 0 || f 16 8 % 64 ≠ 0 || f 24 8 % 64 ≠ 0 || outside (f 32 2) 1 4096 || outside (f 34 2) 1 256
        || f 36 1 > 1 || (f 36 1 = 0 && !oneOf (f 37 1) [3, 4, 5]))
      (c (.merge (f 8 8) (f 16 8) (f 24 8) (f 32 2) (f 34 2) (f 36 1) (f 37 1))) b
  | 0x0F => .badNme .denied
  | _ => .badNme .unsupported

-- the other bodies ------------------------------------------------------------------------------------------------------

/-- The copy body (R432). -/
def copyBody (b : List Byte) : CopyBody :=
  let f := fieldAt b
  { srcVa := f 0 8, dstVa := f 8 8, srcPitch := f 16 8, dstPitch := f 24 8, rowBytes := f 32 4, rows := f 36 4, channel := f 40 4,
    flags := f 44 1 }

/-- The ADVISE body. -/
def adviseBody (b : List Byte) : AdviseBody :=
  let f := fieldAt b
  { va := f 0 8, length := f 8 8, mask := f 16 1, home := f 17 1, shareReads := f 18 1, readerCount := f 19 1,
    nodes := (List.range (min 8 (f 19 1))).map (fun i => f (24 + 2 * i) 2 % 4096) }

/-- The handles of a NAMES body, and whether its COUNT is 1 to 23 (R431). -/
def namesBody (b : List Byte) : QBody :=
  let n := fieldAt b 0 1
  .names ((List.range (min n 23)).map (fun i => fieldAt b (4 + 4 * i) 4)) (!outside n 1 23)

/-- The body by class and operation (R431). -/
def bodyOf (cls op : Nat) (b : List Byte) : QBody :=
  let f := fieldAt b
  match cls, op with
  | 0, _ => namesBody b
  | 1, 0 => nmeBody b
  | 2, 1 => .copy (copyBody b)
  | 2, 2 => .fill (copyBody b)
  | 3, 1 => .prefetch (f 0 8) (f 8 8) (f 16 1) (f 17 1)
  | 3, 2 => .advise (adviseBody b)
  | 3, 3 => .invalidate (f 0 8) (f 8 8)
  | 4, 1 => .nop
  | 5, 1 => .launch (f 0 2) (f 8 8) (f 16 8) ((b.drop 24).take 64)
  | _, _ => .unsupported

/-- A descriptor (R430) from its 128 bytes. Its header is clean for NAMES when every field but PHASE, SEQ and CLASS is 0 (R432). -/
def descOf (b : List Byte) : Desc :=
  let f := fieldAt b
  let ctrl := f 0 1
  { phase := ctrl % 2 = 1
    fencePrev := bitsOf ctrl 1 1 = 1
    notify := bitsOf ctrl 2 2 = 1
    step := bitsOf ctrl 3 3 = 1
    seq := f 1 1
    cls := f 2 1
    op := f 3 1
    sigOp := f 4 1
    sigNode := f 6 2 % 4096
    waitCtr := f 8 4
    sigCtr := f 12 4
    waitValue := f 16 8
    sigValue := f 24 8
    headerClean := ctrl / 2 = 0 && f 3 1 = 0 && f 4 1 = 0 && f 6 2 = 0 && f 8 4 = 0 && f 12 4 = 0 && f 16 8 = 0 && f 24 8 = 0
    body := bodyOf (f 2 1) (f 3 1) (b.drop 32) }

/-- A NAMES entry, by its class and whatever its operation (R431, R432). -/
def descNames (d : Desc) : Bool := d.cls = 0

-- pools, split entries, block tables (R262, R263, R267, R268) -----------------------------------------------------------

/-- A pool descriptor from its bytes (R262). -/
def poolOf (b : List Byte) : PoolDesc :=
  let f := fieldAt b
  { format := f 0 1, mode := f 1 1, kvHeads := f 2 2, dim := f 4 2, vdim := f 6 2, blockTokens := f 8 2, blockBytes := f 12 4 }

/-- Bits of an element of a format (R262, R300). -/
def formatBits (fmt : Nat) : Nat :=
  if fmt = 1 ∨ fmt = 2 ∨ fmt = 0x11 ∨ fmt = 0x12 then 8
  else if fmt = 3 ∨ fmt = 4 then 16
  else if fmt = 0x13 ∨ fmt = 0x14 then 6
  else if fmt = 0x15 then 4
  else if fmt = 5 then 32
  else 0

/-- Whether a format has an E8M0 scale per 32 elements. -/
def isMx (fmt : Nat) : Bool := 0x11 ≤ fmt && fmt ≤ 0x15

/-- The data bytes of a row, and its scale bytes (R263). -/
def poolRow (p : PoolDesc) : Nat := p.dim * formatBits p.format / 8
def poolSc (p : PoolDesc) : Nat := if isMx p.format then p.dim / 32 else 0

/-- The sizes of a data region and a scale region of a block (R263). -/
def poolKd (p : PoolDesc) : Nat :=
  roundUp ((if p.mode = 1 then 1 else p.kvHeads) * p.blockTokens * poolRow p) 1024
def poolKs (p : PoolDesc) : Nat :=
  roundUp ((if p.mode = 1 then 1 else p.kvHeads) * p.blockTokens * poolSc p) 1024

/-- The block size that R263 gives. -/
def poolSize (p : PoolDesc) : Nat := (if p.mode = 1 then 1 else 2) * (poolKd p + poolKs p)

/-- Whether a pool's fields keep R262 and R263, with the dimensions of R259. -/
def poolOk (p : PoolDesc) : Bool :=
  oneOf p.format [1, 2, 3, 4, 0x11, 0x12, 0x13, 0x14, 0x15] && p.mode ≤ 1 && oneOf p.blockTokens [16, 32, 64, 128, 256]
    && (if p.mode = 0 then !outside p.kvHeads 1 256 && oneOf p.dim [64, 128, 192, 256] && p.vdim = p.dim
        else p.kvHeads = 1 && !outside p.dim 32 576 && p.dim % 32 = 0 && !outside p.vdim 32 512 && p.vdim % 32 = 0 && p.vdim ≤ p.dim)
    && p.blockBytes = poolSize p

/-- A row of a block: the offsets of its data and its scales (R263). The plane is 0 for K or the latent row, 1 for V. -/
def poolAt (p : PoolDesc) (plane head tok : Nat) : Nat × Nat :=
  let i := (if p.mode = 1 then 0 else head * p.blockTokens) + tok
  let base := if plane = 0 then 0 else poolKd p + poolKs p
  (base + i * poolRow p, base + poolKd p + i * poolSc p)

/-- The planes of a block's rows. -/
def poolPlanes (p : PoolDesc) : Nat := if p.mode = 1 then 1 else 2

/-- A split-list entry from its bytes (R268). -/
def splitOf (b : List Byte) : SplitEntry :=
  { btVa := fieldAt b 0 8, node := fieldAt b 8 2, engine := fieldAt b 10 1, blocks := fieldAt b 12 4 }

/-- A block-table entry (R267). -/
structure BlockEntry where
  va : Nat
  pos : Nat
  count : Nat
  deriving DecidableEq, Repr

/-- Consecutive parts of a size. -/
def chunks (k : Nat) : Nat → List Byte → List (List Byte)
  | 0, _ => []
  | n + 1, b => b.take k :: chunks k n (b.drop k)

end Sys2Proof.Machine
end

