-- ==== Sys2Proof/Machine/Queues.lean ====
section
/-! DEFINITION. Queues: doorbells (R437, R453, R457), fetch (R438, R439, R441, R446, R449, R613), dispatch (R440), the arbiter of
commits and aborts (R445 to R447), and retirement (R442 to R444). -/

namespace Sys2Proof.Machine

-- fetch -----------------------------------------------------------------------------------------------------------------

/-- Forgets the fetch reads of a queue that are answered. -/
def fetchAnswered (h : Handle) (s : State) : State :=
  let s : State := { s with lnk := { s.lnk with txns := s.lnk.txns.filter (fun t => t.what ≠ .fetch h) } }
  (List.range 2).foldl (fun s p => portKick p (portMod p (fun x => { x with reads := x.reads.filter (fun r => r.what ≠ .fetch h) }) s)) s

/-- A descriptor that stands for an entry never taken. -/
def noDesc : Desc :=
  { phase := false, fencePrev := false, notify := false, step := false, seq := 0, cls := 0, op := 0, sigOp := 0, sigNode := 0,
    waitCtr := 0, sigCtr := 0, waitValue := 0, sigValue := 0, headerClean := true, body := .unsupported }

/-- Adds an entry at the fetch position, with the NAMES entry before it, and moves the fetch position past it. -/
def entryAdd (h : Handle) (d : Desc) (s : State) : State :=
  queueMod h (fun q =>
    let e : QEntry := { pos := q.fetchPos, d := d, names := q.namesPend.map (fun n => (n.1, n.2.1)), state := .fetched, events := [],
                        sigFail := false, result := 0, cause := 0, flushed := false }
    { q with entries := q.entries ++ [e], namesPend := none, fetchPos := (q.fetchPos + 1) % posMod, rereads := 0, rereadAt := none,
             abortedAt := q.abortedAt.filter (fun p => p ≠ e.pos && (match q.namesPend with | some n => p ≠ n.1 | none => true)) }) s

/-- An entry that is torn or whose read failed retires with a status, and the queue stops (R439, R613). -/
def fetchFail (h : Handle) (st : Status) (cause : Nat) (s : State) : State :=
  match queueOf s h with
  | none => s
  | some q =>
    let pos := q.fetchPos
    let s := retireNow { queue := h, pos := pos } st cause (entryAdd h noDesc s)
    let s := queueMod h (fun q => { q with err := st.code, state := if q.state = .active then .stopped else q.state }) s
    queueError h st pos s

/-- A NAMES entry is kept for the command that follows it; one that follows another retires the other alone, RANGE (R432). -/
def namesTaken (h : Handle) (q : Queue) (d : Desc) (hs : List Handle) (ok : Bool) (s : State) : State :=
  let s := match q.namesPend with
    | none => s
    | some n =>
      let s := queueMod h (fun q => { q with namesPend := none }) s
      let e : QEntry := { pos := n.1, d := noDesc, names := none, state := .fetched, events := [], sigFail := false, result := 0,
                          cause := 0, flushed := false }
      let st : Status := if q.state = .lost then .lost else if n.1 ∈ q.abortedAt then .aborted else .range
      retireNow { queue := h, pos := n.1 } st 0
        (queueMod h (fun q => { q with entries := q.entries ++ [e], abortedAt := q.abortedAt.filter (fun p => p ≠ n.1) }) s)
  queueMod h (fun q => { q with
    namesPend := some (q.fetchPos, hs, ok && d.headerClean)
    fetchPos := (q.fetchPos + 1) % posMod
    rereads := 0
    rereadAt := none }) s

/-- Whether a part of a step is open on this hub for a table (R546). -/
def partOpen (s : State) (t : Nat) : Bool := match tableAt s t with
  | some tb => tb.step.isOpen
  | none => false

/-- The statuses with which an entry retires at fetch, without running (R431, R432, R441, R446, R449, R546). -/
def fetchStatus (s : State) (q : Queue) (d : Desc) : Status :=
  let aborted := q.abortedAt.contains q.fetchPos || (match q.namesPend with | some n => q.abortedAt.contains n.1 | none => false)
  let open_ := partOpen s q.table
  let names : List Status := match q.namesPend with
    | none => []
    | some n =>
      (if n.2.2 && d.cls ≠ 4 then Status.ok else .range) :: n.2.1.map (fun h => ownedStatus s q.table 3 h)
  if q.state = .lost then .lost
  else if aborted then .aborted
  else worst (names ++ [
    if d.body = .unsupported then Status.unsupported else .ok,
    if d.sigOp > 2 || (d.step && d.sigOp = 1) then .range else .ok,
    if (d.step && !open_) || (!d.step && open_ && q.sawStep) then .range else .ok])

/-- A descriptor that matches its position is accepted (R438). -/
def fetchAccept (h : Handle) (d : Desc) (s : State) : State :=
  match queueOf s h with
  | none => s
  | some q =>
    match descNames d, d.body with
    | true, .names hs ok => namesTaken h q d hs ok s
    | _, _ =>
      let st := fetchStatus s q d
      let pos := q.fetchPos
      let first := match q.namesPend with
        | some n => n.1
        | none => pos
      let s := entryAdd h d s
      if st ≠ .ok then retireNow { queue := h, pos := pos } st 0 s
      else if d.step then
        queueMod h (fun q => { q with sawStep := true, rewind := match q.rewind with
          | some p => some p
          | none => some first }) s
      else s

/-- Whether an entry's PHASE and SEQ are those of its position (R429, R438). -/
def descMatches (q : Queue) (d : Desc) : Bool := d.phase = phaseAt q.fetchPos q.size && d.seq = q.fetchPos % 256

/-- What the read of the entry at the fetch position gives: for a ring in device memory of this hub the bytes there, for one in host
memory or on another hub what the answer brought. -/
def ringRead (s : State) (q : Queue) (r : FetchRead) : FetchRead :=
  if ringHost s q || (ringFar s q).isSome then r
  else
    let x := devRead s (tableKey s q.table) (ringAddr s q q.fetchPos) 128
    if x.1 = .ok then .bytes x.2 else .poisoned

/-- The answer of a first read of the entry at the fetch position (R438, R439, R613). -/
def fetchArrive (h : Handle) (r : FetchRead) (s : State) : State :=
  match queueOf s h with
  | none => s
  | some q =>
    if !fetchDue q then s
    else match ringRead s q r with
      | .poisoned => fetchFail h .poisoned 0 s
      | .fault => fetchFail h .fault 2 s
      | .bytes b =>
        let d := descOf b
        if descMatches q d then fetchKick h (fetchAccept h d s)
        else queueMod h (fun q => { q with rereads := 0, rereadAt := some (now s + 256) }) s

/-- A queue handle that names a queue now. -/
def queueNow (s : State) (h : Handle) : Bool := checkHandle s none 2 h = .ok

/-- DESCRIPTOR_FETCH (R438): of a ring in host memory when a port can reach it. -/
def execDescriptorFetch (queue : Handle) (r : FetchRead) (s : State) : Result :=
  live s (fun s =>
    match queueOf s queue with
    | some q =>
      if queueNow s queue && fetchDue q then
        if ringHost s q && (primaryOf s q.table).isNone then fetchKick queue s
        else fetchArrive queue r (fetchAnswered queue s)
      else s
    | none => s)

/-- DESCRIPTOR_REREAD (R439): 256 ns after a mismatch, up to 8 times. -/
def execDescriptorReread (queue : Handle) (r : FetchRead) (s : State) : Result :=
  live s (fun s =>
    match queueOf s queue with
    | some q =>
      (match q.rereadAt with
       | some t =>
         if queueNow s queue && decide (t ≤ now s) && (q.state = .active || q.state = .lost) then
           if ringHost s q && (primaryOf s q.table).isNone then
             queueMod queue (fun q => if q.state = .active then { q with state := .paused } else q) s
           else match ringRead s q r with
             | .poisoned => fetchFail queue .poisoned 0 s
             | .fault => fetchFail queue .fault 2 s
             | .bytes b =>
               let d := descOf b
               if descMatches q d then fetchKick queue (fetchAccept queue d (queueMod queue (fun q => { q with rereadAt := none }) s))
               else if q.rereads + 1 ≥ 8 then fetchFail queue .torn 0 s
               else queueMod queue (fun q => { q with rereads := q.rereads + 1, rereadAt := some (now s + 256) }) s
         else s
       | none => s)
    | none => s)

-- doorbells -------------------------------------------------------------------------------------------------------------

/-- DOORBELL_WRITE (R437, R457). -/
def execDoorbellWrite (port : Fin 2) (page : Fin 4096) (slot : Fin 128) (value : BitVec 32) (s : State) : Result :=
  bar port.val true (pageTake port.val (.slot page.val slot.val value.toNat)) s

/-- EVENT_CONSUMER_WRITE (R453, R457). -/
def execEventConsumerWrite (port : Fin 2) (page : Fin 4096) (slot : Fin 128) (value : BitVec 32) (s : State) : Result :=
  bar port.val true (pageTake port.val (.slot page.val slot.val value.toNat)) s

/-- MSIX_MODERATION_EXPIRY (R454): the message held back by the interval is sent at its end. -/
def execMsixModerationExpiry (event : Handle) (s : State) : Result :=
  live s (fun s =>
    match eventOf s event with
    | some e => if eventLive s event && e.msgDue then eventMessage event s else s
    | none => s)

-- dispatch (R440) -------------------------------------------------------------------------------------------------------

/-- Whether the head command's wait has been met, or what becomes of it (R334, R335, R348, R440). -/
inductive WaitOutcome where
  | met
  | waits (s : State)
  | fails (st : Status) (s : State)

/-- The wait of a command before its dispatch. A slot that a kill of the step has kept serves again (R552). -/
def dispatchWait (r : CmdRef) (q : Queue) (d : Desc) (s : State) : WaitOutcome :=
  if d.waitCtr = 0 then .met
  else
    let tenant := (tenantOf s q.table).getD 0
    match counterCheck s (some tenant) d.waitCtr with
    | .ok =>
      let i := hIdx d.waitCtr
      let v := (counterOf s i).value
      if d.waitValue > v + 2 ^ 62 then .fails .range s
      else if v ≥ d.waitValue then .met
      else if s.tck.waiters.any (fun w => w.kind = .queue r) then .waits (entryMod r (fun e => { e with state := .waiting }) s)
      else
        let w : Waiter := { counter := i, gen := hGen d.waitCtr, target := d.waitValue, kind := .queue r, ctx := q.ctx,
                            table := q.table, registered := now s }
        match waiterTake w s with
        | some s => .waits (entryMod r (fun e => { e with state := .waiting }) s)
        | none => .waits (queueMod r.queue (fun q => { q with retryAt := some (now s + 1000) }) s)
    | .denied => .fails .denied (counterDenied tenant 7 4 d.waitCtr s)
    | st => .fails st s

/-- The number of the step whose part a step command belongs to. -/
def stepNumber (s : State) (t : Nat) (d : Desc) : Nat := match tableAt s t with
  | some tb => if d.step then tb.step.last else 0
  | none => 0

/-- How many tasks stand in the engine queue of a share (R295). -/
def shareDepth (e : Engine) (j : Nat) : Nat := (e.queue.filter (fun t => t.share = j)).length

/-- Puts a command into the engine queue of its table's share (R295, R296); without a free slot, or while the share is ARMED (R77), it
stays where it is, and a share that answers STALE (R87, R89) has it sent again as R79 gives. -/
def nmeDispatch (r : CmdRef) (q : Queue) (d : Desc) (c : NmeCmd) (s : State) : State :=
  match shareFind s c.engine q.table with
  | .lacking => retireNow r .range 0 s
  | .waits => s
  | .stale seat => nmeStale r q.table seat c s
  | .serves j =>
    if shareDepth (engineOf s c.engine) j ≥ 64 then s
    else
      let t : NmeTask := { table := q.table, share := j, cmd := c, ref := some r, srcNode := s.sys.nodeId, step := stepNumber s q.table d,
                           retried := false, ended := false }
      let s := { s with nme := { s.nme with engines := mapUp s.nme.engines c.engine {} (fun e => { e with queue := e.queue ++ [t] }) } }
      entryMod r (fun e => { e with state := .running }) s

/-- Whether dispatch of a queue's command is held: its context is not ACTIVE, its table is pre-empted, or its step's part is on hold
(R440, R550, R555). -/
def dispatchHeld (s : State) (q : Queue) (e : QEntry) : Bool :=
  (match ctxOf s q.ctx with | some c => c.state ≠ .active | none => true)
    || (match tableAt s q.table with | some tb => tb.preempted || (e.d.step && tb.step.onHold) | none => true)

/-- DISPATCH (R440): the queue's first command not dispatched, when its context is ACTIVE, its wait is met and its fence lets it. -/
def execDispatch (queue : Handle) (s : State) : Result :=
  live s (fun s =>
    match queueOf s queue with
    | none => s
    | some q =>
      match q.entries.find? (fun e => e.state = .fetched || e.state = .waiting) with
      | none => s
      | some e =>
        let r : CmdRef := { queue := queue, pos := e.pos }
        let fenced := e.d.fencePrev && q.entries.any (fun x => x.pos ≠ e.pos && posDist e.pos x.pos ≤ posMod / 2)
        let ok := queueNow s queue && (q.state = .active || q.state = .stopped) && e.state = .fetched && e.events.isEmpty
          && q.retryAt.isNone && !dispatchHeld s q e
        if !ok || fenced then s
        else match dispatchWait r q e.d s with
          | .waits s => s
          | .fails st s => fetchKick queue (retireNow r st 0 s)
          | .met =>
            fetchKick queue (match e.d.body with
              | .badNme st => retireNow r st 0 s
              | .nme c _ =>
                (match c.body with
                 | .attnDecode .. => entryMod r (fun e => { e with state := .dispatched }) s
                 | _ => nmeDispatch r q e.d c s)
              | _ => entryMod r (fun e => { e with state := .dispatched }) s))

/-- NOP (R431): a SYNC command commits at once. -/
def execNop (r : CmdRef) (s : State) : Result :=
  live s (withCmd r (fun _ e s => match e.d.body with
    | .nop => commitCmd r (cmdBegins r s)
    | _ => s))

/-- QUEUE_WAIT_RETRY (R348): a wait refused NO_RESOURCE is tried again every 1 µs. -/
def execQueueWaitRetry (queue : Handle) (s : State) : Result :=
  live s (fun s =>
    match queueOf s queue with
    | some q => (match q.retryAt with
        | some t => if t ≤ now s then queueMod queue (fun q => { q with retryAt := none }) s else s
        | none => s)
    | none => s)

-- the arbiter (R445 to R447) --------------------------------------------------------------------------------------------

/-- RESULT of a copy that ended early: the bytes its committed bursts wrote, in units of 256 (R442). -/
def jobResult (s : State) (r : CmdRef) : Nat :=
  match (s.obj.channels.map (fun x => x.2.jobs)).flatten.find? (fun j => j.ref = r) with
  | some j => (j.written + 255) / 256
  | none => 0

/-- Answers the CMD_ABORTs among events that come after a command has been decided (R445, R446). -/
def abortsAnswer (committed : Bool) : List ArbEvent → State → State
  | [], s => s
  | .abort (some m) :: r, s => abortsAnswer committed r (answer m.val { st := if committed then .alreadyComplete else .gone } s)
  | _ :: r, s => abortsAnswer committed r s

/-- What a command's signal and its record wait for (R341, R343, R444): its posted writes not followed by a completed read, by its copy engine,
its near-memory engine, its own output or its cores, and its cores' tiles. -/
def cmdGuards (s : State) (r : CmdRef) (e : QEntry) : List Guard :=
  let copy (b : CopyBody) : List Guard := match mapGet s.obj.channels (hIdx b.channel) with
    | some c => pathGuards s (Unconfirmed.ofEngine c.engine)
    | none => []
  match e.d.body with
  | .copy b => copy b
  | .fill b => copy b
  | .nme c _ => pathGuards s (Unconfirmed.ofSource (fun x => x = cmdSource r || (match c.body, x with
      | .attnDecode .., _ => false
      | _, .engine k => k.val = c.engine
      | _, _ => false)))
  | .launch .. => (match e.ran with
    | some (cl, mask) => coresGuards s cl mask
    | none => [])
  | _ => []

/-- The hold of a command's signal at its commit (R341, R343): it goes to the counter's node. -/
def signalHold (r : CmdRef) (q : Queue) (e : QEntry) (s : State) : State :=
  let d := e.d
  if d.sigOp = 0 then s
  else
    let h : HeldSignal := { id := s.tck.nextHeld, op := if d.sigOp = 1 then .add d.sigValue else .max d.sigValue, node := d.sigNode,
                            counter := d.sigCtr, table := q.table, source := .queue r.queue, rerun := d.step && partOpen s q.table,
                            cmd := some r, core := none, guards := cmdGuards s r e }
    { s with tck := { s.tck with held := s.tck.held ++ [h], nextHeld := (s.tck.nextHeld + 1) % 2 ^ 32 } }

/-- Makes the output of an ATTN_DECODE whose final fold is open unspecified (R286, R445). -/
def foldSpoil (r : CmdRef) (s : State) : State :=
  (s.nme.folds.filter (fun f => f.2.isOpen && f.2.ref = some r)).foldl (fun s f =>
    let u : Accessor := { src := cmdSource r, table := f.2.table, rerun := false, host := true, spoil := true }
    ((ExceptT.run (accWrite u f.2.outVa (List.replicate f.2.outLen 0))).run s).2) s

/-- Decides a command that ends without commit: its work stops (R287, R328, R417, R445, R447). A copy whose burst is in flight stops at
the end of the burst. -/
def decideEnd (r : CmdRef) (st : Status) (cause : Nat) (s : State) : State :=
  let n := jobResult s r
  let s := entryMod r (fun e => { e with state := .decided false st, cause := cause, result := max e.result n }) s
  let s := workStop r (endTask r (foldSpoil r s))
  if burstOf s r then s else jobsDrop r s

/-- COMMAND_COMMIT (R445): the first event presented for a command decides it. At its commit point the table advances (R373). -/
def execCommandCommit (r : CmdRef) (s : State) : Result :=
  live s (fun s =>
    match queueOf s r.queue, entryOf s r with
    | some q, some e =>
      if e.isDecided then s
      else match e.events with
        | [] => s
        | ev :: rest =>
          let s := entryMod r (fun e => { e with events := [] }) s
          (match ev with
           | .commit =>
             abortsAnswer true rest (advance q.table (signalHold r q e (entryMod r (fun e => { e with state := .decided true .ok }) s)))
           | .fail st cause => abortsAnswer false rest (decideEnd r st cause s)
           | .abort m =>
             let s := match m with
               | some m => answer m.val { st := .ok } s
               | none => s
             abortsAnswer false rest (decideEnd r .aborted 0 s))
    | _, _ => s)

/-- Whether a queue has not fetched a position that a doorbell has passed, or holds it as the NAMES entry of a pair not yet fetched. -/
def abortAhead (q : Queue) (pos : Nat) : Bool :=
  (posDist pos q.fetchPos < posDist q.tail q.fetchPos && posDist q.tail q.fetchPos ≤ posMod / 2)
    || (match q.namesPend with
      | some n => n.1 = pos
      | none => false)

/-- The open entry whose command or NAMES entry has a position (R446). -/
def abortEntry (q : Queue) (pos : Nat) : Option QEntry :=
  q.entries.find? (fun e => e.pos = pos || (match e.names with | some n => n.1 = pos | none => false))

/-- Whether the command of a position has ended without commit, or its outcome is kept no longer (R446). -/
def abortGone (q : Queue) (pos : Nat) : Bool :=
  match abortEntry q pos with
  | some e => (match e.state with | .decided c _ => !c | _ => false)
  | none => !abortAhead q pos && (match mapGet q.outcomes (pos % q.size) with
    | some (p, c) => !(p = pos && c)
    | none => true)

/-- CMD_ABORT (R446): of an entry by its place, decided, running, fetched, not fetched yet or retired. Of the failures GONE comes before
RANGE (R16). -/
def effCmdAbort (m : Fin 64) (h : Handle) (pos seq t : Nat) (s : State) : Outcome :=
  match ownedStatus s t 2 h with
  | .ok =>
    (match queueOf s h with
     | none => done .gone s
     | some q =>
       let pos := pos % posMod
       let beyond := posDist pos q.tail < posMod / 2 && posDist pos q.fetchPos < posMod / 2
       if beyond then done .range s
       else if seq ≠ pos % 256 then done (if abortGone q pos then .gone else .range) s
       else
         match abortEntry q pos with
         | some e =>
           let r : CmdRef := { queue := h, pos := e.pos }
           (match e.state with
            | .decided c _ => done (if c then .alreadyComplete else .gone) s
            | .fetched => if e.events.isEmpty then done .ok (retireNow r .aborted 0 s) else later (present r (.abort (some m)) s)
            | .waiting =>
              if e.events.isEmpty then done .ok (retireNow r .aborted 0 { s with tck := { s.tck with
                waiters := s.tck.waiters.filter (fun w => w.kind ≠ .queue r) } })
              else later (present r (.abort (some m)) s)
            | _ => later (endCommand r (.abort (some m)) s))
         | none =>
           if abortAhead q pos then
             done .ok (queueMod h (fun q => { q with abortedAt := if pos ∈ q.abortedAt then q.abortedAt else q.abortedAt ++ [pos] }) s)
           else match mapGet q.outcomes (pos % q.size) with
             | some (p, c) => done (if p = pos && c then .alreadyComplete else .gone) s
             | none => done .gone s)
  | st => done st s

/-- CMD_ABORT. -/
def execCmdAbort (c : Caller) (queue : Handle) (pos seq : Nat) (s : State) : Result :=
  gararn 0x508 .t c (withTable c (effCmdAbort c.mbx queue pos seq)) s

-- retirement (R442 to R444) ---------------------------------------------------------------------------------------------

/-- Whether a decided command's signal has not been answered. -/
def signalOpen (s : State) (r : CmdRef) : Bool :=
  s.tck.held.any (fun h => h.cmd = some r) || s.lnk.txns.any (fun t => match t.what with
    | .signal (some x) _ => x = r
    | _ => false)

/-- The port whose path a queue's records take; none for a ring in device memory. -/
def recordPath (s : State) (q : Queue) : Option Nat := match memOf s q.cplObj with
  | some o => if o.kind = .host then primaryOf s q.table else none
  | none => none

/-- Whether an engine, a cluster or a copy engine has not let go of a command yet (R434, R447). -/
def workOpen (s : State) (r : CmdRef) : Bool :=
  s.nme.engines.any (fun x => match x.2.running with | some t => t.ref = some r | none => false)
    || s.obj.launched.any (fun l => l.ref = some r && !l.waitCore)
    || burstOf s r

/-- Whether a decided command may write its record (R444). -/
def recordReady (s : State) (q : Queue) (r : CmdRef) (e : QEntry) : Bool :=
  e.isDecided && !signalOpen s r && !workOpen s r && !(cmdGuards s r e).any (fun g => match g with
    | .port p _ => recordPath s q ≠ some p
    | _ => true)

/-- COMPLETION_WRITE (R442, R444): a decided command retires; a ring that no port can reach pauses its queue (R421). -/
def execCompletionWrite (r : CmdRef) (s : State) : Result :=
  live s (fun s =>
    match queueOf s r.queue, entryOf s r with
    | some q, some e =>
      if recordReady s q r e then
        if objReachable s q.table q.cplObj then
          let s := { s with obj := { s.obj with launched := s.obj.launched.filter (fun l => l.ref ≠ some r) } }
          fetchKick r.queue (retire r s)
        else queueMod r.queue (fun q => if q.state = .active ∨ q.state = .stopped then { q with state := .paused } else q) s
      else s
    | _, _ => s)

end Sys2Proof.Machine
end

