-- ==== Sys2Proof/Machine/Power.lean ====
section
/-! DEFINITION. PWR (R561 to R572): power windows, the estimate, the cap and its order, admission of cores and wakes, parking, PHASE
mode and the power requests. -/

namespace Sys2Proof.Machine

-- cores -----------------------------------------------------------------------------------------------------------------

/-- How many bits of a core mask are set. -/
def maskCount (m : Nat) : Nat := (maskCores m).length

/-- Cores of the carrier that are on (PWR_STAT.CORES_ON). -/
def coresOnCount (s : State) : Nat := (s.pwr.cores.map (fun x => maskCount x.2)).sum

/-- Whether a core sleeps in a waiter slot or waits for its wake. -/
def coreWaits (s : State) (cl co : Nat) : Bool :=
  s.tck.waiters.any (fun w => match w.kind with
    | .core c k _ => c = cl && k = co
    | _ => false)
  || s.tck.ramp.any (fun e => e.cluster = cl && e.mask / 2 ^ co % 2 = 1)

/-- Whether a core runs a command. -/
def coreHolds (s : State) (cl co : Nat) : Bool := s.obj.launched.any (fun l => l.cluster = cl && l.mask / 2 ^ co % 2 = 1)

/-- Cores of the carrier that run, not clock-gated (R562). -/
def coresRunning (s : State) : Nat :=
  (s.pwr.cores.map (fun x => ((maskCores x.2).filter (fun i => coreHolds s x.1 i && !coreWaits s x.1 i)).length)).sum

-- the estimate and admission (R562, R566, R569, R572) -------------------------------------------------------------------

/-- 64 times the share of its full power that a running core takes at a rate code. -/
def rateShare (rate : Nat) : Nat := 16 + 3 * (rate + 1)

/-- The compute estimate in units of 1/64 mW at the current rate: of the cores, or in PHASE mode from the learned power (R562,
R569). -/
def computeFine (s : State) : Nat :=
  if s.pwr.mode then mapGetD s.pwr.phases s.pwr.phaseNow 0 * 125 * rateShare s.pwr.rate
  else
    let run := coresRunning s
    s.pwr.coreMw * (rateShare s.pwr.rate * run + 16 * (coresOnCount s - run))

/-- Whether some sensor has a class (R572). -/
def pwrConfigured (s : State) : Bool := s.pwr.sensors.any (fun x => x.2.cls ≠ .unused)

/-- Whether PWR admits a number of new cores now (R566, R568, R572). -/
def pwrAdmits (s : State) (n : Nat) : Bool :=
  !pwrConfigured s || s.pwr.distrust || decide (coresOnCount s < 512)
    || decide (computeFine s + n * s.pwr.coreMw * rateShare s.pwr.rate ≤ s.pwr.allowance * 125 * 64)

/-- Sets the issue-rate code of every cluster (PCTL_RATE). -/
def rateSet (r : Nat) (s : State) : State := if r = s.pwr.rate then s else emit (.rate r) (pwrMod (fun p => { p with rate := r }) s)

/-- Turns cores of a cluster on through the power-control port; they are on when the cluster acknowledges. -/
def coreOnSend (cl m : Nat) (s : State) : State :=
  emit (.coreOn cl m) (pwrMod (fun p => { p with onGranted := mapUp p.onGranted cl 0 (fun x => x ||| m) }) s)

/-- Asks PWR for a wake-ramp window of a number of cores (R354, R566). -/
def pwrAskWindow (n : Nat) (s : State) : State :=
  if s.pwr.windowGranted || s.pwr.deferred.any (fun d => d.ramp) then s
  else if pwrAdmits s n then pwrMod (fun p => { p with windowGranted := true }) s
  else pwrMod (fun p => { p with
    deferred := p.deferred ++ [{ cluster := 0, mask := n, ramp := true, seen := 0 }]
    cntDefer := sat64 (p.cntDefer + 1) }) s

/-- CORE_ON_REQUEST (R565, R566): the cores of a bound cluster that a command waits for are admitted, or deferred. -/
def execCoreOnRequest (cluster : Fin 120) (mask : BitVec 64) (s : State) : Result :=
  live s (fun s =>
    let cl := cluster.val
    let busy := mapGetD s.pwr.onGranted cl 0 ||| ((s.pwr.deferred.filter (fun d => !d.ramp && d.cluster = cl)).map (fun d => d.mask)).foldl
      (fun a b => a ||| b) 0
    let m := mask.toNat &&& mapGetD s.pwr.onAsked cl 0 &&& (2 ^ 64 - 1 - busy)
    if m = 0 ∨ (bindAt s cl).state ≠ .bound then s
    else if pwrAdmits s (maskCount m) then coreOnSend cl m s
    else pwrMod (fun p => { p with
      deferred := p.deferred ++ [{ cluster := cl, mask := m, ramp := false, seen := 0 }]
      cntDefer := sat64 (p.cntDefer + 1) }) s)

/-- CORE_ON_ACK (R565): the admitted cores are on, and commands that waited for them are dispatched. -/
def execCoreOnAck (cluster : Fin 120) (s : State) : Result :=
  live s (fun s =>
    let cl := cluster.val
    let m := mapGetD s.pwr.onGranted cl 0
    if m = 0 then s
    else
      let s := coresIdle cl m (pwrMod (fun p => { p with
        cores := mapUp p.cores cl 0 (fun x => x ||| m)
        onGranted := mapDel p.onGranted cl
        onAsked := mapPutD 0 p.onAsked cl (mapGetD p.onAsked cl 0 &&& (2 ^ 64 - 1 - m)) }) s)
      (s.obj.launched.filter (fun l => l.cluster = cl && l.waitCore)).foldl (fun s l => launchGo l s) s)

/-- Whether a core is idle long enough to be parked (R565). -/
def coreIdleDue (s : State) (cl co : Nat) : Bool :=
  coresOn s cl / 2 ^ co % 2 = 1 && !coreHolds s cl co && !coreWaits s cl co && (match mapGet s.pwr.idleSince (cl * 64 + co) with
    | some t => decide (t + s.pwr.parkUs * 1000 ≤ now s)
    | none => false)

/-- CORE_IDLE_PARK (R565). -/
def execCoreIdlePark (cluster : Fin 120) (core : Fin 64) (s : State) : Result :=
  live s (fun s => if coreIdleDue s cluster.val core.val then coreOffSend cluster.val (2 ^ core.val) s else s)

/-- Parks every idle core (R564 step 1). -/
def parkAll (s : State) : State :=
  (s.pwr.cores.map (fun x => x.1)).foldl (fun s cl =>
    let m := ((maskCores (coresOn s cl)).filter (fun i => coreIdleDue s cl i)).foldl (fun a i => a + 2 ^ i) 0
    if m = 0 then s else coreOffSend cl m s) s

-- the window (R561 to R569) ---------------------------------------------------------------------------------------------

/-- The power of a sensor in the window that ends, in units of 0.125 W, rounded down: the mean of its readings times its voltage, or
its assumed current while it is stale (R561). -/
def sensorPower (s : State) (i : Nat) (x : Sensor) : Nat :=
  let n := mapGetD s.sys.telCount i 0
  if s.sys.telStale.getLsbD i ∨ n = 0 then x.max * x.mv / 1000 else mapGetD s.sys.telSum i 0 * x.mv / (n * 1000)

/-- The measured power of a class (R561). -/
def classPower (s : State) (c : PwrClass) : Nat :=
  ((s.pwr.sensors.filter (fun x => x.2.cls = c)).map (fun x => sensorPower s x.1 x.2)).sum

/-- Admits what was deferred (R566): what fits, and at its second window boundary anything, with the rate code one lower. -/
def deferredMove (d : Deferred) (s : State) : State :=
  let n := if d.ramp then d.mask else maskCount d.mask
  let grant (s : State) : State := if d.ramp then pwrMod (fun p => { p with windowGranted := true }) s else coreOnSend d.cluster d.mask s
  if pwrAdmits s n then grant s
  else if d.seen + 1 ≥ 2 then rateSet (s.pwr.rate - 1) (grant s)
  else pwrMod (fun p => { p with deferred := p.deferred ++ [{ d with seen := d.seen + 1 }] }) s

/-- Takes power down one step where measured compute exceeds the allowance, or up one after four low windows (R564). -/
def pwrControl (package : Nat) (s : State) : State :=
  let p := s.pwr
  let above := decide (p.compute > p.allowance)
  let low := if package * 100 < 95 * p.cap then p.lowWindows + 1 else 0
  let s := pwrMod (fun p => { p with lowWindows := min low 4 }) s
  if above then
    let s := parkAll s
    if p.rate > 0 then (if p.mode then s else rateSet (p.rate - 1) s)
    else if p.distrust then s
    else { s with sys := { s.sys with anteLimit := max 380 (s.sys.anteLimit - 32) } }
  else if low ≥ 4 then
    if s.sys.anteLimit < 1520 && !p.distrust then { s with sys := { s.sys with anteLimit := min 1520 (s.sys.anteLimit + 32) } }
    else if p.rate < 15 && !p.mode then rateSet (p.rate + 1) s
    else s
  else s

/-- Compares the estimate with the package power (R568). -/
def pwrCompare (est package : Nat) (s : State) : State :=
  if s.pwr.sensors.any (fun x => x.2.cls ≠ .unused && s.sys.telStale.getLsbD x.1) then s
  else
    let diff := max est package - min est package
    let run := if diff * 5 > package then min 8 (s.pwr.run + 1) else 0
    let first := run = 8 && !s.pwr.distrust
    let s := pwrMod (fun p => { p with run := run, distrust := p.distrust || decide (run = 8) }) s
    if first then irqRaise 57 s else s

/-- Raises CAP_UNMET after eight windows over the cap at the floor (R567). -/
def pwrUnmet (package : Nat) (s : State) : State :=
  let n := if decide (package > s.pwr.cap) && s.pwr.rate = 0 && s.sys.anteLimit = 380 then s.pwr.overWindows + 1 else 0
  let s := pwrMod (fun p => { p with overWindows := min n 8 }) s
  if n ≥ 8 && !s.pwr.capUnmet then irqRaise 57 (pwrMod (fun p => { p with capUnmet := true }) s) else s

/-- The running average that takes 1/8 of each new window (R569), in whole units; which way a fraction is rounded is free. -/
def phaseAverage (old x : Nat) : Nat :=
  (7 * old + x) / 8 + (if (7 * old + x) % 8 = 0 then 0 else b2n (Config.phaseRoundsUp old x))

/-- Learns the compute power of the phase at rate 15 (R569). -/
def phaseLearn (s : State) : State :=
  if s.pwr.mode then
    let k := s.pwr.phaseNow
    let x := s.pwr.compute * 64 / rateShare s.pwr.rate
    pwrMod (fun p => { p with phases := mapUp p.phases k 0 (fun old => phaseAverage old x) }) s
  else s

/-- POWER_WINDOW: the end of a window of 10,000 ticks (R561 to R569, R572). -/
def execPowerWindow (s : State) : Result :=
  live s (fun s =>
    if now s / 10000 ≤ s.pwr.lastWindow / 10000 then s
    else
      let old := s.pwr
      let est := anteUsed s * 7 / 5 + old.memory + old.link + old.other + computeFine s / (64 * 125)
      let link := classPower s .link
      let memory := classPower s .memory
      let hub := classPower s .hub
      let compute := classPower s .compute
      let other := classPower s .other
      let package := link + memory + hub + compute + other
      let s := pwrMod (fun p => { p with
        lastWindow := now s
        estimate := est
        measured := package
        link := link
        memory := memory
        hub := hub
        compute := compute
        other := other
        cap := p.capNext
        allowance := p.capNext - (link + memory + hub + other) }) s
      let s := if pwrConfigured s then pwrUnmet package (pwrCompare est package (pwrControl package (phaseLearn s))) else s
      let ds := s.pwr.deferred
      let s := ds.foldl (fun s d => deferredMove d s) (pwrMod (fun p => { p with deferred := [] }) s)
      { s with sys := { s.sys with telSum := [], telCount := [] } })

/-- The phase of a tick (R569). -/
def phaseOf (s : State) (t : Tick) : Nat :=
  let p := s.pwr.periodUs * 1000
  if p = 0 then 0 else t % p * 16 / p

/-- PHASE_BOUNDARY (R569): the highest rate code at which the coming phase's learned power fits the allowance. -/
def execPhaseBoundary (s : State) : Result :=
  live s (fun s =>
    let k := phaseOf s (now s)
    if !s.pwr.mode || k = s.pwr.phaseNow then s
    else
      let s := pwrMod (fun p => { p with phaseNow := k }) s
      let x := mapGetD s.pwr.phases k 0
      let fits (r : Nat) : Bool := decide (x * rateShare r ≤ s.pwr.allowance * 64)
      let best := ((List.range 16).filter fits).foldl max 0
      if pwrConfigured s then rateSet best s else s)

-- requests (R529) -------------------------------------------------------------------------------------------------------

/-- POWER_CAP: 400 to 2,000 W from the next window. -/
def effPowerCap (watts : Nat) (s : State) : Outcome :=
  if outside watts 400 2000 then done .range s else done .ok (pwrMod (fun p => { p with capNext := 8 * watts }) s)

/-- POWER_MODE. -/
def effPowerMode (mode periodUs : Nat) (s : State) : Outcome :=
  if mode > 1 || outside periodUs 100 10000 then done .range s
  else done .ok (pwrMod (fun p => { p with mode := mode = 1, periodUs := periodUs }) s)

/-- POWER_CLEAR: DISTRUST and its run (R568). -/
def effPowerClear (s : State) : Outcome := done .ok (pwrMod (fun p => { p with distrust := false, run := 0 }) s)

/-- The class of a code (PWR_SENSOR.CLASS). -/
def pwrClass : Nat → PwrClass
  | 1 => .link | 2 => .memory | 3 => .hub | 4 => .compute | 5 => .other | _ => .unused

/-- SENSOR_CFG. -/
def effSensorCfg (sensor cls mv max : Nat) (s : State) : Outcome :=
  if sensor > 31 ∨ cls > 5 ∨ mv > 4095 then done .range s
  else done .ok (pwrMod (fun p => { p with
    sensors := mapPutD ({} : Sensor) p.sensors sensor { cls := pwrClass cls, mv := mv, max := max % 65536 } }) s)

/-- POWER_CORE. -/
def effPowerCore (parkUs coreMw : Nat) (s : State) : Outcome :=
  if outside parkUs 1 255 || outside coreMw 1 1023 then done .range s
  else done .ok (pwrMod (fun p => { p with parkUs := parkUs, coreMw := coreMw }) s)

/-- POWER_CAP. -/
def execPowerCap (c : Caller) (watts : Nat) (s : State) : Result := gararn 0x720 .o c (effPowerCap watts) s

/-- POWER_MODE. -/
def execPowerMode (c : Caller) (mode periodUs : Nat) (s : State) : Result := gararn 0x721 .o c (effPowerMode mode periodUs) s

/-- POWER_CLEAR. -/
def execPowerClear (c : Caller) (s : State) : Result := gararn 0x722 .o c effPowerClear s

/-- SENSOR_CFG. -/
def execSensorCfg (c : Caller) (sensor cls mv max : Nat) (s : State) : Result := gararn 0x723 .o c (effSensorCfg sensor cls mv max) s

/-- POWER_CORE. -/
def execPowerCore (c : Caller) (parkUs coreMw : Nat) (s : State) : Result := gararn 0x724 .o c (effPowerCore parkUs coreMw) s

end Sys2Proof.Machine
end

