-- ==== Sys2Proof/Machine/Counters.lean ====
section
/-! DEFINITION. TCK: operations from cores, queues, the host and the links (R334 to R347), the wake ramp (R349 to R354), counter
windows and mirrors (R355 to R362), the misdeal detector (R371, R372) and the renege timer (R373 to R376). -/

namespace Sys2Proof.Machine

-- sending (R345, R346) --------------------------------------------------------------------------------------------------

/-- The type of a signal packet. -/
def sigType : SigOp → Nat
  | .none => 0x42 | .add _ => 0x40 | .max _ => 0x41

/-- The operation code of a signal (R334). -/
def sigCode : SigOp → Nat
  | .none => 3 | .add _ => 1 | .max _ => 2

/-- The argument of a signal. -/
def sigArg : SigOp → Nat
  | .none => 0 | .add d => d | .max v => v

/-- Sends a signal or a read to a counter of another hub (R344, R346); a signal fences the table's merge entries first. -/
def sigSend (node : Nat) (h : Handle) (op : SigOp) (rerun : Bool) (t : Nat) (w : TxnFor) (s : State) : State :=
  let s := if op = .none then s else fenceKey (tableKey s t) s
  let r := txnOpen node w s
  let bs := match op with
    | .max v => leBytes 8 v
    | _ => []
  packetSend node { src := 0, tenant := (tenantOf s t).getD 0, type := sigType op, rerun := rerun, hasSig := op ≠ .none,
                    addr := node * 2 ^ 32 + h, tag := r.1, sig := op, sigCounter := h, len := bs.length, payload := bs } r.2

-- cores (R338 to R342) --------------------------------------------------------------------------------------------------

/-- Answers a core on the CF response channel. -/
def coreAnswer (r : CtrReq) (st : Status) (v : Nat) (s : State) : State := emit (.cfResponse r.cluster.val r.core.val r.tag st v) s

/-- A core's request of a bound cluster (R122, R338), with the node and the handle of its global reference (R12). -/
def coreRequest (r : CtrReq) (f : Nat → Nat → Handle → State → State) (s : State) : Result :=
  liveOn 11 s (fun s =>
    let b := bindAt s r.cluster.val
    if b.state ≠ .bound then coreAnswer r .denied 0 (trnDenied 0 1 true r.cluster.val s)
    else if r.counter ≥ 2 ^ 44 then coreAnswer r .range 0 s
    else f b.table (r.counter / 2 ^ 32) (r.counter % 2 ^ 32) s)

/-- Whether a core works for a rerunnable step (R160, R336). -/
def coreRerun (s : State) (r : CtrReq) : Bool :=
  (match coreCmd s r.cluster.val r.core.val with | some c => inStep s c | none => false)
    || s.obj.launched.any (fun l => l.cluster = r.cluster.val && l.mask / 2 ^ r.core.val % 2 = 1 && l.rerun)

/-- What a core's fenced signal waits for (R342, R343): its tiles that write, its remote pieces, and the host paths its writes took.
When every guarded write went to the counter's node, that node orders the signal (R246) and nothing is waited for. -/
def coreGuards (s : State) (r : CtrReq) (node : Nat) : List Guard :=
  let mine (x : Source) : Bool := x = .cf r.cluster r.core
  let ts := tileGuards s mine
  let rs := s.lnk.txns.filter (fun x => match x.what with
    | .piece src _ _ _ => mine src
    | _ => false)
  let ps := pathGuards s (Unconfirmed.ofSource mine)
  let issued := (s.trn.tiles.filter (fun x => mine x.src && x.d.op ≠ 1)).all (fun x => x.allChecked && x.checked.isEmpty)
  let away := s.trn.tiles.all (fun x => !(mine x.src && x.d.op ≠ 1) || x.issued.all (fun p => p.target = .remote node false))
  if node ≠ s.sys.nodeId && issued && away && ps.isEmpty && rs.all (fun x => x.dst = node) then []
  else ts ++ rs.map (fun x => .txn x.tag) ++ ps

/-- Applies or sends a released signal and answers its issuer (R341 to R344, R441). One whose operand is out of range is not sent; at a
counter of this hub what the handle finds comes first (R16). -/
def signalGo (h : HeldSignal) (s : State) : State :=
  let s := { s with tck := { s.tck with held := s.tck.held.filter (fun x => x.id ≠ h.id) } }
  let code := sigCode h.op
  let x := sigArg h.op
  let bad := code = 1 && (h.rerun || x = 0 || decide (x ≥ 65536))
  let finish (st : Status) (v : Nat) (s : State) : State :=
    match h.cmd, h.core with
    | some r, _ => if st = .ok then s else signalFailed r st s
    | none, some (cl, co, tag) => emit (.cfResponse cl co tag st v) s
    | none, none => s
  if h.node = s.sys.nodeId then
    let r := counterOp (some ((tenantOf s h.table).getD 0)) h.source.code code bad h.counter x s
    finish r.1.1 r.1.2 r.2
  else if bad then finish .range 0 s
  else sigSend h.node h.counter h.op h.rerun h.table (.signal h.cmd h.core) s

/-- A signal of a core: applied or sent at once, or held behind the writes it guards. -/
def coreSignal (r : CtrReq) (op : SigOp) (t node : Nat) (c : Handle) (s : State) : State :=
  let h : HeldSignal := { id := s.tck.nextHeld, op := op, node := node, counter := c, table := t, source := .cf r.cluster r.core,
                          rerun := coreRerun s r, cmd := none, core := some (r.cluster.val, r.core.val, r.tag),
                          guards := if r.fence then coreGuards s r node else [] }
  if h.guards.isEmpty then signalGo h s
  else { s with tck := { s.tck with held := s.tck.held ++ [h], nextHeld := (h.id + 1) % 2 ^ 32 } }

/-- SIGNAL_ADD of a core (R334, R339). -/
def execSignalAdd (r : CtrReq) (s : State) : Result := coreRequest r (fun t n c s => coreSignal r (.add r.value) t n c s) s

/-- SIGNAL_MAX of a core (R334, R339). -/
def execSignalMax (r : CtrReq) (s : State) : Result := coreRequest r (fun t n c s => coreSignal r (.max r.value) t n c s) s

/-- READ of a core (R334): of a local counter at once, of another hub's by SIG_READ. -/
def execRead (r : CtrReq) (s : State) : Result :=
  coreRequest r (fun t n c s =>
    if n = s.sys.nodeId then
      let x := counterOp (some ((tenantOf s t).getD 0)) 1 3 false c 0 s
      coreAnswer r x.1.1 x.1.2 x.2
    else sigSend n c .none false t (.signal none (some (r.cluster.val, r.core.val, r.tag))) s) s

/-- WAIT_GE of a core (R334, R335, R340, R348, R350): only of a local counter. -/
def execWaitGe (r : CtrReq) (s : State) : Result :=
  coreRequest r (fun t n c s =>
    if n ≠ s.sys.nodeId then coreAnswer r .range 0 s
    else
      let tenant := (tenantOf s t).getD 0
      match counterCheck s (some tenant) c with
      | .ok =>
        let v := (counterOf s (hIdx c)).value
        if r.value > v + 2 ^ 62 then coreAnswer r .range 0 s
        else if v ≥ r.value then coreAnswer r .ok v s
        else
          let w : Waiter := { counter := hIdx c, gen := hGen c, target := r.value, kind := .core r.cluster.val r.core.val r.tag,
                              ctx := cmdCtx s (coreCmd s r.cluster.val r.core.val), table := t, registered := now s }
          (match waiterTake w s with
           | some s => s
           | none => coreAnswer r .noResource 0 s)
      | .denied => coreAnswer r .denied 0 (counterDenied tenant 1 4 c s)
      | st => coreAnswer r st 0 s) s

/-- SIGNAL_RELEASE (R341, R343): the guarded writes have been answered or flushed. -/
def execSignalRelease (id : Nat) (s : State) : Result :=
  liveOn 11 s (fun s =>
    match s.tck.held.find? (fun h => h.id = id) with
    | some h => if h.guards.any (guardStands s) then s else signalGo h s
    | none => s)

-- links (R246, R346, R347, R364) ----------------------------------------------------------------------------------------

/-- A signal or read that has come over a link is applied (R334 to R336, R364, R365): the status and the value. -/
def linkSignal (lp : Nat) (p : Packet) (op : SigOp) (h : Handle) (s : State) : (Status × Nat) × State :=
  let r := counterOp (some p.tenant) 6 (sigCode op) p.rerun h (sigArg op) s
  if r.1.1 = .denied then (r.1, lnkDenied lp p r.2) else r

/-- The operation that a SIG packet carries: SIG_MAX takes its value from the payload (R345, R346). -/
def packetOp (p : Packet) : SigOp :=
  if p.type = 0x40 then p.sig else if p.type = 0x41 then .max (leNat (p.payload.take 8)) else .none

/-- Applies a SIG packet and answers it (R346): the reference must be plain (R12) and name a counter of this hub. -/
def sigApply (lp : Nat) (p : Packet) (s : State) : State :=
  let answer (st : Status) (v : Nat) (s : State) : State := packetReply p 0x43 st (leBytes 8 v) s
  if p.addr ≥ 2 ^ 44 then answer .range 0 s
  else if p.addr / 2 ^ 32 ≠ s.sys.nodeId then answer .gone 0 s
  else
    let r := linkSignal lp p (packetOp p) (p.addr % 2 ^ 32) s
    answer r.1.1 r.1.2 r.2

/-- A SIG packet arrives: a duplicate has no effect, and a signal behind lower ESEQs is held (R245, R246). -/
def sigArrive (lp : Fin 16) (p : Packet) (s : State) : State :=
  match rxAccept lp.val p s with
  | (.fresh, s) => sigApply lp.val p s
  | (_, s) => s

/-- SIG_ADD. -/
def execSigAdd (lp : Fin 16) (p : Packet) (s : State) : Result := liveOn 11 s (sigArrive lp { p with type := 0x40, hasSig := true })

/-- SIG_MAX. -/
def execSigMax (lp : Fin 16) (p : Packet) (s : State) : Result := liveOn 11 s (sigArrive lp { p with type := 0x41, hasSig := true })

/-- SIG_READ. -/
def execSigRead (lp : Fin 16) (p : Packet) (s : State) : Result := liveOn 11 s (sigArrive lp { p with type := 0x42, hasSig := false })

/-- SIG_ANS (R346): ends the signal of a command or the request of a core. A tag already retired ends nothing. -/
def execSigAns (p : Packet) (value : Nat) (s : State) : Result :=
  live s (fun s =>
    match rxAccept 0 { p with type := 0x43, hasSig := false } s with
    | (.fresh, s) =>
      (match txnOf s p.tag with
       | some t =>
         (match t.what with
          | .signal cmd core =>
            let s := txnClose p.tag s
            (match cmd, core with
             | some r, _ => if p.status = .ok then s else signalFailed r p.status s
             | none, some (cl, co, tag) => emit (.cfResponse cl co tag p.status (if p.status = .ok then value else 0)) s
             | none, none => s)
          | _ => s)
       | none => s)
    | (_, s) => s)

-- the wake ramp (R351 to R354) ------------------------------------------------------------------------------------------

/-- Delivers one cluster's wake with the responses of its cores. -/
def wakeDeliver (s : State) (e : RampEntry) : State :=
  let s := emit (.wake e.cluster e.mask) { s with tck := { s.tck with wakeCnt := sat64 (s.tck.wakeCnt + 1) } }
  let s := coresIdle e.cluster e.mask s
  e.answers.foldl (fun s a => emit (.cfResponse e.cluster a.1 a.2.1 a.2.2.1 a.2.2.2) s) s

/-- The start of the wake window that stands at a tick: a multiple of 8 (R352). -/
def windowStart (t : Tick) : Tick := t / 8 * 8

/-- WAKE_WINDOW (R32, R351 to R354): a window of at most eight clusters that fired before it, under the class 0x9 draw and PWR's grant; a
window with no wake releases the draw. -/
def execWakeWindow (s : State) : Result :=
  liveOn 11 s (fun s =>
    let ws := windowStart (now s)
    if ws ≤ s.tck.windowAt ∨ !anteHas s 9 0 then s
    else
      let s := { s with tck := { s.tck with windowAt := ws } }
      if s.tck.ramp.isEmpty then anteFreeDraw 9 0 { s with tck := { s.tck with rampActive := false } }
      else
        let s := { s with tck := { s.tck with rampActive := true } }
        let w := (s.tck.ramp.filter (fun e => e.since < ws)).take 8
        if w.isEmpty then s
        else
          let s := pwrAskWindow ((w.map (fun e => maskCount e.mask)).sum) s
          if s.pwr.windowGranted then
            let s := pwrMod (fun p => { p with windowGranted := false }) { s with tck := { s.tck with ramp := s.tck.ramp.filter (fun e => e ∉ w) } }
            w.foldl wakeDeliver s
          else s)

-- counter windows (R355 to R358) ----------------------------------------------------------------------------------------

/-- COUNTER_WINDOW_ADD (R355, R357, R358). -/
def execCounterWindowAdd (port : Fin 2) (page : Fin 4096) (window : Fin 128) (value : BitVec 64) (s : State) : Result :=
  bar port.val true (pageTake port.val (.window 1 page.val window.val 0 value.toNat)) s

/-- COUNTER_WINDOW_MAX (R355, R357, R358). -/
def execCounterWindowMax (port : Fin 2) (page : Fin 4096) (window : Fin 128) (value : BitVec 64) (s : State) : Result :=
  bar port.val true (pageTake port.val (.window 2 page.val window.val 8 value.toNat)) s

/-- COUNTER_WINDOW_READ (R355, R357): all ones of a LOST counter; an unbound window is a hole. -/
def execCounterWindowRead (port : Fin 2) (page : Fin 4096) (window : Fin 128) (s : State) : Result :=
  bar port.val false (fun s => match windowCounter s page.val window.val with
    | some (_, i) => emit (.bar0Read port.val (counterShown s i)) s
    | none => emit (.bar0Read port.val 0) (swErrSet 1 (windowOffset page.val window.val) s)) s

-- mirrors (R359 to R362, R367) ------------------------------------------------------------------------------------------

/-- MIRROR_WRITE: the latest value is written while no write of the mirror is in flight, and its event follows when the threshold is
reached, or whatever the threshold when the counter is LOST. -/
def execMirrorWrite (index : Nat) (s : State) : Result :=
  liveOn 11 s (fun s =>
    match mapGet s.tck.mirrors index with
    | none => s
    | some m =>
      if m.due && !m.inFlight then
        let v := counterShown s m.counter
        match hostWrite m.table m.addr (leBytes 8 v) (fenceKey (tableKey s m.table) s) with
        | none => s
        | some s =>
          let fire := m.heldEvent || (m.armed && decide (m.threshold ≤ v))
          let s := { s with tck := { s.tck with mirrors := mapPut s.tck.mirrors index { m with
            due := false
            inFlight := true
            heldEvent := false
            armed := m.armed && !fire } } }
          if fire then mirrorEvent m v s else s
      else s)

-- the misdeal detector (R371, R372) -------------------------------------------------------------------------------------

/-- 4,096 fabric cycles in ticks. -/
def misdealTicks : Nat := 2048

/-- The transfer at which a source has been blocked for 4,096 fabric cycles. -/
def blockedAt (s : State) (src : Nat) : Option HeldTransfer :=
  s.sys.fabricHeld.find? (fun h => h.src = src && decide (h.since + misdealTicks ≤ now s))

/-- Whether a link port's transmit side has stood without a credit of a VC for 4,096 fabric cycles. -/
def linkStarved (s : State) (lp vc : Nat) : Bool :=
  let l := lnkPort s lp
  l.credShared = 0 && mapGetD l.credDedicated vc 0 = 0
    && l.txQ.any (fun x => x.f.vc = vc && decide (x.since + misdealTicks ≤ now s))

/-- The chain of blocked sources from one, and how it ends: on itself (VC code 7), or at a starved link port with its VC. -/
def chainFrom (s : State) : Nat → Nat → List Nat → Option (List Nat × Nat)
  | 0, _, _ => none
  | n + 1, src, seen =>
    match blockedAt s src with
    | none => none
    | some h =>
      let seen := seen ++ [src]
      if h.dst ∈ seen then some (seen.dropWhile (fun x => x ≠ h.dst), 7)
      else if 0x10 ≤ h.dst ∧ h.dst ≤ 0x1F ∧ linkStarved s (h.dst - 0x10) h.vc then some (seen, h.vc)
      else chainFrom s n h.dst seen

/-- Resolves the misdeal of a chain that holds a source (R372): the head transfer of its lowest-numbered source goes to the free escape
slot of its destination. -/
def misdealOne (s : State) (src : Nat) : State :=
  match chainFrom s 64 src [] with
  | none => s
  | some (chain, vc) =>
    let low := chain.foldl min (chain.headD src)
    match blockedAt s low with
    | none => s
    | some h =>
      if (mapGet s.sys.escape h.dst).isSome then s
      else
        let s := { s with sys := { s.sys with
          escape := mapPut s.sys.escape h.dst low
          fabricHeld := s.sys.fabricHeld.filter (fun x => x ≠ h) } }
        let t := s.tck
        let s := { s with tck := { t with
          misCnt := sat32 (t.misCnt + 1)
          misValid := true
          misBlock := if t.misValid then t.misBlock else h.dst
          misVc := if t.misValid then t.misVc else vc
          misLength := if t.misValid then t.misLength else min 31 chain.length
          misTick := if t.misValid then t.misTick else now s % 2 ^ 32 } }
        irqRaise 51 s

/-- MISDEAL_SCAN (R371, R372): one examination in each 256 fabric cycles, that is 128 ticks. -/
def execMisdealScan (s : State) : Result :=
  liveOn 11 s (fun s =>
    let at_ := now s / 128 * 128
    if at_ ≤ s.tck.scanAt then s
    else (List.range 64).foldl misdealOne { s with tck := { s.tck with scanAt := at_ } })

-- the renege timer (R373 to R376) ---------------------------------------------------------------------------------------

/-- The contexts of a table with pending work on this hub (R376). -/
def workContexts (s : State) (t : Nat) : List Handle :=
  (ctxsOfTable s t).filter (fun c =>
    s.obj.queues.any (fun x => x.2.ctx = c && x.2.entries.any (fun e => !e.isDecided))
      || s.tck.waiters.any (fun w => w.ctx = c)
      || (match ctxOf s c with | some x => x.state = .parked | none => false))

/-- The lead hub takes a renege of the table's open step (R375, R376): the first kills it for a rerun; when the rerun reneges too, every
context of the step is lost, here and at the members, which the report tells. -/
def renegeLead (t : Nat) (s : State) : State :=
  match tableAt s t with
  | none => s
  | some tb =>
    if tb.step.isOpen && tb.step.state = .open_ then
      if tb.step.reneged then
        let others := (membersOf tb).filter (fun n => n ≠ s.sys.nodeId)
        let s := others.foldl (fun s n => ctrlSend n 0x807 tb.globalId tb.step.last .ok 0 s) s
        (stepContexts s t).foldl (fun s c => contextLose c s) s
      else tableMod t (fun tb => { tb with step := { tb.step with reneged := true } })
          (contextsLeave (stepContexts s t) (stepKillLead t 1 s))
    else s

/-- Captures a renege (R375). -/
def renegeCapture (t outcome : Nat) (s : State) : State :=
  let k := s.tck
  irqRaise 52 { s with tck := { k with
    renValid := true
    renTable := if k.renValid then k.renTable else t
    renOutcome := if k.renValid then k.renOutcome else outcome
    renTick := if k.renValid then k.renTick else now s % 2 ^ 32 } }

/-- RENEGE (R374 to R376): the timer of a table fires; it is held while the control core does not run (R508). A command of a context that
becomes LOST with it ends LOST, which comes before ABORTED (R16). -/
def execRenege (table : Fin 256) (s : State) : Result :=
  liveOn 11 s (fun s =>
    let t := table.val
    match tableAt s t with
    | none => s
    | some tb =>
      if s.mbx.core ≠ .running || !pendingWork s t || decide (tb.renegeTicks < tb.renegeMs * 1000000) then s
      else
        let inStepNow := tb.step.isOpen && tb.step.state = .open_
        let twice := if inStepNow then tb.lead = s.sys.nodeId && tb.step.reneged else tb.renegedOnce
        let s := renegeCapture t (if twice then 2 else 1) s
        let s := tableMod t (fun tb => { tb with reneges := min 255 (tb.reneges + 1), renegeTicks := 0, renegedOnce := true }) s
        let s := if tb.lead = s.sys.nodeId then renegeLead t s else ctrlSend tb.lead 0x807 tb.globalId tb.step.last .ok 0 s
        let s := if !inStepNow && tb.renegedOnce then (workContexts s t).foldl (fun s c => contextLose c s) s else s
        let cmds := ((queuesOfTable s t).map (fun q => (openCmds s q).filter (fun r => match entryOf s r with
          | some e => !(e.d.step && inStepNow)
          | none => false))).flatten
        cmds.foldl (fun s r => endCommand r (.fail .aborted 0x100) s) s)

/-- RENEGE_REPORT (R375, R521): at the lead hub the table's step is killed or lost; from the lead hub it says that the step is lost. -/
def execRenegeReport (src : CtrlFrom) (globalId : Nat) (s : State) : Result :=
  ctrlArrive src (fromMember src.node globalId (fun t s =>
    match tableAt s t with
    | none => s
    | some tb =>
      if tb.lead = s.sys.nodeId then renegeLead t s
      else if src.node = tb.lead then (stepContexts s t).foldl (fun s c => contextLose c s) s
      else s)) s

end Sys2Proof.Machine
end

