-- ==== Sys2Proof/Machine/NmeFormat.lean ====
section
/-! DEFINITION. The element formats of the near-memory engines (R300 to R303), MX quantisation (R308), candidate pairs (R320), and
partial records with their combination (R274 to R277). -/

namespace Sys2Proof.Machine

-- elements (R300 to R303) -----------------------------------------------------------------------------------------------

/-- A value of a format with neither infinity nor NaN (the 6- and 4-bit elements of R300). -/
def numPlain (eb mb w : Nat) : Num :=
  let neg := w / 2 ^ (eb + mb) % 2 = 1
  let ex := w / 2 ^ mb % 2 ^ eb
  let fr := w % 2 ^ mb
  let bias : Int := 2 ^ (eb - 1) - 1
  if ex = 0 then .fin neg fr (1 - bias - mb) else .fin neg (2 ^ mb + fr) (ex - bias - mb)

/-- The value of an element of a format (R300). -/
def elemNum (fmt w : Nat) : Num :=
  match fmt with
  | 0x01 => numOf 4 3 false w
  | 0x11 => numOf 4 3 false w
  | 0x02 => numOf 5 2 true w
  | 0x12 => numOf 5 2 true w
  | 0x03 => numOf 5 10 true w
  | 0x04 => numOf 8 7 true w
  | 0x13 => numPlain 2 3 w
  | 0x14 => numPlain 3 2 w
  | 0x15 => numPlain 2 1 w
  | _ => numOf 8 23 true w

/-- Of a format: fraction bits, the power of two of its least quantum, the code of its largest normal, the code of its infinity (or of
its NaN where it has none), the code of its quiet NaN, and its sign's place (R300, R303). -/
def elemShape (fmt : Nat) : Nat × Int × Nat × Nat × Nat × Nat :=
  match fmt with
  | 0x01 => (3, -9, 0x7E, 0x7F, 0x7F, 7)
  | 0x11 => (3, -9, 0x7E, 0x7F, 0x7F, 7)
  | 0x02 => (2, -16, 0x7B, 0x7C, 0x7F, 7)
  | 0x12 => (2, -16, 0x7B, 0x7C, 0x7F, 7)
  | 0x03 => (10, -24, 0x7BFF, 0x7C00, 0x7E00, 15)
  | 0x04 => (7, -133, 0x7F7F, 0x7F80, 0x7FC0, 15)
  | 0x13 => (3, -3, 0x1F, 0x1F, 0x1F, 5)
  | 0x14 => (2, -4, 0x1F, 0x1F, 0x1F, 5)
  | 0x15 => (1, -1, 0x7, 0x7, 0x7, 3)
  | _ => (23, -149, 0x7F7FFFFF, 0x7F800000, 0x7FC00000, 31)

/-- A value in a format (R303): rounded to nearest even, a finite one beyond the largest normal becoming that. -/
def narrow (fmt : Nat) (x : Num) : Nat :=
  let (mb, q, big, inf, nan, sign) := elemShape fmt
  match x with
  | .nan => nan
  | .inf neg => if inf = nan then nan else b2n neg * 2 ^ sign + inf
  | .fin neg m e => b2n neg * 2 ^ sign + min (magRound mb q m e) big

/-- An element's pattern among packed elements of a width (R301). -/
def elemAt (bits : Nat) (bs : List Byte) (i : Nat) : Nat := fieldAt bs (i * bits / 8) 5 / 2 ^ (i * bits % 8) % 2 ^ bits

/-- The patterns of a row of elements. -/
def unpackRow (bits n : Nat) (bs : List Byte) : List Nat := (List.range n).map (elemAt bits bs)

/-- The number that patterns spell, the first in the lowest bits. -/
def bitsLe (bits : Nat) : List Nat → Nat
  | [] => 0
  | x :: r => x + 2 ^ bits * bitsLe bits r

/-- Packs patterns in groups that fill whole bytes (R301). -/
def packGroups (bits g : Nat) : Nat → List Nat → List Byte
  | 0, _ => []
  | n + 1, xs => if xs.isEmpty then [] else leBytes (g * bits / 8) (bitsLe bits (xs.take g)) ++ packGroups bits g n (xs.drop g)

/-- Packs a row of patterns (R301). -/
def packRow (bits : Nat) (xs : List Nat) : List Byte :=
  packGroups bits (if bits = 6 then 4 else if bits = 4 then 2 else 1) xs.length xs

/-- A value times a power of two. -/
def numScale (k : Int) : Num → Num
  | .fin neg m e => .fin neg m (e + k)
  | x => x

/-- Whether a value is NaN or infinite. -/
def numWild : Num → Bool
  | .fin .. => false
  | _ => true

/-- The greatest power of two in a finite magnitude, if it is not zero. -/
def numLog : Num → Option Int
  | .fin _ m e => if m = 0 then none else some ((Nat.log2 m : Int) + e)
  | _ => none

/-- EMAX of an MX format (R308). -/
def mxEmax (fmt : Nat) : Int :=
  match fmt with
  | 0x11 => 8
  | 0x12 => 15
  | 0x13 => 2
  | 0x14 => 4
  | _ => 2

/-- One group of 32 values in an MX format: its scale byte and its patterns (R308). -/
def quantGroup (fmt : Nat) (xs : List Num) : Nat × List Nat :=
  if xs.any numWild then (0xFF, xs.map (fun _ => 0))
  else
    let top := (xs.filterMap numLog).foldl (fun (a : Option Int) x => match a with
      | some y => some (max x y)
      | none => some x) none
    let e : Int := match top with
      | some t => min (max (t - mxEmax fmt) (-127)) 127
      | none => 0
    ((e + 127).toNat, xs.map (fun x => narrow fmt (numScale (-e) x)))

/-- Groups of 32. -/
def groups32 : Nat → List Num → List (List Num)
  | 0, _ => []
  | n + 1, xs => xs.take 32 :: groups32 n (xs.drop 32)

/-- A row in a pool's format: its data bytes and its scale bytes (R308). -/
def quantRow (fmt : Nat) (xs : List Num) : List Byte × List Byte :=
  if isMx fmt then
    let gs := (groups32 (xs.length / 32) xs).map (quantGroup fmt)
    (packRow (formatBits fmt) (gs.map (fun g => g.2)).flatten, gs.map (fun g => BitVec.ofNat 8 g.1))
  else (packRow (formatBits fmt) (xs.map (narrow fmt)), [])

/-- The values of a stored row (R302): a scale of 0xFF makes its 32 elements NaN. -/
def rowNums (fmt n : Nat) (data scales : List Byte) : List Num :=
  (List.range n).map (fun i =>
    let x := elemNum fmt (elemAt (formatBits fmt) data i)
    if isMx fmt then
      let sc := (scales.getD (i / 32) 0).toNat
      if sc = 0xFF then .nan else numScale ((sc : Int) - 127) x
    else x)

/-- The quotient of two values, not rounded but for a sticky bit far below any format's last place. -/
def numDiv : Num → Num → Num
  | .nan, _ => .nan
  | _, .nan => .nan
  | .inf _, .inf _ => .nan
  | .inf a, .fin b _ _ => .inf (a != b)
  | .fin a _ _, .inf b => .fin (a != b) 0 0
  | .fin a m e, .fin b n f => if n = 0 then (if m = 0 then .nan else .inf (a != b)) else magDiv (a != b) m e n f

-- partial records (R274) ------------------------------------------------------------------------------------------------

/-- The status of a code (R13). -/
def statusOf (c : Nat) : Status :=
  match c with
  | 0 => .ok | 1 => .alreadyComplete | 2 => .aborted | 3 => .lost | 4 => .fault | 5 => .denied | 6 => .stale | 7 => .busy
  | 8 => .torn | 9 => .unsupported | 10 => .noResource | 11 => .version | 12 => .range | 13 => .gone | _ => .poisoned

/-- 32-bit words as bytes. -/
def words32 (xs : List (BitVec 32)) : List Byte := (xs.map (fun x => leBytes 4 x.toNat)).flatten

/-- A row of 16 words, zero beyond the heads. -/
def pad16 (xs : List (BitVec 32)) : List (BitVec 32) := (xs ++ List.replicate 16 0).take 16

/-- The bytes of a partial record (R274). -/
def precBytes (r : PRecord) : List Byte :=
  leBytes 4 r.tag ++ leBytes 2 r.record ++ leBytes 1 r.heads ++ leBytes 1 (b2n r.empty) ++ leBytes 2 r.dim ++ leBytes 2 0
    ++ leBytes 4 r.firstPos ++ leBytes 4 r.lastPos ++ leBytes 4 r.tokens ++ leBytes 2 r.node ++ leBytes 1 r.source
    ++ leBytes 1 r.status.code ++ leBytes 4 0 ++ words32 (pad16 r.m) ++ words32 (pad16 r.l) ++ (r.o.map words32).flatten

/-- Words of a record from an offset. -/
def wordsAt (b : List Byte) (off n : Nat) : List (BitVec 32) := (List.range n).map (fun i => BitVec.ofNat 32 (fieldAt b (off + 4 * i) 4))

/-- The size of a record of heads and dimension (R274). -/
def precSize (heads dim : Nat) : Nat := 160 + 4 * heads * dim

/-- A partial record from its bytes (R274). -/
def precOf (b : List Byte) : PRecord :=
  let f := fieldAt b
  let heads := f 6 1
  let dim := f 8 2
  { tag := f 0 4, record := f 4 2, heads := heads, empty := f 7 1 % 2 = 1, dim := dim, firstPos := f 12 4, lastPos := f 16 4,
    tokens := f 20 4, node := f 24 2 % 4096, source := f 26 1, status := statusOf (f 27 1), m := wordsAt b 32 heads,
    l := wordsAt b 96 heads, o := (List.range heads).map (fun h => wordsAt b (160 + 4 * h * dim) dim) }

/-- The quiet NaN of a head (R276), and the m of an empty head (R274). -/
def headNaN : BitVec 32 := 0x7FC00000
def headEmpty : BitVec 32 := 0xFF800000

/-- A record with no token yet (R274). -/
def precEmpty (tag record heads dim node source : Nat) (st : Status) : PRecord :=
  { tag := tag, record := record, heads := heads, empty := true, dim := dim, firstPos := 0xFFFFFFFF, lastPos := 0, tokens := 0, node := node,
    source := source, status := st, m := List.replicate heads headEmpty, l := List.replicate heads 0,
    o := List.replicate heads (List.replicate dim 0) }

/-- One head of two combined records (R275): m exactly, l and o within the rounding that the spec leaves open. -/
def headCombine (dim : Nat) (a b : BitVec 32 × BitVec 32 × List (BitVec 32)) : BitVec 32 × BitVec 32 × List (BitVec 32) :=
  let x := f32Num a.1.toNat
  let y := f32Num b.1.toNat
  if numIsNan x || numIsNan y then (headNaN, headNaN, List.replicate dim headNaN)
  else if a.1 = headEmpty && b.1 = headEmpty then a
  else
    let m := if numLt x y then b.1 else a.1
    (m, Config.foldL a.1 a.2.1 b.1 b.2.1,
      (List.range dim).map (fun d => Config.foldO a.1 (a.2.2.getD d 0) b.1 (b.2.2.getD d 0)))

/-- Two records of one index combined (R275). -/
def precCombine (a b : PRecord) : PRecord :=
  let head (r : PRecord) (h : Nat) : BitVec 32 × BitVec 32 × List (BitVec 32) := (r.m.getD h 0, r.l.getD h 0, r.o.getD h [])
  let hs := (List.range a.heads).map (fun h => headCombine a.dim (head a h) (head b h))
  { a with
    empty := a.empty && b.empty
    firstPos := min a.firstPos b.firstPos
    lastPos := max a.lastPos b.lastPos
    tokens := sat32 (a.tokens + b.tokens)
    status := worse a.status b.status
    m := hs.map (fun x => x.1)
    l := hs.map (fun x => x.2.1)
    o := hs.map (fun x => x.2.2) }

/-- The elements of a record in NORMALISED mode, packed in a format (R277). -/
def normalised (fmt : Nat) (r : PRecord) : List Byte :=
  ((List.range r.heads).map (fun h =>
    let m := f32Num (r.m.getD h 0).toNat
    let l := f32Num (r.l.getD h 0).toNat
    let zero := match l with
      | .fin _ 0 _ => true
      | _ => false
    let elem (d : Nat) : Nat :=
      if numIsNan m then narrow fmt .nan
      else if zero then 0
      else narrow fmt (numDiv (f32Num ((r.o.getD h []).getD d 0).toNat) l)
    packRow (formatBits fmt) ((List.range r.dim).map elem))).flatten

-- TOPK (R320) -----------------------------------------------------------------------------------------------------------

/-- A candidate: its FP32 pattern and its index. -/
abbrev Candidate := Nat × Nat

/-- Whether a candidate goes before another (R320): the larger value, then the lower index; the zeros are equal. -/
def candBefore (a b : Candidate) : Bool :=
  if numLt (f32Num b.1) (f32Num a.1) then true
  else if numLt (f32Num a.1) (f32Num b.1) then false
  else decide (a.2 < b.2)

/-- Places a candidate among ordered ones. -/
def candInsert (c : Candidate) : List Candidate → List Candidate
  | [] => [c]
  | d :: r => if candBefore c d then c :: d :: r else d :: candInsert c r

/-- The K first candidates of a list, with the filler pairs (R320). -/
def candTop (k : Nat) (cs : List Candidate) : List Candidate :=
  let best := (cs.filter (fun c => !numIsNan (f32Num c.1))).foldl (fun l c => (candInsert c l).take k) []
  (best ++ List.replicate k (0xFF800000, 0xFFFFFFFF)).take k

/-- The bytes of candidate pairs. -/
def candBytes (cs : List Candidate) : List Byte := (cs.map (fun c => leBytes 4 c.1 ++ leBytes 4 c.2)).flatten

end Sys2Proof.Machine
end

