-- ==== Sys2Proof/Machine/Nme.lean ====
section
/-! DEFINITION. The near-memory engines: engine queues and their turns (R295 to R299), the commands that run on one engine (R305 to
R322), restart and failure (R326, R329), and the self-test (R323 to R325, R601, R602). -/

namespace Sys2Proof.Machine

-- engines ---------------------------------------------------------------------------------------------------------------

/-- Changes an engine. -/
def engineMod (e : Nat) (f : Engine → Engine) (s : State) : State :=
  { s with nme := { s.nme with engines := mapUp s.nme.engines e {} f } }

/-- The opcode of a task (R292); an engine task of ATTN_DECODE counts as its command. -/
def nmeOpcode : NmeBody → Nat
  | .attnDecode .. => 0x01 | .attnTask .. => 0x01 | .kvAppend .. => 0x02 | .kvCopy .. => 0x03 | .kvCompact .. => 0x04
  | .gather .. => 0x05 | .scatterAdd .. => 0x06 | .topk .. => 0x07 | .merge .. => 0x08 | .selftest => 0x0F

/-- The first task of a share's engine queue. -/
def shareHead (e : Engine) (j : Nat) : Option NmeTask := e.queue.find? (fun t => t.share = j)

/-- Whether a task may start: it does not wait for its fault, its context is ACTIVE or it was already running when that was parked, and a late
drain lets its step run (R143, R148, R151, R323). -/
def taskReady (s : State) (e : Engine) (t : NmeTask) : Bool :=
  !t.parked
    && (t.rerun || match t.ref with
      | some r => (match ctxOf s (cmdContext s r) with | some c => c.state = .active | none => true)
      | none => true)
    && (!(e.drainFor.isSome && e.drainLate) || (t.step ≠ 0 && e.stepsRun.contains (t.table, t.step)))

/-- Whether a share of engine n has a task that may start; a SUSPENDED share does not act (R83, R87). -/
def shareReady (s : State) (n : Nat) (e : Engine) (j : Nat) : Bool := match shareHead e j with
  | some t => (bindAt s (nmeIndex n j)).state ≠ .suspended && taskReady s e t
  | none => false

/-- The share whose turn it is (R297): the one that has turns left, else the next in order with a task. -/
def shareTurn (s : State) (n : Nat) (e : Engine) : Option (Nat × Nat) :=
  if e.turnsLeft > 0 && shareReady s n e e.turn then some (e.turn, e.turnsLeft)
  else
    match ((List.range 16).map (fun i => (e.turn + 1 + i) % 16)).find? (shareReady s n e) with
    | some j => some (j, max 1 (bindAt s (nmeIndex n j)).weight)
    | none => none

/-- Whether an engine can take a task. -/
def engineFree (e : Engine) : Bool :=
  e.running.isNone && e.selected.isNone && (e.state = .idle || e.state = .waitAnte || e.state = .running || e.state = .draining)

/-- Whether an engine that drains stands at a step boundary (R323): between commands, with no command queued of a step that has
already run on it. -/
def atBoundary (e : Engine) : Bool :=
  e.running.isNone && e.selected.isNone && !(e.queue.any (fun t => t.step ≠ 0 && e.stepsRun.contains (t.table, t.step)))

/-- ENGINE_SELECT (R297, R298): the share whose turn it is gives its first task, and the engine asks for its draw. -/
def execEngineSelect (e : Fin 16) (s : State) : Result :=
  live s (fun s =>
    let x := engineOf s e.val
    if !engineFree x || (x.drainFor.isSome && atBoundary x) then s
    else match shareTurn s e.val x with
      | none => s
      | some (j, n) =>
        match shareHead x j with
        | none => s
        | some t =>
          anteRequest 2 e.val false (engineMod e.val (fun x => { x with
            queue := x.queue.erase t
            selected := some t
            turn := j
            turnsLeft := n - 1
            state := if x.drainFor.isSome then .draining else .waitAnte }) s))

/-- ENGINE_COMMAND_START (R298, R299): the selected task starts once its draw is granted; task memory that another table's command wrote is
zeroed first. -/
def execEngineCommandStart (e : Fin 16) (s : State) : Result :=
  liveOn 10 s (fun s =>
    let x := engineOf s e.val
    match x.selected with
    | none => if x.running.isNone then anteDrop 2 e.val (engineMod e.val (fun x =>
        { x with state := if x.state = .waitAnte then .idle else x.state }) s) else s
    | some t =>
      if !anteHas s 2 e.val then s
      else engineMod e.val (fun x => { x with
        selected := none
        running := some t
        prevTable := some t.table
        dirtyTask := x.dirtyTask && x.prevTable = some t.table
        state := if x.drainFor.isSome then .draining else .running
        stepsRun := if t.step = 0 || x.stepsRun.contains (t.table, t.step) then x.stepsRun else x.stepsRun ++ [(t.table, t.step)] }) s)

-- the end of a task -----------------------------------------------------------------------------------------------------

/-- Releases an engine from its running task, with its draw (R42, R298). -/
def engineRelease (e : Fin 16) (s : State) : State :=
  anteFreeDraw 2 e.val (accForget (.engine e) (engineMod e.val (fun x => { x with
    running := none
    state := if x.state = .failed then .failed else if x.drainFor.isSome then .draining else .idle }) s))

/-- Captures a task that failed in NME_ENG_ERR. -/
def engineError (e : Nat) (t : NmeTask) (st : Status) (s : State) : State :=
  let x := engineOf s e
  if st = .ok then s
  else
    let s := engineMod e (fun x => if x.errValid then x else { x with
      errValid := true, errStatus := st, errOpcode := nmeOpcode t.cmd.body, errTable := t.table, errTag := t.cmd.tag }) s
    if x.errValid then s else irqRaise (64 + e) s

/-- A task ends with a status: the engine is released and counts it. -/
def taskFinish (e : Fin 16) (t : NmeTask) (st : Status) (s : State) : State :=
  engineError e.val t st (engineMod e.val (fun x => { x with cmdCnt := sat64 (x.cmdCnt + 1) }) (engineRelease e s))

/-- A command's task ends: its command commits or fails (R292). -/
def cmdTaskFinish (e : Fin 16) (t : NmeTask) (st : Status) (s : State) : State :=
  let s := taskFinish e t st s
  match t.ref with
  | some r => if st = .ok then commitCmd r s else failUnit r st s
  | none => s

/-- A task that faults returns to the head of its engine queue as not started (R143, R326), and its fault is presented. -/
def taskFault (e : Fin 16) (t : NmeTask) (op va : Nat) (c : Cause) (entry level pa : Nat) (rerun : Bool) (s : State) : State :=
  let t' : NmeTask := { t with parked := true, rerun := false, effect := none, last := none }
  let s := engineMod e.val (fun x => { x with queue := t' :: x.queue }) (engineRelease e s)
  let ctx := match t.ref with
    | some r => cmdContext s r
    | none => 0
  faultPresent { source := .engine e, table := t.table, ctx := ctx, cmd := t.ref, tag := t.cmd.tag, va := va, pa := pa, entry := entry,
                 level := level, cause := c, access := accessBits op rerun } s

-- passes ----------------------------------------------------------------------------------------------------------------

/-- What a pass over a command leaves to do: the status with which it ends, and a last access after its others are answered. -/
abbrev PassEnd := Status × Option (Nat × List Byte × Nat)

/-- Runs a pass. -/
def runPass {α : Type} (p : Pass α) (s : State) : Except Halt α × State := (ExceptT.run p).run s

/-- A block-table entry from its bytes (R267). -/
def blockEntry (b : List Byte) : BlockEntry := { va := fieldAt b 0 8, pos := fieldAt b 8 4, count := fieldAt b 12 2 }

/-- The heads of a pool's rows. -/
def poolHeads (p : PoolDesc) : Nat := if p.mode = 1 then 1 else p.kvHeads

/-- Every plane and head of a pool, in order. -/
def poolPlaneHeads (p : PoolDesc) : List (Nat × Nat) :=
  ((List.range (poolPlanes p)).map (fun pl => (List.range (poolHeads p)).map (fun h => (pl, h)))).flatten

/-- The places of one row of a block: its data and, in an MX format, its scales. -/
def rowParts (p : PoolDesc) (block plane head tok : Nat) : List (Nat × Nat) :=
  let a := poolAt p plane head tok
  (block + a.1, poolRow p) :: (if poolSc p = 0 then [] else [(block + a.2, poolSc p)])

/-- KV_APPEND (R305 to R308). -/
def kvAppendPass (u : Accessor) (poolVa entryVa srcVa first tokens fmt : Nat) : Pass PassEnd := do
  let pool := poolOf (← accRead u poolVa 32)
  let be := blockEntry (← accRead u entryVa 16)
  passRange (!poolOk pool || decide (first ≥ pool.blockTokens) || decide (first + tokens > pool.blockTokens)
    || decide (be.count > pool.blockTokens))
  let rows := poolPlaneHeads pool
  let size := pool.dim * (formatBits fmt / 8)
  let src ← accRead u srcVa (tokens * rows.length * size)
  let write (t : Nat) (k : Nat) (ph : Nat × Nat) : List (Nat × List Byte) :=
    let raw := (src.drop ((t * rows.length + k) * size)).take size
    let q := quantRow pool.format ((unpackRow (formatBits fmt) pool.dim raw).map (elemNum fmt))
    let a := poolAt pool ph.1 ph.2 (first + t)
    (be.va + a.1, q.1) :: (if q.2.isEmpty then [] else [(be.va + a.2, q.2)])
  let ws := ((List.range tokens).map (fun t => (rows.zipIdx.map (fun x => write t x.2 x.1)).flatten)).flatten
  accChecks u 2 (ws.map (fun w => (w.1, w.2.length)))
  accCheck { u with host := false } 3 (entryVa + 12) 4
  accWrites u ws
  pure (.ok, some (entryVa + 12, leBytes 4 (first + tokens), 5))

/-- The parts of a block that KV_COPY copies: all of it, or the rows of its first tokens in every plane and head (R310). -/
def copyParts (p : PoolDesc) (tokens : Nat) : List (Nat × Nat) :=
  if tokens = 0 then [(0, p.blockBytes)]
  else ((poolPlaneHeads p).map (fun ph =>
    let a := poolAt p ph.1 ph.2 0
    (a.1, tokens * poolRow p) :: (if poolSc p = 0 then [] else [(a.2, tokens * poolSc p)]))).flatten

/-- Whether a pair of KV_COPY touches blocks of another pair (R311). -/
def pairTangled (n : Nat) (ps : List (Nat × Nat)) (p : Nat × Nat) : Bool :=
  let meet (a b : Nat) : Bool := decide (a < b + n) && decide (b < a + n)
  (ps.erase p).any (fun q => meet p.2 q.1 || meet p.2 q.2 || meet p.1 q.2)

/-- The writes of one pair: what was read, or unspecified bytes where pairs overlap. -/
def pairWrites (parts : List (Nat × Nat)) (tangled : Bool) (dst : Nat) : List (List Byte) → Pass (List (Nat × List Byte))
  | bs => do
    if tangled then
      let f ← freeBytes ((parts.map (fun x => x.2)).sum)
      let offs := parts.foldl (fun (acc : List (Nat × Nat × Nat) × Nat) x => (acc.1 ++ [(x.1, x.2, acc.2)], acc.2 + x.2)) ([], 0)
      pure (offs.1.map (fun x => (dst + x.1, (f.drop x.2.2).take x.2.1)))
    else pure ((parts.zip bs).map (fun x => (dst + x.1.1, x.2)))

/-- Reads and collects the writes of pairs in list order. -/
def pairsGather (u : Accessor) (parts : List (Nat × Nat)) (n : Nat) (all : List (Nat × Nat)) :
    List (Nat × Nat) → Pass (List (Nat × List Byte))
  | [] => pure []
  | p :: r => do
    let bs ← accReads u (parts.map (fun x => (p.1 + x.1, x.2)))
    let ws ← pairWrites parts (pairTangled n all p) p.2 bs
    let rest ← pairsGather u parts n all r
    pure (ws ++ rest)

/-- KV_COPY (R310, R311). -/
def kvCopyPass (u : Accessor) (poolVa pairsVa pairs tokens : Nat) : Pass PassEnd := do
  let pool := poolOf (← accRead u poolVa 32)
  passRange (!poolOk pool || decide (tokens > pool.blockTokens))
  let raw ← accRead u pairsVa (16 * pairs)
  let all := ((List.range pairs).map (fun i => (fieldAt raw (16 * i) 8, fieldAt raw (16 * i + 8) 8))).filter (fun p => p.1 ≠ p.2)
  let parts := copyParts pool tokens
  accChecks u 2 (all.map (fun p => parts.map (fun x => (p.2 + x.1, x.2)))).flatten
  let ws ← pairsGather u parts pool.blockBytes all all
  accWrites u ws
  pure (.ok, none)

/-- The plan of KV_COMPACT: destination entries with the source tokens that go into them, in order (R313). -/
def compactPlan (b : Nat) (tokens : List (Nat × Nat × Nat)) : List (Nat × List (Nat × Nat)) :=
  (tokens.foldl (fun (acc : List (Nat × List (Nat × Nat))) x =>
    match acc with
    | (p, l) :: r => if l.length = b ∨ x.2.2 ≠ p + l.length then (x.2.2, [(x.1, x.2.1)]) :: acc else (p, l ++ [(x.1, x.2.1)]) :: r
    | [] => [(x.2.2, [(x.1, x.2.1)])]) []).reverse

/-- KV_COMPACT (R312, R313). -/
def kvCompactPass (u : Accessor) (poolVa srcBt keepVa freeVa dstBt resultVa blocks frees : Nat) : Pass PassEnd := do
  let pool := poolOf (← accRead u poolVa 32)
  passRange (!poolOk pool)
  let b := pool.blockTokens
  let raw ← accRead u srcBt (16 * blocks)
  let es := (List.range blocks).map (fun i => blockEntry ((raw.drop (16 * i)).take 16))
  passRange (es.any (fun x => decide (x.count > b)))
  let keep ← accRead u keepVa ((b * blocks + 7) / 8)
  let kept (i t : Nat) : Bool := (keep.getD ((b * i + t) / 8) 0).toNat / 2 ^ ((b * i + t) % 8) % 2 = 1
  let toks := (es.zipIdx.map (fun x =>
    ((List.range x.1.count).filter (kept x.2)).map (fun t => (x.2, t, x.1.pos + t)))).flatten
  let plan := compactPlan b toks
  let fraw ← accRead u freeVa (8 * frees)
  let free := (List.range frees).map (fun i => fieldAt fraw (8 * i) 8)
  if plan.length > frees then passStop (.status .noResource)
  passRange ((free.take plan.length).any (fun f => es.any (fun x => x.va = f)))
  let row (j : Nat) (k : (Nat × Nat) × Nat) (ph : Nat × Nat) : List ((Nat × Nat) × (Nat × Nat)) :=
    (rowParts pool (es.getD k.1.1 ⟨0, 0, 0⟩).va ph.1 ph.2 k.1.2).zip (rowParts pool (free.getD j 0) ph.1 ph.2 k.2)
  let entry (d : (Nat × List (Nat × Nat)) × Nat) : List ((Nat × Nat) × (Nat × Nat)) :=
    (d.1.2.zipIdx.map (fun k => ((poolPlaneHeads pool).map (row d.2 k)).flatten)).flatten
  let moves := (plan.zipIdx.map entry).flatten
  let ents := plan.zipIdx.map (fun d =>
    (dstBt + 16 * d.2, leBytes 8 (free.getD d.2 0) ++ leBytes 4 d.1.1 ++ leBytes 2 d.1.2.length ++ leBytes 2 0))
  accChecks u 2 (moves.map (fun m => m.2))
  accChecks u 2 (ents.map (fun x => (x.1, 16)))
  accCheck u 2 resultVa 8
  let bs ← accReads u (moves.map (fun m => m.1))
  accWrites u ((moves.zip bs).map (fun m => (m.1.2.1, m.2)))
  accWrites u ents
  pure (.ok, some (resultVa, leBytes 4 plan.length ++ leBytes 4 toks.length, 0))

/-- GATHER (R314, R315). -/
def gatherPass (u : Accessor) (srcVa indexVa dstVa srcPitch dstPitch rowBytes count srcRows : Nat) : Pass PassEnd := do
  let raw ← accRead u indexVa (4 * count)
  let ix := (List.range count).map (fun i => fieldAt raw (4 * i) 4)
  passRange (ix.any (fun i => decide (i ≥ srcRows)))
  accChecks u 2 ((List.range count).map (fun i => (dstVa + i * dstPitch, rowBytes)))
  let bs ← accReads u (ix.map (fun i => (srcVa + i * srcPitch, rowBytes)))
  accWrites u (bs.zipIdx.map (fun x => (dstVa + x.2 * dstPitch, x.1)))
  pure (.ok, none)

/-- The atomic rows of a destination row: at most 64 bytes each, within 64-byte boundaries (R317). -/
def addRows : Nat → Nat → List Byte → List (Nat × List Byte)
  | 0, _, _ => []
  | n + 1, va, bs =>
    if bs.isEmpty then []
    else
      let k := min bs.length (64 - va % 64)
      (va, bs.take k) :: addRows n (va + k) (bs.drop k)

/-- Places an add in the order in which adds take effect. -/
def addInsert (key : Nat → Nat) (x : Nat × Nat × List Byte) : List (Nat × Nat × List Byte) → List (Nat × Nat × List Byte)
  | [] => [x]
  | y :: r => if key x.1 ≤ key y.1 then x :: y :: r else y :: addInsert key x r

/-- Puts adds in the open order of R317. -/
def addSort (key : Nat → Nat) (xs : List (Nat × List Byte)) : List (Nat × List Byte) :=
  ((xs.zipIdx.map (fun x => (x.2, x.1.1, x.1.2))).foldr (addInsert key) []).map (fun x => x.2)

/-- Checks that go with a RANGE found already: of the two failures R16 chooses. -/
def passRanked (bad : Bool) (checks : Pass Unit) : Pass Unit := do
  tryCatch checks (fun h => throw (match h with
    | .fault .. => if bad then .status .range else h
    | .status st => .status (if bad then worse st .range else st)
    | .wait => h))
  passRange bad

/-- SCATTER_ADD (R316 to R318): everything is read, translated and checked before the first add. -/
def scatterAddPass (u : Accessor) (srcVa indexVa dstVa weightVa srcPitch dstPitch elems count dstRows fmt : Nat) : Pass PassEnd := do
  let raw ← accRead u indexVa (4 * count)
  let ix := (List.range count).map (fun i => fieldAt raw (4 * i) 4)
  let wraw ← (if weightVa = 0 then pure [] else accRead u weightVa (4 * count))
  let size := elems * (formatBits fmt / 8)
  let srcs := (List.range count).map (fun i => (srcVa + i * srcPitch, size))
  passRanked (ix.any (fun i => decide (i ≥ dstRows))) (do
    accChecks u 1 srcs
    accChecks { u with host := false } 3 ((ix.filter (fun i => decide (i < dstRows))).map (fun i => (dstVa + i * dstPitch, 4 * elems))))
  let rows ← accReads u srcs
  let weight (i : Nat) : Num := if weightVa = 0 then f32Num 0x3F800000 else f32Num (fieldAt wraw (4 * i) 4)
  let prod (i : Nat) (b : List Byte) : List Byte :=
    ((unpackRow (formatBits fmt) elems b).map (fun w => leBytes 4 (f32Of (numMul (elemNum fmt w) (weight i))))).flatten
  let adds := (rows.zipIdx.map (fun x => addRows (elems + 2) (dstVa + ix.getD x.2 0 * dstPitch) (prod x.2 x.1))).flatten
  let s ← get
  set (freshUp s)
  accAtomics u 2 (addSort (Config.addOrder s.fresh) adds)
  pure (.ok, none)

/-- The candidates of a row (R320). -/
def rowCandidates (fmt n base : Nat) (b : List Byte) : List Candidate :=
  if fmt = 0x20 then (List.range n).map (fun i => (fieldAt b (8 * i) 4, fieldAt b (8 * i + 4) 4))
  else (List.range n).map (fun i => (f32Of (elemNum fmt (elemAt (formatBits fmt) b i)), base + i))

/-- TOPK (R319, R320). -/
def topkPass (u : Accessor) (srcVa dstVa srcPitch n base rows k fmt : Nat) : Pass PassEnd := do
  let size := if fmt = 0x20 then 8 else formatBits fmt / 8
  accChecks u 2 ((List.range rows).map (fun r => (dstVa + r * 8 * k, 8 * k)))
  let bs ← accReads u ((List.range rows).map (fun r => (srcVa + r * srcPitch, n * size)))
  accWrites u (bs.zipIdx.map (fun x => (dstVa + x.2 * 8 * k, candBytes (candTop k (rowCandidates fmt n base x.1)))))
  pure (.ok, none)

/-- Reads the records of one input of MERGE, one after the other. -/
def inputRecords (u : Accessor) (base : Nat) : Nat → Nat → Pass (List (List Byte))
  | 0, _ => pure []
  | n + 1, off => do
    let h ← accRead u (base + off) 32
    let size := precSize (fieldAt h 6 1) (fieldAt h 8 2)
    passRange (outside (fieldAt h 6 1) 1 16 || decide (off + size > 2 ^ 20))
    let b ← accRead u (base + off) size
    let rest ← inputRecords u base n (off + size)
    pure (b :: rest)

/-- Reads the inputs of MERGE. -/
def mergeInputs (u : Accessor) (srcVa stride records : Nat) : Nat → Nat → Pass (List (List PRecord))
  | 0, _ => pure []
  | n + 1, i => do
    let bs ← inputRecords u (srcVa + i * stride) records 0
    let rest ← mergeInputs u srcVa stride records n (i + 1)
    pure (bs.map precOf :: rest)

/-- MERGE (R321, R322): it writes its output whatever the statuses of its inputs, and ends with the one that R16 chooses. -/
def mergePass (u : Accessor) (e tag srcVa dstVa stride inputs records mode fmt : Nat) : Pass PassEnd := do
  let ins ← mergeInputs u srcVa stride records inputs 0
  let first := ins.headD []
  passRange (ins.any (fun l => (l.zipIdx.any (fun x => x.1.record ≠ x.2))
    || (l.zip first).any (fun p => p.1.heads ≠ p.2.heads || p.1.dim ≠ p.2.dim)))
  let s ← get
  let node := s.sys.nodeId
  let recs := (ins.drop 1).foldl (fun (acc : List PRecord) l => (acc.zip l).map (fun p => precCombine p.1 p.2)) first
  let recs := recs.map (fun r => { r with tag := tag, node := node, source := e })
  let out := (recs.map (fun r => if mode = 1 then precBytes r else normalised fmt r)).flatten
  accCheck u 2 dstVa out.length
  accWrite u dstVa out
  pure (worst (recs.map (fun r => r.status)), none)

/-- The pass of a command. -/
def nmePass (u : Accessor) (e : Nat) (c : NmeCmd) : Pass PassEnd :=
  match c.body with
  | .kvAppend p en sv f t fm => kvAppendPass u p en sv f t fm
  | .kvCopy p pv n t => kvCopyPass u p pv n t
  | .kvCompact p a b c d r n m => kvCompactPass u p a b c d r n m
  | .gather a b c d f g h i => gatherPass u a b c d f g h i
  | .scatterAdd a b c d f g h i j k => scatterAddPass u a b c d f g h i j k
  | .topk a b c d f g h i => topkPass u a b c d f g h i
  | .merge a b d f g h i => mergePass u e c.tag a b d f g h i
  | _ => pure (.ok, none)

/-- Whether a task's pieces are rerunnable (R160). -/
def taskRerun (s : State) (t : NmeTask) : Bool := match t.ref with
  | some r => inStep s r
  | none => false

/-- The accessor of an engine's task. -/
def taskAccessor (s : State) (e : Fin 16) (t : NmeTask) : Accessor :=
  { src := .engine e, table := t.table, rerun := taskRerun s t, host := true }

/-- Sets the running task. -/
def runningSet (e : Nat) (t : NmeTask) (s : State) : State := engineMod e (fun x => { x with running := some t }) s

/-- Carries an engine's command on once its pass has made its accesses: when they are answered, its last access, and then its end. -/
def taskSettle : Nat → Fin 16 → NmeTask → Status → State → State
  | 0, _, _, _, s => s
  | n + 1, e, t, st, s =>
    match accEnd s (.engine e) with
    | none => s
    | some x =>
      let all := worse st x
      match t.last with
      | some (va, bs, code) =>
        if x ≠ .ok then cmdTaskFinish e t all s
        else
          let u := taskAccessor s e t
          let t' : NmeTask := { t with last := none }
          (match runPass (if code = 0 then accWrite u va bs else accAtomic u va code bs) (runningSet e.val t' s) with
           | (.ok _, s) => taskSettle n e t' st s
           | (.error .wait, _) => s
           | (.error (.status y), s) => cmdTaskFinish e t y s
           | (.error (.fault op va c en lv pa), s) => taskFault e t op va c en lv pa u.rerun s)
      | none => cmdTaskFinish e t all s

/-- Runs an engine's command as far as it goes (R143, R292, R326); what an aborted one would have written is unspecified (R328). -/
def engineRun (e : Fin 16) (t : NmeTask) (s : State) : State :=
  if t.ended then
    let s := (runPass (nmePass { taskAccessor s e t with spoil := true } e.val t.cmd) s).2
    engineRelease e (engineMod e.val (fun x => { x with cmdCnt := sat64 (x.cmdCnt + 1) }) s)
  else match t.effect with
    | some st => taskSettle 2 e t st s
    | none =>
      let u := taskAccessor s e t
      match runPass (nmePass u e.val t.cmd) s with
      | (.ok (st, last), s) =>
        let t' : NmeTask := { t with effect := some st, last := last }
        taskSettle 2 e t' st (runningSet e.val t' s)
      | (.error .wait, s) => s
      | (.error (.status st), s) => cmdTaskFinish e t st s
      | (.error (.fault op va c en lv pa), s) => taskFault e t op va c en lv pa u.rerun s

/-- A row of an engine's command: it moves the running task when that has the opcode. -/
def engineRow (op : Nat) (e : Fin 16) (s : State) : Result :=
  liveOn 10 s (fun s =>
    match (engineOf s e.val).running with
    | some t =>
      (match t.cmd.body with
       | .attnTask .. => s
       | b => if nmeOpcode b = op then engineRun e t (engineMod e.val (fun x => { x with dirtyTask := true }) s) else s)
    | none => s)

/-- KV_APPEND (R305 to R309). -/
def execKvAppend (e : Fin 16) (s : State) : Result := engineRow 0x02 e s

/-- KV_COPY (R310, R311). -/
def execKvCopy (e : Fin 16) (s : State) : Result := engineRow 0x03 e s

/-- KV_COMPACT (R312, R313). -/
def execKvCompact (e : Fin 16) (s : State) : Result := engineRow 0x04 e s

/-- GATHER (R314, R315). -/
def execGather (e : Fin 16) (s : State) : Result := engineRow 0x05 e s

/-- SCATTER_ADD (R316 to R318). -/
def execScatterAdd (e : Fin 16) (s : State) : Result := engineRow 0x06 e s

/-- TOPK (R319, R320). -/
def execTopk (e : Fin 16) (s : State) : Result := engineRow 0x07 e s

/-- MERGE (R321, R322). -/
def execMerge (e : Fin 16) (s : State) : Result := engineRow 0x08 e s

-- the self-test (R323 to R325, R601, R602) ------------------------------------------------------------------------------

/-- Whether an engine drains or is tested. -/
def testing (x : Engine) : Bool := x.drainFor.isSome || x.state = .selftest

/-- Begins the drain of the first engine of a list that has not FAILED; a request for one that has is answered RANGE (R601). -/
def testBegin : List (Nat × Fin 64) → State → State
  | [], s => { s with nme := { s.nme with testQ := [] } }
  | (e, m) :: r, s =>
    if (engineOf s e).state = .failed then testBegin r (answer m.val { st := .range } s)
    else
      engineMod e (fun x => { x with drainFor := some (some m), drainAt := now s, drainLate := false, state := .draining })
        { s with nme := { s.nme with testQ := r } }

/-- Begins the drain of the engine that waits first, when none is being tested (R602). -/
def testNext (s : State) : State :=
  if s.nme.engines.any (fun x => testing x.2) then s else testBegin s.nme.testQ s

/-- NME_SELFTEST (R601, R602): an engine that only waits for its test is not yet DRAINING, so a second request waits as well. -/
def effNmeSelftest (m : Fin 64) (e : Nat) (s : State) : Outcome :=
  let x := engineOf s e
  if e > 15 ∨ x.state = .failed then done .range s
  else if testing x then done .busy s
  else later (testNext { s with nme := { s.nme with testQ := s.nme.testQ ++ [(e, m)] } })

/-- NME_SELFTEST. -/
def execNmeSelftest (c : Caller) (engine : Nat) (s : State) : Result := gararn 0x304 .o c (effNmeSelftest c.mbx engine) s

/-- SELFTEST (R292, R323): the command reaches an engine that drains for it and stands at its step boundary; the draw is asked for. -/
def execSelftest (e : Fin 16) (s : State) : Result :=
  live s (fun s =>
    let x := engineOf s e.val
    if x.drainFor.isSome && atBoundary x && x.state = .draining then anteRequest 2 e.val false s else s)

/-- SELFTEST_DRAIN_TIMEOUT (R323): 10 ms after the request the engine starts only commands of steps that have run on it. -/
def execSelftestDrainTimeout (e : Fin 16) (s : State) : Result :=
  live s (fun s =>
    let x := engineOf s e.val
    if x.drainFor.isSome && x.state = .draining && decide (now s ≥ x.drainAt + 10000000) then
      engineMod e.val (fun x => { x with drainLate := true }) s
    else s)

/-- SELFTEST_START (R298, R324): at the boundary, with its draw, the engine leaves service. -/
def execSelftestStart (e : Fin 16) (s : State) : Result :=
  liveOn 10 s (fun s =>
    let x := engineOf s e.val
    if x.drainFor.isSome && x.state = .draining && atBoundary x then
      if anteHas s 2 e.val then engineMod e.val (fun x => { x with state := .selftest }) s else anteRequest 2 e.val false s
    else s)

end Sys2Proof.Machine
end

