-- ==== Sys2Proof/Machine/Attention.lean ====
section
/-! DEFINITION. Near-memory attention (R259 to R289): the checks at issue, the parts of an ATTN_DECODE on this hub and on others, what an
engine task computes, and the folds; with the arrival of command messages at the seats of this hub (R76, R250). -/

namespace Sys2Proof.Machine

-- the shape of a command ------------------------------------------------------------------------------------------------

/-- The group size and the records per KV head (R259, "Records of a command"). -/
def groupSize (p : PoolDesc) (qHeads : Nat) : Nat := qHeads / poolHeads p
def recordsPerHead (p : PoolDesc) (qHeads : Nat) : Nat := (groupSize p qHeads + 15) / 16

/-- The records of a command: the KV head, the first query head and the heads of each. -/
def recordsOf (p : PoolDesc) (qHeads : Nat) : List (Nat × Nat × Nat) :=
  let g := groupSize p qHeads
  ((List.range (poolHeads p)).map (fun k => (List.range (recordsPerHead p qHeads)).map (fun j =>
    (k, k * g + 16 * j, min g (16 * j + 16) - 16 * j)))).flatten

/-- The fold size (R269). -/
def foldSize (p : PoolDesc) (qHeads : Nat) : Nat := ((recordsOf p qHeads).map (fun r => precSize r.2.2 p.vdim)).sum

/-- Whether a variant is one of R259. -/
def variantOk (p : PoolDesc) (qHeads : Nat) : Bool :=
  let g := groupSize p qHeads
  !outside qHeads 1 256 && qHeads % poolHeads p = 0 && (p.mode = 1 || g = 1 || p.kvHeads = 1 || (p.kvHeads ≤ 128 && g ≤ 128))

/-- The bytes of a query. -/
def queryLen (p : PoolDesc) (qHeads : Nat) : Nat := qHeads * p.dim * 2

/-- The pieces in which a query travels. -/
def queryPieces (p : PoolDesc) (qHeads : Nat) : Nat := (queryLen p qHeads + 1015) / 1016

/-- Whether SCALE is a finite positive number (R270). -/
def scaleOk (w : Nat) : Bool := w < 0x7F800000 && w > 0

/-- The seat of a table that is an NME share of an engine of a node, in this hub's directory copy (R270). -/
def nmeSeat (s : State) (t node engine : Nat) : Option Nat :=
  match tableAt s t with
  | none => none
  | some tb => (tb.dir.find? (fun x => x.2.kind = .nme && x.2.epoch ≠ 0 && x.2.state ≠ .free && x.2.node = node
      && (x.2.binding - 1144) / 16 = engine)).map (fun x => x.1)

/-- The fields of an ATTN_DECODE body (R304). -/
structure AttnBody where
  poolVa : Nat
  splitVa : Nat
  qVa : Nat
  outVa : Nat
  btOffset : Nat
  qpos : Nat
  window : Nat
  scale : Nat
  splitCount : Nat
  qHeads : Nat
  qFormat : Nat
  outMode : Nat
  outFormat : Nat
  deriving DecidableEq, Repr

/-- Whether fields of the body lie outside their ranges (R270, R293, R304). -/
def attnFieldsBad (b : AttnBody) : Bool :=
  b.poolVa % 32 ≠ 0 || b.splitVa % 16 ≠ 0 || b.qVa % 64 ≠ 0 || b.outVa % 64 ≠ 0 || b.btOffset % 16 ≠ 0 || !scaleOk b.scale
    || outside b.splitCount 1 4096 || outside b.qHeads 1 256 || !oneOf b.qFormat [3, 4] || b.outMode > 1
    || (b.outMode = 0 && !oneOf b.outFormat [3, 4, 5])

/-- Whether a pool that was read fails the command (R259, R262, R263, R269). -/
def attnPoolBad (b : AttnBody) (p : PoolDesc) : Bool :=
  !poolOk p || !variantOk p b.qHeads || decide ((recordsOf p b.qHeads).length > 256) || decide (foldSize p b.qHeads > 2 ^ 20)

/-- Whether a split list that was read fails the command (R268, R270). -/
def attnSplitBad (s : State) (t : Nat) (es : List SplitEntry) : Bool :=
  let nodes := (es.map (fun e => e.node)).eraseDups
  es.any (fun e => e.engine > 15 || outside e.blocks 1 65536 || (nmeSeat s t e.node e.engine).isNone)
    || nodes.any (fun n => decide ((es.filter (fun e => e.node = n)).length > 60)) || decide (nodes.length > 256)

-- folds -----------------------------------------------------------------------------------------------------------------

/-- The fold in a slot. -/
def foldOf (s : State) (k : Nat) : Fold := mapGetD s.nme.folds k {}

/-- Sets the fold in a slot. -/
def foldPut (k : Nat) (f : Fold) (s : State) : State := { s with nme := { s.nme with folds := mapPut s.nme.folds k f } }

/-- Fold memory in units of 8 KiB. -/
def foldUnits (size : Nat) : Nat := (size + 8191) / 8192

/-- The fold memory of an engine in use (NME_ENG_STAT.FOLD_USED). -/
def foldUsed (s : State) (e : Nat) : Nat :=
  ((s.nme.folds.filter (fun f => f.2.isOpen && f.2.engine = e)).map (fun f => foldUnits f.2.size)).sum

/-- A free fold slot, when an engine has the memory for a fold of a size (R281). -/
def foldFree (s : State) (e size : Nat) : Option Nat :=
  if foldUsed s e + foldUnits size > 128 then none else (List.range 1024).find? (fun k => !(foldOf s k).isOpen)

/-- The ID of the fold in a slot (R281). -/
def foldId (k : Nat) (f : Fold) : Nat := f.gen * 1024 + k

/-- The slot of an open fold that an ID names. -/
def foldNamed (s : State) (id : Nat) : Option Nat :=
  let f := foldOf s (id % 1024)
  if f.isOpen && f.gen = id / 1024 then some (id % 1024) else none

/-- Frees a fold (R281, R283). -/
def foldClose (k : Nat) (s : State) : State := foldPut k (foldFreed (foldOf s k)) s

-- engine tasks ----------------------------------------------------------------------------------------------------------

/-- Puts an engine task into the engine queue of its table's share (R297). -/
def taskQueue (t : NmeTask) (s : State) : State := engineMod t.cmd.engine (fun x => { x with queue := x.queue ++ [t] }) s

/-- What a command finds at the engines of its tasks: a free place in each queue, a share for which it waits, a share that answers
STALE, with its seat, or a share that its table lacks. -/
inductive SharesFind where
  | room
  | waits
  | stale (seat : Nat)
  | lacking
  deriving DecidableEq, Repr

/-- Looks for the shares of a table at engines (R77, R87, R295): a lacking one comes first, then one that answers STALE. -/
def sharesFind (s : State) (t : Nat) : List Nat → SharesFind
  | [] => .room
  | e :: r =>
    match shareFind s e t, sharesFind s t r with
    | .lacking, _ | _, .lacking => .lacking
    | .stale seat, _ => .stale seat
    | _, .stale seat => .stale seat
    | .waits, _ | _, .waits => .waits
    | .serves j, .room => if shareDepth (engineOf s e) j < 64 then .room else .waits

/-- The engines that entries name, rising. -/
def enginesOf (es : List SplitEntry) : List Nat := (List.range 16).filter (fun e => es.any (fun x => x.engine = e))

/-- Gives each engine of a node its task of a command (R271). -/
def tasksStart (t fold : Nat) (final : Bool) (tag src step : Nat) (ref : Option CmdRef) (pool : PoolDesc) (query : List Byte)
    (qpos window scale qHeads qFormat btOffset : Nat) (es : List SplitEntry) (s : State) : State :=
  (enginesOf es).foldl (fun s e =>
    match shareOf s e t with
    | none => s
    | some j =>
      let body : NmeBody := .attnTask fold final pool query qpos window scale qHeads qFormat btOffset (es.filter (fun x => x.engine = e))
      taskQueue { table := t, share := j, cmd := { engine := e, tag := tag, body := body }, ref := ref, srcNode := src, step := step,
                  retried := false, ended := false } s) s

-- issue (R270, R278, R281) ----------------------------------------------------------------------------------------------

/-- How a read at issue ended: its bytes, or the status of its failure; none while it is on its way. -/
def readStatus : Except Halt (List Byte) → Option Status
  | .ok _ => some .ok
  | .error .wait => none
  | .error (.fault ..) => some .fault
  | .error (.status st) => some st

/-- The bytes of a read at issue. -/
def readBytes : Except Halt (List Byte) → Option (List Byte)
  | .ok b => some b
  | .error _ => none

/-- Sends the parts of a command to another node (R284): ATTN_PART with its query pieces, to the seat of the node's fold. -/
def partSend (r : CmdRef) (q : Queue) (b : AttnBody) (tag fold : Nat) (pool : PoolDesc) (query : List Byte) (es : List SplitEntry)
    (node : Nat) (s : State) : State :=
  let mine := es.filter (fun x => x.node = node)
  match (enginesOf mine).head?.bind (nmeSeat s q.table node) with
  | none => s
  | some seat =>
    let part : SubCmd := .attnPart fold tag pool b.qpos b.window b.scale b.qHeads b.qFormat b.btOffset mine
    let rest : List SubCmd := ((chunks 1016 (queryPieces pool b.qHeads) query).zipIdx).map (fun x => .queryPiece fold x.2 x.1)
    let y := staleNew q.table seat (.sub part) rest (some r) s
    rest.foldl (fun s sub =>
      let z := staleNew q.table seat (.sub sub) [] (some r) s
      cmdOut z.1 z.2) (cmdOut y.1 y.2)

/-- Starts a command that has passed its checks: its final fold opens and its parts go out, or it waits for a fold or a share (R77, R278,
R281). -/
def attnStart (r : CmdRef) (q : Queue) (d : Desc) (c : NmeCmd) (b : AttnBody) (pool : PoolDesc) (query : List Byte)
    (es : List SplitEntry) (s : State) : State :=
  let tag := c.tag
  let here := es.filter (fun x => x.node = s.sys.nodeId)
  let remotes := ((es.map (fun x => x.node)).eraseDups).filter (fun n => n ≠ s.sys.nodeId)
  let lowest := (List.range 16).find? (fun e => shareFind s e q.table ≠ .lacking)
  let engines := (enginesOf here).head?.orElse (fun _ => lowest)
  match sharesFind s q.table (if here.isEmpty then engines.toList else enginesOf here), engines with
  | .lacking, _ | _, none => failCmd r .range 0 (entryMod r (fun e => { e with state := .running }) s)
  | .stale seat, _ => nmeStale r q.table seat c s
  | find, some fe =>
    let size := foldSize pool b.qHeads
    match (if find = .room then foldFree s fe size else none) with
    | none => { s with nme := { s.nme with waiting := if r ∈ s.nme.waiting then s.nme.waiting else s.nme.waiting ++ [r] } }
    | some k =>
      let n := (recordsOf pool b.qHeads).length
      let elem := if b.outFormat = 5 then 4 else 2
      let f : Fold := { gen := if (foldOf s k).gen = 0 then 1 else (foldOf s k).gen, isOpen := true, engine := fe, table := q.table,
                        tag := tag, size := size, final := true, ref := some r, homeNode := s.sys.nodeId, outVa := b.outVa,
                        outMode := b.outMode, outFormat := b.outFormat,
                        outLen := if b.outMode = 1 then size else b.qHeads * pool.vdim * elem,
                        await := List.replicate n ((enginesOf here).length + remotes.length), remotes := remotes }
      let id := foldId k f
      let s := foldPut k f { s with nme := { s.nme with waiting := s.nme.waiting.filter (fun w => w ≠ r) } }
      let s := entryMod r (fun e => { e with state := .running }) s
      let s := tasksStart q.table id true tag s.sys.nodeId (stepNumber s q.table d) (some r) pool query b.qpos b.window b.scale b.qHeads
        b.qFormat b.btOffset here s
      remotes.foldl (fun s node => partSend r q b tag id pool query es node s) s

/-- The reads and checks at issue (R270): all three reads are made, and of their failures and the RANGE conditions R16 chooses; a
FAULT is a fault of the command, which then waits as not started (R143). -/
def attnIssue (r : CmdRef) (s : State) : State :=
  match queueOf s r.queue, entryOf s r with
  | some q, some e =>
    (match e.d.body with
     | .nme c _ =>
       (match c.body with
        | .attnDecode poolVa splitVa qVa outVa btOffset qpos window scale splitCount qHeads qFormat outMode outFormat =>
          let b : AttnBody := ⟨poolVa, splitVa, qVa, outVa, btOffset, qpos, window, scale, splitCount, qHeads, qFormat, outMode, outFormat⟩
          let u : Accessor := { src := cmdSource r, table := q.table, rerun := inStep s r, host := true }
          let active := match ctxOf s q.ctx with
            | some x => x.state = .active
            | none => false
          if !active || s.trn.faultQ.any (fun f => f.cmd = some r) then s
          else
            let a := runPass (accRead u poolVa 32) s
            let pool := (readBytes a.1).map poolOf
            let sp := runPass (accRead u splitVa (16 * min splitCount 4096)) a.2
            let split := (readBytes sp.1).map (fun x => (chunks 16 (min splitCount 4096) x).map splitOf)
            let qlen := match pool with
              | some p => if attnPoolBad b p then 64 else queryLen p qHeads
              | none => 64
            let qr := runPass (accRead u qVa qlen) sp.2
            let s := qr.2
            (match readStatus a.1, readStatus sp.1, readStatus qr.1 with
             | some x, some y, some z =>
               let bad := attnFieldsBad b || (match pool with | some p => attnPoolBad b p | none => false)
                 || (match split with | some es => attnSplitBad s q.table es | none => false)
                 || !(List.range 16).any (fun e => shareFind s e q.table ≠ .lacking)
               let st := worst [x, y, z, if bad then .range else .ok]
               let s := issueForget r s
               let fault := [a.1, sp.1, qr.1].findSome? (fun (h : Except Halt (List Byte)) => match h with
                 | .error (.fault op va c en lv pa) => some (op, va, c, en, lv, pa)
                 | _ => none)
               (match st, fault, pool, split, readBytes qr.1 with
                | .fault, some (op, va, cs, en, lv, pa), _, _, _ =>
                  faultPresent { source := cmdSource r, table := q.table, ctx := q.ctx, cmd := some r, tag := 0, va := va, pa := pa,
                                 entry := en, level := lv, cause := cs, access := accessBits op u.rerun } s
                | .ok, _, some p, some es, some qb => attnStart r q e.d c b p qb es s
                | st, _, _, _, _ => failUnit r st (entryMod r (fun e => { e with state := .running }) s))
             | _, _, _ => s)
        | _ => s)
     | _ => s)
  | _, _ => s

-- what an engine task computes (R260, R261, R265 to R267, R272, R276) ---------------------------------------------------

/-- Whether a range has any byte outside an engine's own stack of this hub (R265). -/
def accAway (u : Accessor) (e : Nat) : Nat → Nat → Nat → Pass Bool
  | 0, _, _ => pure false
  | n + 1, va, len =>
    if len = 0 then pure false
    else do
      let (tg, pa, left) ← accPage u 1 va 1
      let k := min len left
      let s ← get
      let here := (match tg with | .device => true | .home => true | _ => false)
        && (partsOf pa k).all (fun p => (placeOf s p.1).stack = e && (remoteOf s (placeOf s p.1)).isNone)
      let rest ← accAway u e n (va + k) (len - k)
      pure (!here || rest)

/-- The query element of a head rounded to BF16 (Numerics). -/
def queryNums (fmt dim h : Nat) (query : List Byte) : List Num :=
  (List.range dim).map (fun d => elemNum 4 (narrow 4 (elemNum fmt (fieldAt query (2 * (h * dim + d)) 2))))

/-- A power of two, by its exponent, above every FP32 pattern with the exponent of SCALE. -/
def scaleTop (scale : Nat) : Int := (scale / 2 ^ 23 % 256 : Nat) - 126

/-- What a score of a query head against a key can be (R276): NaN or plus infinity (2); minus infinity, or a sum or score that may leave the range
of FP32 (1); or finite (0). A row has fewer than 2^10 elements. -/
def scoreKind (scale : Nat) (q k : List Num) : Nat :=
  (q.zip k).foldl (fun acc x => max acc (match numMul x.1 x.2 with
    | .nan => 2
    | .inf neg => if neg then 1 else 2
    | .fin _ m e =>
      let top : Int := Nat.log2 m + 11 + e
      if m ≠ 0 ∧ (top > 127 ∨ top + scaleTop scale > 127) then 1 else 0)) 0

/-- What an engine task has counted so far: per KV head, tokens and positions; per query head, the worst kind of score. -/
structure TaskSum where
  tokens : Nat
  first : Nat
  last : Nat
  kinds : FMap Nat
  bytes : Nat
  away : Nat
  deriving DecidableEq, Repr

/-- One head's rows of a block: reads them, and judges the scores of its query heads. -/
def headRows (u : Accessor) (pool : PoolDesc) (scale qHeads qFormat : Nat) (query : List Byte) (block lo n k : Nat) (x : TaskSum) :
    Pass TaskSum := do
  let plane (pl : Nat) : Pass (List Byte × List Byte) := do
    let a := poolAt pool pl k lo
    let d ← accRead u (block + a.1) (n * poolRow pool)
    let c ← (if poolSc pool = 0 then pure [] else accRead u (block + a.2) (n * poolSc pool))
    pure (d, c)
  let key ← plane 0
  let value ← (if pool.mode = 1 then pure ([], []) else plane 1)
  let g := groupSize pool qHeads
  let rows := (List.range n).map (fun t =>
    rowNums pool.format pool.dim ((key.1.drop (t * poolRow pool)).take (poolRow pool)) ((key.2.drop (t * poolSc pool)).take (poolSc pool)))
  let judge (m : FMap Nat) (h : Nat) : FMap Nat :=
    let qn := queryNums qFormat pool.dim h query
    mapPut m h (rows.foldl (fun a row => max a (scoreKind scale qn row)) (mapGetD m h 0))
  pure { x with kinds := ((List.range g).map (fun i => k * g + i)).foldl judge x.kinds,
                bytes := x.bytes + key.1.length + key.2.length + value.1.length + value.2.length }

/-- Every KV head's rows of a block. -/
def blockRows (u : Accessor) (pool : PoolDesc) (scale qHeads qFormat : Nat) (query : List Byte) (block lo n : Nat) :
    List Nat → TaskSum → Pass TaskSum
  | [], x => pure x
  | k :: r, x => do
    let x ← headRows u pool scale qHeads qFormat query block lo n k x
    blockRows u pool scale qHeads qFormat query block lo n r x

/-- The lowest position a window admits (R261, R272). -/
def windowLow (qpos window : Nat) : Nat := if window ≠ 0 ∧ qpos ≥ window then qpos - window + 1 else 0

/-- The blocks of a task one after the other (R267, R272). A block that reaches the host bus ends the task RANGE (R266). -/
def taskBlocks (u : Accessor) (e : Nat) (pool : PoolDesc) (qpos window scale qHeads qFormat : Nat) (query : List Byte) :
    List BlockEntry → TaskSum → Pass TaskSum
  | [], x => pure x
  | b :: r, x => do
    passRange (decide (b.count > pool.blockTokens) || (b.count ≠ 0 && (decide (b.pos + b.count > 2 ^ 32) || b.va % 1024 ≠ 0)))
    let first := max b.pos (windowLow qpos window)
    let last := min (b.pos + b.count - 1) qpos
    if b.count = 0 || decide (first > last) then taskBlocks u e pool qpos window scale qHeads qFormat query r x
    else do
      let v : Accessor := { u with host := false }
      let lo := first - b.pos
      let n := last - first + 1
      let x ← blockRows v pool scale qHeads qFormat query b.va lo n (List.range (poolHeads pool)) x
      let away ← accAway v e (pool.blockBytes / 4096 + 2) b.va pool.blockBytes
      taskBlocks u e pool qpos window scale qHeads qFormat query r
        { x with tokens := x.tokens + n, first := min x.first first, last := max x.last last, away := x.away + b2n away }

/-- Reads the block-table entries of split entries, in list order (R268, R272). -/
def taskEntries (u : Accessor) (btOffset : Nat) : List SplitEntry → Pass (List BlockEntry)
  | [] => pure []
  | x :: r => do
    let b ← accRead u (x.btVa + btOffset) (16 * x.blocks)
    let rest ← taskEntries u btOffset r
    pure ((chunks 16 x.blocks b).map blockEntry ++ rest)

/-- A finite FP32 pattern from a free word: the exponent of all ones is left out. -/
def finite32 (w : BitVec 32) : BitVec 32 := if w.toNat / 2 ^ 23 % 256 = 255 then w &&& 0xBFFFFFFF else w

/-- One head of a task's record: NaN for a score of NaN or plus infinity; else values that the spec leaves within its bounds (R276,
R289), and any where a score may leave the range of FP32. -/
def headValue (kind dim n : Nat) : BitVec 32 × BitVec 32 × List (BitVec 32) :=
  if kind = 2 then (headNaN, headNaN, List.replicate dim headNaN)
  else
    let m := Config.free32 n
    (if kind = 0 then finite32 m else m, Config.free32 (n + 1), (List.range dim).map (fun d => Config.free32 (n + 2 + d)))

/-- The records of a task (R272, R274). -/
def taskRecords (s : State) (e tag : Nat) (pool : PoolDesc) (qHeads : Nat) (x : TaskSum) : List PRecord :=
  (recordsOf pool qHeads).zipIdx.map (fun r =>
    let empty := precEmpty tag r.2 r.1.2.2 pool.vdim s.sys.nodeId e .ok
    if x.tokens = 0 then empty
    else
      let hs := (List.range r.1.2.2).map (fun i =>
        let h := r.1.2.1 + i
        headValue (mapGetD x.kinds h 0) pool.vdim (s.fresh + h * (pool.vdim + 2)))
      { empty with empty := false, firstPos := x.first, lastPos := x.last, tokens := sat32 x.tokens, m := hs.map (fun y => y.1),
                   l := hs.map (fun y => y.2.1), o := hs.map (fun y => y.2.2) })

/-- The pass of an engine task. -/
def attnPass (u : Accessor) (e tag : Nat) (pool : PoolDesc) (query : List Byte) (qpos window scale qHeads qFormat btOffset : Nat)
    (es : List SplitEntry) : Pass (List PRecord × Nat × Nat) := do
  let bs ← taskEntries u btOffset es
  let x ← taskBlocks u e pool qpos window scale qHeads qFormat query bs
    { tokens := 0, first := 0xFFFFFFFF, last := 0, kinds := [], bytes := 0, away := 0 }
  let s ← get
  let recs := taskRecords s e tag pool qHeads x
  set { s with fresh := s.fresh + qHeads * (pool.vdim + 2) }
  pure (recs, x.bytes, x.away)

/-- The pieces in which a record travels (R282). -/
def recordPieces (b : List Byte) : List (Nat × List Byte) :=
  (chunks 1024 ((b.length + 1023) / 1024) b).zipIdx.map (fun x => (1024 * x.2, x.1))

/-- Presents the records of an engine at the fold port of its node's fold (R273, R280). -/
def recordsSend (e fold : Nat) (rs : List PRecord) (s : State) : State :=
  let ps := (rs.map (fun r => (recordPieces (precBytes r)).map (fun p =>
    ({ engine := e, src := e, fold := fold, record := r.record, offset := p.1, bytes := p.2 } : PortPiece)))).flatten
  { s with nme := { s.nme with portQ := s.nme.portQ ++ ps } }

/-- ENGINE_TASK_END (R272, R273): the running engine task goes on to its end and sends its records; a failing one sends empty records
with its status (R329). -/
def execEngineTaskEnd (e : Fin 16) (s : State) : Result :=
  liveOn 10 s (fun s =>
    match (engineOf s e.val).running with
    | none => s
    | some t =>
      match t.cmd.body with
      | .attnTask fold _ pool query qpos window scale qHeads qFormat btOffset es =>
        let failed (st : Status) (s : State) : State :=
          let rs := (recordsOf pool qHeads).zipIdx.map (fun r => precEmpty t.cmd.tag r.2 r.1.2.2 pool.vdim s.sys.nodeId e.val st)
          taskFinish e t st (recordsSend e.val fold rs s)
        if t.ended then engineRelease e (engineMod e.val (fun x => { x with cmdCnt := sat64 (x.cmdCnt + 1) }) s)
        else match t.effect with
          | some st => failed st s
          | none =>
            let u := taskAccessor s e t
            (match runPass (attnPass u e.val t.cmd.tag pool query qpos window scale qHeads qFormat btOffset es) s with
             | (.ok (rs, bytes, away), s) =>
               let s := engineMod e.val (fun x => { x with kvBytes := sat64 (x.kvBytes + bytes), misplaced := sat64 (x.misplaced + away) }) s
               taskFinish e t .ok (recordsSend e.val fold rs s)
             | (.error .wait, s) => s
             | (.error (.status st), s) => failed st s
             | (.error (.fault op va c en lv pa), s) => taskFault e t op va c en lv pa u.rerun s)
      | _ => s)

-- full folds (R277, R279, R282, R286) -----------------------------------------------------------------------------------

/-- Whether a fold has combined all its inputs. -/
def foldFull (f : Fold) : Bool := f.isOpen && f.await.all (fun n => n = 0)

/-- The records of a full fold, as formed by the fold. -/
def foldRecords (s : State) (f : Fold) : List PRecord :=
  (List.range f.await.length).filterMap (fun i => (f.recs.find? (fun r => r.record = i)).map (fun r =>
    { r with tag := f.tag, node := s.sys.nodeId, source := 0xFF }))

/-- The output of a final fold: unspecified unless every status is OK (R286). -/
def foldOutput (s : State) (f : Fold) : List Byte :=
  ((foldRecords s f).map (fun r => if f.outMode = 1 then precBytes r else normalised f.outFormat r)).flatten

/-- The status of a fold's command. -/
def foldStatus (f : Fold) : Status := worst (f.worst :: f.recs.map (fun r => r.status))

/-- A final fold that is full writes its output; once it is committed the command ends (R279, R286). -/
def finalSettle (k : Nat) (f : Fold) (r : CmdRef) (s : State) : State :=
  let st := foldStatus f
  let u : Accessor := { src := cmdSource r, table := f.table, rerun := inStep s r, host := true, spoil := decide (st ≠ .ok) }
  let fin (st : Status) (s : State) : State :=
    let s := issueForget r (foldClose k s)
    if st = .ok then commitCmd r s else failUnit r st s
  let ready := match ctxOf s (cmdContext s r) with
    | some x => x.state = .active
    | none => false
  if !ready || s.trn.faultQ.any (fun x => x.cmd = some r) then s
  else
    let o := if f.written then (Except.ok (), s) else runPass (accWrite u f.outVa (foldOutput s f)) s
    match o with
    | (.ok _, s) =>
      let s := foldPut k { f with written := true } s
      (match accEnd s u.src with
       | none => s
       | some x => fin (worse st x) s)
    | (.error .wait, s) => s
    | (.error (.status x), s) => fin (worse st x) s
    | (.error (.fault op va c en lv pa), s) =>
      if st ≠ .ok then fin st s
      else faultPresent { source := u.src, table := f.table, ctx := cmdContext s r, cmd := some r, tag := 0, va := va, pa := pa, entry := en,
                          level := lv, cause := c, access := accessBits op u.rerun } s

/-- Sends one record of a remote fold as PARTIAL packets (R282). -/
def partialSend (f : Fold) (id tenant : Nat) (s : State) (r : PRecord) : State :=
  (recordPieces (precBytes r)).foldl (fun s p =>
    let x := txnOpen f.homeNode (.partialOf id) s
    packetSend f.homeNode { src := 0, tenant := tenant, type := 0x12, addr := f.homeFold * 2 ^ 48 + r.record * 2 ^ 32 + p.1, tag := x.1,
                            len := p.2.length, payload := p.2 } x.2) s

/-- A full fold goes on: the final one writes its output, a remote one sends its records (R279). -/
def foldSettle (k : Nat) (s : State) : State :=
  let f := foldOf s k
  if !foldFull f then s
  else match f.final, f.ref with
    | true, some r => finalSettle k f r s
    | true, none => s
    | false, _ =>
      if f.written then s
      else (foldRecords s f).foldl (partialSend f (foldId k f) ((tenantOf s f.table).getD 0)) (foldPut k { f with written := true } s)

/-- Every full fold goes on. -/
def foldsSettle (s : State) : State := (s.nme.folds.map (fun x => x.1)).foldl (fun s k => foldSettle k s) s

/-- ATTN_DECODE (R259 to R270, R304): the command's reads and checks at issue, its start, and what is left of its output. -/
def execAttnDecode (r : CmdRef) (s : State) : Result :=
  live s (fun s =>
    match entryOf s r with
    | some e => if e.state = .dispatched then attnIssue r s else foldsSettle s
    | none => s)

/-- The status of an answered or failed PARTIAL joins its fold's part; when all are answered the part's ATTN_PART is answered, and the
fold is freed (R283, R286). -/
def partialAnswered (id : Nat) (st : Status) (s : State) : State :=
  match foldNamed s id with
  | none => s
  | some k =>
    let f := foldOf s k
    let f' : Fold := { f with worst := worse f.worst st }
    let s := foldPut k f' s
    if s.lnk.txns.any (fun t => t.what = .partialOf id) then s
    else
      let mine (a : SubAsm) : Bool := a.src = f.homeNode && a.fold = f.homeFold
      let s := (s.nme.subs.filter mine).foldl (fun s a =>
        packetSend a.src { src := 0, tenant := (tenantOf s f.table).getD 0, type := 0x20, status := f'.worst, tag := a.tag } s) s
      foldClose k { s with nme := { s.nme with subs := s.nme.subs.filter (fun a => !mine a) } }

-- the fold port (R280, R282, R283) --------------------------------------------------------------------------------------

/-- The bytes of a record whose pieces have all arrived. -/
def recordWhole (ps : List (Nat × List Byte)) : Option (List Byte) :=
  let at_ (i : Nat) : List Byte := match ps.find? (fun p => p.1 = 1024 * i) with
    | some p => p.2
    | none => []
  let h := at_ 0
  let size := precSize (fieldAt h 6 1) (fieldAt h 8 2)
  let b := ((List.range ((size + 1023) / 1024)).map at_).flatten
  if h.length ≥ 32 && b.length = size then some b else none

/-- A record of a fold combined with one that has arrived (R275). -/
def recordJoin (recs : List PRecord) (r : PRecord) : List PRecord :=
  if recs.any (fun x => x.record = r.record) then recs.map (fun x => if x.record = r.record then precCombine x r else x) else recs ++ [r]

/-- A fold takes one piece (R280): a record is combined when all its pieces have arrived. -/
def foldTake (p : PortPiece) (s : State) : State :=
  match foldNamed s p.fold with
  | none => s
  | some k =>
    let f := foldOf s k
    if f.await.getD p.record 0 = 0 then s
    else
      let key := p.src * 256 + p.record
      let mine := (f.pieces.filter (fun x => x.1 = key)).map (fun x => x.2) ++ [(p.offset, p.bytes)]
      match recordWhole mine with
      | none => foldPut k { f with pieces := f.pieces ++ [(key, p.offset, p.bytes)] } s
      | some b =>
        let r : PRecord := { precOf b with record := p.record }
        foldSettle k (foldPut k { f with
          pieces := f.pieces.filter (fun x => x.1 ≠ key)
          recs := recordJoin f.recs r
          await := f.await.set p.record (f.await.getD p.record 0 - 1) } s)

/-- The engine whose fold port a piece is presented at: that of its fold. -/
def foldEngine (s : State) (x : PortPiece) : Option Nat := (foldNamed s x.fold).map (fun k => (foldOf s k).engine)

/-- FOLD_PIECE (R275 to R282): a fold port takes, of the pieces presented there, one of the lowest engine, and then of the lowest link
port. -/
def execFoldPiece (p : FoldPieceIn) (s : State) : Result :=
  live s (fun s =>
    let mine (x : PortPiece) : Bool := x.fold = p.fold && x.record = p.record && x.offset = p.offset
    match ((List.range 32).filterMap (fun e => s.nme.portQ.find? (fun x => x.engine = e && mine x))).head? with
    | some x =>
      if s.nme.portQ.any (fun y => y.engine < x.engine && foldEngine s y = foldEngine s x) then foldsSettle s
      else foldTake x { s with nme := { s.nme with portQ := s.nme.portQ.erase x } }
    | none => foldsSettle s)

/-- PARTIAL (R282, R283): taken for an open fold of the tenant that awaits the record, else DENIED and discarded. -/
def execPartial (lp : Fin 16) (p : Packet) (s : State) : Result :=
  live s (fun s =>
    if p.type ≠ 0x12 then s
    else match rxAccept lp.val p s with
      | (.fresh, s) =>
        let fold := bitsOf p.addr 63 48
        let record := bitsOf p.addr 39 32
        let ok := match foldNamed s fold with
          | some k => decide ((foldOf s k).await.getD record 0 > 0) && tenantOf s (foldOf s k).table = some p.tenant
          | none => false
        if ok then
          packetReply p 0x20 .ok [] { s with nme := { s.nme with portQ := s.nme.portQ ++
            [{ engine := 16 + lp.val, src := 16 + p.src, fold := fold, record := record, offset := bitsOf p.addr 15 0, bytes := p.payload }] } }
        else packetReply p 0x20 .denied [] (lnkDenied lp.val p s)
      | (_, s) => s)

-- sub-commands at a remote hub (R284, R285, R287) -----------------------------------------------------------------------

/-- Changes the sub-command of a source and fold. -/
def subMod (src fold : Nat) (f : SubAsm → SubAsm) (s : State) : State :=
  { s with nme := { s.nme with subs := s.nme.subs.map (fun a => if a.src = src && a.fold = fold then f a else a) } }

/-- Forgets the sub-command of a source and fold. -/
def subDel (src fold : Nat) (s : State) : State :=
  { s with nme := { s.nme with subs := s.nme.subs.filter (fun a => !(a.src = src && a.fold = fold)) } }

/-- Starts a sub-command that is wholly here (R284): a missing share answers STALE, and a missing fold slot makes it wait (R281). -/
def subStart (src fold : Nat) (s : State) : State :=
  match s.nme.subs.find? (fun a => a.src = src && a.fold = fold && !a.started) with
  | none => s
  | some a =>
    match a.part with
    | some (.attnPart _ tag pool qpos window scale qHeads qFormat btOffset es) =>
      let n := queryPieces pool qHeads
      if (List.range n).any (fun i => (mapGet a.pieces i).isNone) then s
      else
        let tenant := (tenantOf s a.table).getD 0
        match sharesFind s a.table (enginesOf es), (enginesOf es).head? with
        | .room, some fe =>
          let size := foldSize pool qHeads
          (match foldFree s fe size with
           | none => s
           | some k =>
             let f : Fold := { gen := if (foldOf s k).gen = 0 then 1 else (foldOf s k).gen, isOpen := true, engine := fe, table := a.table,
                               tag := tag, size := size, homeNode := src, homeFold := fold,
                               await := List.replicate (recordsOf pool qHeads).length (enginesOf es).length }
             let query := ((List.range n).map (fun i => mapGetD a.pieces i [])).flatten
             let s := foldPut k f (subMod src fold (fun a => { a with started := true, pieces := [] }) s)
             tasksStart a.table (foldId k f) false tag src 0 none pool query qpos window scale qHeads qFormat btOffset es s)
        | .waits, some _ => s
        | _, _ =>
          let p : Packet := { src := src, tenant := tenant, type := 0x03, tag := a.tag, addr := a.seat, epoch := a.epoch }
          staleCount (staleReply p (subDel src fold s))
    | _ => s

/-- FOLD_SLOT_WAIT (R281): commands that wait for a fold slot or fold memory try again, the oldest first. -/
def execFoldSlotWait (s : State) : Result :=
  live s (fun s =>
    let s := s.nme.waiting.foldl (fun s r => attnIssue r s) s
    s.nme.subs.foldl (fun s a => subStart a.src a.fold s) s)

/-- The sub-command of a message, made if there is room for it; none when 64 are held (R285). -/
def subRoom (src fold table : Nat) (s : State) : Option State :=
  if s.nme.subs.any (fun a => a.src = src && a.fold = fold) then some s
  else if s.nme.subs.length ≥ 64 then none
  else some { s with nme := { s.nme with subs := s.nme.subs ++
    [{ src := src, fold := fold, table := table, tag := 0, part := none, pieces := [], started := false }] } }

/-- ATTN_CANCEL at a node (R287): the tasks of the sub-command stop, its fold is freed, and nothing is sent for it. -/
def subCancel (src fold : Nat) (s : State) : State :=
  let ids := (s.nme.folds.filter (fun f => f.2.isOpen && !f.2.final && f.2.homeNode = src && f.2.homeFold = fold)).map (fun f => foldId f.1 f.2)
  let mine (t : NmeTask) : Bool := match t.cmd.body with
    | .attnTask f final .. => !final && ids.contains f
    | _ => false
  let s := tasksEnd mine s
  subDel src fold (ids.foldl (fun s id => foldClose (id % 1024) s) s)

/-- A seat of this hub acts on a message (R284, R285, R287, R434). -/
def seatRun (i : Nat) (p : Packet) (sub : SubCmd) (s : State) : State :=
  let t := (bindAt s i).table
  match sub with
  | .launch .. => launchHere i t sub p.rerun none (some (p.src, p.tag)) s
  | .attnPart fold .. =>
    (match subRoom p.src fold t s with
     | none => packetReply p 0x20 .busy [] s
     | some s => subStart p.src fold (subMod p.src fold (fun a =>
       { a with tag := p.tag, part := some sub, table := t, seat := p.addr, epoch := p.epoch }) s))
  | .queryPiece fold n bs =>
    (match subRoom p.src fold t s with
     | none => packetReply p 0x20 .busy [] s
     | some s =>
       packetReply p 0x20 .ok [] (subStart p.src fold (subMod p.src fold (fun a =>
         if a.started then a else { a with pieces := mapPut a.pieces n bs }) s)))
  | .attnCancel fold _ => packetReply p 0x20 .ok [] (subCancel p.src fold s)

/-- Whether a message is a LAUNCH. -/
def isLaunch : SubCmd → Bool
  | .launch .. => true
  | _ => false

/-- Whether a seat of another tenant holds the message's seat number under its epoch (R250). -/
def seatOther (s : State) (p : Packet) (sub : SubCmd) : Bool :=
  s.bnd.seats.any (fun x => x.2.seat = p.addr && x.2.epoch = p.epoch && tenantOf s x.2.table ≠ some p.tenant
    && (x.2.state = .bound || x.2.state = .armed || x.2.state = .migrating)
    && (if isLaunch sub then kindOfIndex x.1 = .cluster else kindOfIndex x.1 = .nme))

/-- A message that has been admitted goes to its seat, waits for it, or is answered STALE or DENIED (R76, R77, R250). -/
def cmdAdmit (lp : Nat) (p : Packet) (sub : SubCmd) (s : State) : State :=
  match seatTake s p.tenant p.addr p.epoch (isLaunch sub) with
  | .takes i => seatRun i p sub s
  | .holds i => seatHold i p.epoch p sub s
  | .stale =>
    if seatOther s p sub then packetReply p 0x20 .denied [] (lnkDenied lp p s)
    else staleReply p (staleCount s)

/-- A command packet arrives (R245, R250). -/
def cmdArrive (lp : Fin 16) (p : Packet) (sub : SubCmd) (s : State) : Result :=
  live s (fun s =>
    if p.type ≠ 0x03 then s
    else match rxAccept lp.val p s with
      | (.fresh, s) => cmdAdmit lp.val p sub s
      | (_, s) => s)

/-- CMD (R76, R77, R84, R434). -/
def execCmd (lp : Fin 16) (p : Packet) (sub : SubCmd) (s : State) : Result := cmdArrive lp p sub s

/-- ATTN_PART (R284, R285). -/
def execAttnPart (lp : Fin 16) (p : Packet) (sub : SubCmd) (s : State) : Result := match sub with
  | .attnPart .. => cmdArrive lp p sub s
  | _ => .next s

/-- QUERY_PIECE (R284). -/
def execQueryPiece (lp : Fin 16) (p : Packet) (sub : SubCmd) (s : State) : Result := match sub with
  | .queryPiece .. => cmdArrive lp p sub s
  | _ => .next s

/-- ATTN_CANCEL (R287). -/
def execAttnCancel (lp : Fin 16) (p : Packet) (sub : SubCmd) (s : State) : Result := match sub with
  | .attnCancel .. => cmdArrive lp p sub s
  | _ => .next s

/-- The messages held for a binding are acted on (R77, R84): each is checked again. -/
def heldRelease (i : Nat) (s : State) : State :=
  let mine := s.bnd.held.filter (fun h => h.binding = i)
  let s := { s with bnd := { s.bnd with held := s.bnd.held.filter (fun h => h.binding ≠ i) } }
  mine.foldl (fun s h =>
    if h.packet.src = s.sys.nodeId then
      match staleOf s h.packet.tag with
      | some x => if cmdFar s x (dirEntry s x.table x.seat) then cmdAdmit 0 h.packet h.sub s else cmdAgain x.tag s
      | none => cmdAdmit 0 h.packet h.sub s
    else cmdAdmit ((portFor s h.packet.src).getD 0) h.packet h.sub s) s

-- an engine that fails (R325) -------------------------------------------------------------------------------------------

/-- A part that runs here for another hub ends with a status (R84, R325, R327): its tasks stop, its fold is freed, and its ATTN_PART is
answered. -/
def subPartEnd (k : Nat) (st : Status) (s : State) : State :=
  let f := foldOf s k
  let subs := s.nme.subs.filter (fun a => a.src = f.homeNode && a.fold = f.homeFold)
  let p (a : SubAsm) : Packet :=
    { src := a.src, tenant := (tenantOf s f.table).getD 0, type := 0x03, tag := a.tag, addr := a.seat, epoch := a.epoch }
  subs.foldl (fun s a => if st = .stale then staleCount (staleReply (p a) s) else seatReply f.table (a.src, a.tag) st s)
    (subCancel f.homeNode f.homeFold s)

/-- Ends the part that a task belongs to, when its fold is open. -/
def taskPartEnd (st : Status) (s : State) (t : NmeTask) : State := match t.cmd.body with
  | .attnTask id .. => (match foldNamed s id with
    | some k => subPartEnd k st s
    | none => s)
  | _ => s

/-- An engine fails (R325): its bindings fail, the commands in its queues end STALE, and the folds it holds end their commands
ABORTED. -/
def engineFail (e : Fin 16) (s : State) : State :=
  let x := engineOf s e.val
  let s := engineMod e.val (fun x => { x with state := .failed, queue := [], selected := none }) s
  let s := (List.range 16).foldl (fun s j =>
    if (bindAt s (nmeIndex e.val j)).state = .unavailable then s else bindFail (nmeIndex e.val j) s) s
  let s := x.queue.foldl (fun s t => match t.ref with
    | some r => failCmd r .stale 0 s
    | none => taskPartEnd .stale s t) s
  let folds := s.nme.folds.filter (fun f => f.2.isOpen && f.2.engine = e.val)
  folds.foldl (fun s f => match f.2.ref with
    | some r => failCmd r .aborted 0 s
    | none => subPartEnd f.1 .aborted s) s

/-- SELFTEST_END (R324, R325, R601): the result is recorded, NME_SELFTEST is answered, and the next test may begin. -/
def execSelftestEnd (e : Fin 16) (pass : Bool) (s : State) : Result :=
  liveOn 10 s (fun s =>
    let x := engineOf s e.val
    if x.state ≠ .selftest then s
    else
      let s := anteFreeDraw 2 e.val (engineMod e.val (fun x => { x with
        state := .idle, drainFor := none, drainLate := false, dirtyTask := false, testResult := if pass then 1 else 2, testEnd := now s }) s)
      let s := if pass then s else engineFail e s
      let s := match x.drainFor with
        | some (some m) => answer m.val { st := .ok, detail := if pass then 1 else 2 } s
        | _ => s
      testNext s)

-- answers and resends at the issuing hub (R79, R80, R285) ---------------------------------------------------------------

/-- STALE_ANSWER (R79, R80). -/
def execStaleAnswer (tag : Nat) (s : State) : Result :=
  live s (fun s =>
    match txnOf s tag with
    | some t => (match t.what with
        | .subcmd own => staleTaken own (txnClose tag s)
        | _ => s)
    | none => s)

/-- Whether a message's wait has ended. -/
def resendDue (s : State) (tag : Nat) : Bool := s.nme.busyResend.any (fun x => x.1 = tag && decide (x.2 ≤ now s))

/-- Takes a message out of its wait. -/
def resendTake (tag : Nat) (s : State) : State :=
  { s with nme := { s.nme with busyResend := s.nme.busyResend.filter (fun x => x.1 ≠ tag) } }

/-- STALE_RESEND_DELAY (R79): 10 µs after the answer that its seat is SUSPENDED or FAILED, the message is sent again. -/
def execStaleResendDelay (tag : Nat) (s : State) : Result :=
  live s (fun s =>
    match staleOf s tag with
    | some x => if x.waiting && resendDue s tag then cmdAgain tag (resendTake tag s) else s
    | none => s)

/-- SUBCMD_RESEND (R285): 1 µs after BUSY the message is sent again. -/
def execSubcmdResend (tag : Nat) (s : State) : Result :=
  live s (fun s =>
    match staleOf s tag with
    | some x => if !x.waiting && resendDue s tag then cmdOut x (resendTake tag s) else s
    | none => s)

end Sys2Proof.Machine
end

