-- ==== Sys2Proof/Machine/Copy.lean ====
section
/-! DEFINITION. The copy engines (R432, R433, R443, R478 to R483, R615): COPY and FILL on their channels, burst by burst, and what a
port does with the completions of the hub's reads (R492). -/

namespace Sys2Proof.Machine

-- reads and confirmed writes of a port (R492) ---------------------------------------------------------------------------

/-- A read of a port has completed: the writes sent before it, a number of them, are confirmed; a confirmed mirror write is no
longer in flight (R361, R492), and a block move whose bytes they were goes on (R171). -/
def portConfirm (p n : Nat) (s : State) : State :=
  let h := portOf s p
  let over_ := h.unconfirmed.take n
  let rest := h.unconfirmed.drop n
  let landed (m : Mirror) : Bool :=
    let is (u : Unconfirmed) : Bool := match u with
      | .write t a _ => t = m.table && a = m.addr
      | _ => false
    over_.any is && !rest.any is
  let s := portMod p (fun h => { h with
    unconfirmed := rest
    lastConfirm := now s
    reads := h.reads.map (fun r => { r with after := r.after - n }) }) s
  donesSettle <| movesFlushed { s with tck := { s.tck with
    mirrors := s.tck.mirrors.map (fun x => (x.1, if landed x.2 then { x.2 with inFlight := false } else x.2)) } }

/-- The outstanding read of a tag. -/
def readOf (s : State) (p tag : Nat) : Option HostRead := (portOf s p).reads.find? (fun r => r.tag = tag)

/-- Takes a read off a port as completed; a request that waited for room may go. -/
def readDone (p : Nat) (r : HostRead) (s : State) : State :=
  portKick p (portConfirm p r.after (portMod p (fun h => { h with reads := h.reads.filter (fun x => x.tag ≠ r.tag) }) s))

-- channels and engines --------------------------------------------------------------------------------------------------

/-- A copy engine. -/
def ceOf (s : State) (k : Nat) : CopyEngine := mapGetD s.hif.ce k {}

/-- Changes a copy engine. -/
def ceMod (k : Nat) (f : CopyEngine → CopyEngine) (s : State) : State :=
  { s with hif := { s.hif with ce := mapUp s.hif.ce k {} f } }

/-- The channel that a handle names, whatever its generation. -/
def chanOf (s : State) (h : Handle) : Option Channel := mapGet s.obj.channels (hIdx h)

/-- Changes a channel. -/
def chanMod (h : Handle) (f : Channel → Channel) (s : State) : State :=
  { s with obj := { s.obj with channels := mapMod s.obj.channels (hIdx h) f } }

/-- Changes the copy at the head of a channel. -/
def jobMod (h : Handle) (f : CopyJob → CopyJob) (s : State) : State :=
  chanMod h (fun c => { c with jobs := match c.jobs with
    | j :: r => f j :: r
    | [] => [] }) s

/-- Takes the copy at the head of a channel off it. -/
def jobPop (h : Handle) (s : State) : State := chanMod h (fun c => { c with jobs := c.jobs.tail }) s

/-- The bytes of a copy. -/
def copyTotal (b : CopyBody) : Nat := b.rows * b.rowBytes

/-- Whether fields of a copy body lie outside their ranges (R432). -/
def copyBad (b : CopyBody) : Bool :=
  outside b.rowBytes 1 (2 ^ 31) || outside b.rows 1 65536 || decide (copyTotal b > 2 ^ 38) || decide (b.flags > 1)

/-- COPY and FILL reach the engine of their channel (R432, R433, R480). -/
def copyQueue (r : CmdRef) (b : CopyBody) (isFill : Bool) (q : Queue) (e : QEntry) (s : State) : State :=
  match checkOwned s ((tenantOf s q.table).getD 0) q.table 7 b.channel with
  | .ok =>
    if copyBad b || (match chanOf s b.channel with | some c => c.destroying | none => true) then
      failCmd r (if copyBad b then .range else .gone) 0 s
    else
      let j : CopyJob := { ref := r, b := b, isFill := isFill, step := e.d.step, doneBytes := 0, written := 0, nextPort := 0 }
      chanMod b.channel (fun c => { c with jobs := c.jobs ++ [j] }) s
  | st => failCmd r (worse st (if copyBad b then .range else .ok)) 0 s

/-- COPY (R432, R433). -/
def execCopy (r : CmdRef) (s : State) : Result :=
  live s (withCmd r (fun q e s => match e.d.body with
    | .copy b => copyQueue r b false q e (cmdBegins r s)
    | _ => s))

/-- FILL (R433, R615). -/
def execFill (r : CmdRef) (s : State) : Result :=
  live s (withCmd r (fun q e s => match e.d.body with
    | .fill b => copyQueue r b true q e (cmdBegins r s)
    | _ => s))

-- the segments of a burst -----------------------------------------------------------------------------------------------

/-- Where a run of a copy's bytes comes from and goes to: on the host bus, or in device memory. -/
structure Segment where
  srcVa : Nat
  dstVa : Nat
  len : Nat
  srcHost : Option Nat
  dstHost : Option Nat
  srcPa : Nat
  deriving DecidableEq, Repr

/-- The host address of a target on the host bus. -/
def targetHost : Target → Option Nat
  | .host a => some a
  | _ => none

/-- Whether a source and a destination suit the kind of a channel (R433). -/
def kindSuits (k : ChanKind) (isFill : Bool) (src dst : Option Nat) : Bool :=
  match k with
  | .hostIn => (isFill || src.isSome) && dst.isNone
  | .hostOut => (isFill || src.isNone) && dst.isSome
  | .peer => true
  | .device => (isFill || src.isNone) && dst.isNone

/-- The segment of a copy at a position: checked, within one row and one page on each side, and of a budget of bytes. The part of a row that
the budget covers is a tile, which fails RANGE as a whole when it ends above 2^57 (R126, R432). -/
def segAt (u : Accessor) (k : ChanKind) (j : CopyJob) (pos budget : Nat) : Pass Segment := do
  let row := pos / j.b.rowBytes
  let off := pos % j.b.rowBytes
  let n := min budget (j.b.rowBytes - off)
  let src := j.b.srcVa + row * j.b.srcPitch + off
  let dst := j.b.dstVa + row * j.b.dstPitch + off
  passRange (decide (dst + n > 2 ^ 57) || (!j.isFill && decide (src + n > 2 ^ 57)))
  let from_ ← (if j.isFill then pure none else do
    let x ← accPage u 1 src (min n 65536)
    pure (some x))
  let (tg, _, left) ← accPage u 2 dst (min n 65536)
  let n := min n left
  let n := match from_ with
    | some x => min n x.2.2
    | none => n
  let sh := from_.bind (fun x => targetHost x.1)
  passRange (!kindSuits k j.isFill sh (targetHost tg))
  pure { srcVa := src, dstVa := dst, len := n, srcHost := sh, dstHost := targetHost tg,
         srcPa := match from_ with
           | some x => x.2.1
           | none => 0 }

/-- The segments after the first of a burst, up to one that does not go through. -/
def segsMore (u : Accessor) (k : ChanKind) (j : CopyJob) : Nat → Nat → Nat → State → List Segment × State
  | 0, _, _, s => ([], s)
  | n + 1, pos, budget, s =>
    if budget = 0 then ([], s)
    else match runPass (segAt u k j pos budget) s with
      | (.ok g, s) =>
        let r := segsMore u k j n (pos + g.len) (budget - g.len) s
        (g :: r.1, r.2)
      | (.error _, _) => ([], s)

/-- The segments of the next burst: at most 64 KiB, and up to a tile that faults (R143, R481). -/
def burstSegs (u : Accessor) (k : ChanKind) (j : CopyJob) (pos budget : Nat) (s : State) : Except Halt (List Segment) × State :=
  match runPass (segAt u k j pos budget) s with
  | (.ok g, s) =>
    let r := segsMore u k j 65536 (pos + g.len) (budget - g.len) s
    (.ok (g :: r.1), r.2)
  | (.error h, s) => (.error h, s)

/-- Whether the addresses of a copy suit its channel's kind (R433), as far as the page tables translate them now; what they do not translate
is judged when it is reached (notes/assumptions/139). The states it goes through are dropped. -/
def copySuits (u : Accessor) (k : ChanKind) (j : CopyJob) : Nat → Nat → State → Bool
  | 0, _, _ => true
  | n + 1, pos, s =>
    if pos ≥ copyTotal j.b then true
    else
      let row := pos / j.b.rowBytes
      let off := pos % j.b.rowBytes
      let s := tlbPeek u.table (j.b.dstVa + row * j.b.dstPitch + off) s
      let s := if j.isFill then s else tlbPeek u.table (j.b.srcVa + row * j.b.srcPitch + off) s
      match runPass (segAt u k j pos (copyTotal j.b - pos)) s with
      | (.ok g, s) => copySuits u k j n (pos + max g.len 1) s
      | (.error (.status .range), _) => false
      | (.error _, _) => copySuits u k j n (pos / 4096 * 4096 + 4096) s

/-- The bytes of a burst. -/
def segsLen (gs : List Segment) : Nat := (gs.map (fun g => g.len)).sum

-- COPY_BURST (R481, R483) -----------------------------------------------------------------------------------------------

/-- Whether a channel needs a host port. -/
def chanHost (c : Channel) : Bool := c.kind ≠ .device

/-- The port of a channel's next burst (R433, R481, R483): its own, or the other one when that cannot carry requests. -/
def burstPort (s : State) (c : Channel) (j : CopyJob) : Option Nat :=
  let p := match c.port with
    | .hp0 => 0
    | .hp1 => 1
    | .stripe => j.nextPort % 2
  if portUsable s c.table p then some p else if portUsable s c.table (1 - p) then some (1 - p) else none

/-- Whether the head of a channel has a burst to move. -/
def chanWaits (s : State) (c : Channel) : Bool := match c.jobs with
  | j :: _ => !j.parked && (match entryOf s j.ref with
      | some e => e.state = .running && e.events.isEmpty
      | none => false)
  | [] => false

/-- The channels of an engine with a waiting burst, in turn (R481). -/
def chansTurn (s : State) (k : Nat) : List (Nat × Channel) :=
  let mine := s.obj.channels.filter (fun x => x.2.engine = k && chanWaits s x.2)
  let t := (ceOf s k).turn
  mine.filter (fun x => x.1 > t) ++ mine.filter (fun x => x.1 ≤ t)

/-- The accessor of a copy. -/
def copyAccessor (s : State) (k : Fin 40) (c : Channel) (j : CopyJob) : Accessor :=
  { src := .copyEngine k, table := c.table, rerun := inStep s j.ref, host := true }

/-- Frees an engine from its burst, with its draw (R42, R481). -/
def ceRelease (k : Fin 40) (s : State) : State :=
  let s := (List.range 2).foldl (fun s p => portMod p (fun h => { h with reads := h.reads.filter (fun r => r.what ≠ .burst k.val) }) s) s
  anteFreeDraw 5 k.val (accForget (.copyEngine k) (ceMod k.val (fun x => { x with busy := none, burst := 0, moved := false }) s))

/-- Ends the copy at the head of a channel without commit. -/
def copyFail (k : Fin 40) (h : Handle) (j : CopyJob) (st : Status) (s : State) : State :=
  failUnit j.ref st (jobMod h (fun x => { x with parked := true }) (ceRelease k s))

/-- A copy that faults waits, and its engine takes other channels (R143). -/
def copyFault (k : Fin 40) (h : Handle) (c : Channel) (j : CopyJob) (op va : Nat) (cs : Cause) (en lv pa : Nat) (s : State) : State :=
  let s := jobMod h (fun x => { x with parked := true }) (ceRelease k s)
  faultPresent { source := .copyEngine k, table := c.table, ctx := cmdContext s j.ref, cmd := some j.ref, tag := 0, va := va, pa := pa,
                 entry := en, level := lv, cause := cs, access := accessBits op (inStep s j.ref) } s

/-- COPY_BURST (R433, R478, R481, R483): the channel whose turn it is has its next burst checked and begun once the engine's draw is
granted. -/
def execCopyBurst (k : Fin 40) (s : State) : Result :=
  live s (fun s =>
    let ce := ceOf s k.val
    if ce.busy.isSome then s
    else
      let waiting := chansTurn s k.val
      let goes := waiting.find? (fun x => !chanHost x.2 || (match x.2.jobs.head? with
        | some j => (burstPort s x.2 j).isSome
        | none => false))
      match goes with
      | none =>
        let s := ceMod k.val (fun x => { x with waitPort := !waiting.isEmpty }) s
        if anteWaits s 5 k.val || anteHas s 5 k.val then anteDrop 5 k.val s else s
      | some (i, c) =>
        if !anteHas s 5 k.val then anteRequest 5 k.val false (ceMod k.val (fun x => { x with waitPort := false }) s)
        else match c.jobs.head? with
          | none => s
          | some j =>
            let h := liveHandle s 7 i
            let u := copyAccessor s k c j
            let s := ceMod k.val (fun x => { x with turn := i, waitPort := false }) s
            let suits := j.doneBytes ≠ 0 || copySuits u c.kind j (2 * (copyTotal j.b / 4096 + 2) + j.b.rows) 0 s
            if !suits then copyFail k h j .range s
            else match burstSegs u c.kind j j.doneBytes (min 65536 (copyTotal j.b - j.doneBytes)) s with
              | (.error .wait, s) => s
              | (.error (.status st), s) => copyFail k h j st s
              | (.error (.fault op va cs en lv pa), s) => copyFault k h c j op va cs en lv pa s
              | (.ok gs, s) =>
                let p := (burstPort s c j).getD 0
                let s := ceMod k.val (fun x => { x with busy := some h, burst := segsLen gs, port := p, moved := false }) s
                gs.foldl (fun s g => match g.srcHost with
                  | some a => hostReadSend p c.table a g.len (.burst k.val) s
                  | none => s) s)

-- COPY_BURST_DONE (R443, R479, R482, R615) ------------------------------------------------------------------------------

/-- The bytes of a FILL at a destination (R615). -/
def fillBytes (pattern dst len : Nat) : List Byte :=
  (List.range len).map (fun i => BitVec.ofNat 8 (pattern / 2 ^ (8 * ((dst + i) % 8))))

/-- Sends a copy's data to the host (R443, R460, R479, R492). -/
def burstWrite (k p table addr : Nat) (relaxed : Bool) (bs : List Byte) (ep : Bool) (s : State) : State :=
  let r := relaxed && (portOf s p).relaxedEnable
  unconfirm p (.burst k table addr bs ep) (hostSend p addr (.hostWrite p (pasidOf s table p) addr bs r ep) s)

/-- Reads a run of device memory codeblock by codeblock and sends it to the host; a poisoned codeblock travels as zeros with EP set
(R479). It answers whether there was one. -/
def segOut (u : Accessor) (k p : Nat) (relaxed : Bool) (va addr : Nat) : List (Nat × Nat) → Nat → Pass Bool
  | [], _ => pure false
  | (_, n) :: r, off => do
    let x ← (try (do let b ← accRead u (va + off) n; pure (b, false)) catch h => (match h with
      | .status .poisoned => pure (List.replicate n 0, true)
      | h => throw h))
    passDo (burstWrite k p u.table (addr + off) relaxed x.1 x.2)
    let rest ← segOut u k p relaxed va addr r (off + n)
    pure (x.2 || rest)

/-- Whether every read of device memory for a burst is answered: a pass that only reads. -/
def segsRead (u : Accessor) (j : CopyJob) : List Segment → Pass Unit
  | [] => pure ()
  | g :: r => do
    if j.isFill || g.srcHost.isSome then pure ()
    else (try (do let _ ← accRead u g.srcVa g.len; pure ()) catch h => (match h with
      | .status .poisoned => if g.dstHost.isSome then pure () else throw h
      | h => throw h))
    segsRead u j r

/-- Moves the segments of a burst in address order (R482): the host's bytes come in the order of the segments. -/
def segsMove (u : Accessor) (k p : Nat) (j : CopyJob) : List Segment → List Byte → Pass Bool
  | [], _ => pure false
  | g :: r, host => do
    let fixed : Option (List Byte) :=
      if j.isFill then some (fillBytes j.b.srcVa g.dstVa g.len) else if g.srcHost.isSome then some (host.take g.len) else none
    let bad ← (match fixed, g.dstHost with
      | some b, some a => do passDo (burstWrite k p u.table a (j.b.flags % 2 = 1) b false); pure false
      | some b, none => do accWrite u g.dstVa b; pure false
      | none, some a => segOut u k p (j.b.flags % 2 = 1) g.srcVa a (partsOf g.srcPa g.len) 0
      | none, none => do
        let b ← accRead u g.srcVa g.len
        accWrite u g.dstVa b
        pure false)
    let rest ← segsMove u k p j r (if g.srcHost.isSome then host.drop g.len else host)
    pure (bad || rest)

/-- The end of a burst whose writes are all answered: the copy goes on, commits, or retires POISONED (R444, R479, R482). -/
def burstEnd (k : Fin 40) (h : Handle) (st : Status) (s : State) : State :=
  let n := (ceOf s k.val).burst
  let s := ceRelease k s
  let s := jobMod h (fun j => { j with
    doneBytes := j.doneBytes + n, written := if st = .ok then j.written + n else j.written, nextPort := 1 - j.nextPort % 2 }) s
  match (chanOf s h).bind (fun c => c.jobs.head?) with
  | none => s
  | some j =>
    let over_ := match entryOf s j.ref with
      | some e => e.isDecided
      | none => true
    if over_ then
      let s := entryMod j.ref (fun e => { e with result := max e.result ((j.written + 255) / 256) }) s
      jobPop h s
    else if st ≠ .ok then failUnit j.ref st (jobMod h (fun x => { x with parked := true }) s)
    else if j.poisoned then failCmd j.ref .poisoned 0 (jobMod h (fun x => { x with parked := true }) s)
    else if j.doneBytes ≥ copyTotal j.b then
      commitCmd j.ref (jobPop h (entryMod j.ref (fun e => { e with result := (j.written + 255) / 256 }) s))
    else s

/-- Whether a burst's host reads have brought all their bytes. -/
def hostBytes (gs : List Segment) : Nat := segsLen (gs.filter (fun g => g.srcHost.isSome))

/-- COPY_BURST_DONE (R143, R478, R482): a burst whose reads have all come moves its bytes, and ends when its writes are answered; the
operand gives what the host's reads returned. -/
def execCopyBurstDone (k : Fin 40) (hostData : List Byte) (s : State) : Result :=
  live s (fun s =>
    let ce := ceOf s k.val
    match ce.busy with
    | none => s
    | some h =>
      match chanOf s h with
      | none => ceRelease k s
      | some c =>
        match c.jobs.head? with
        | none => ceRelease k s
        | some j =>
          let u := copyAccessor s k c j
          let ended (s : State) : State := match accEnd s u.src with
            | some st => burstEnd k h st s
            | none => s
          if ce.moved then ended s
          else match burstSegs u c.kind j j.doneBytes ce.burst s with
            | (.error .wait, s) => s
            | (.error (.status st), s) => copyFail k h j st s
            | (.error (.fault op va cs en lv pa), s) => copyFault k h c j op va cs en lv pa s
            | (.ok gs, s) =>
              if hostBytes gs ≠ hostData.length then s
              else match runPass (segsRead u j gs) s with
                | (.error .wait, s) => s
                | (.error (.status st), s) => copyFail k h j st s
                | (.error (.fault op va cs en lv pa), s) => copyFault k h c j op va cs en lv pa s
                | (.ok _, s) =>
                  let s := (List.range 2).foldl (fun s p =>
                    ((portOf s p).reads.filter (fun r => r.what = .burst k.val)).foldl (fun s r =>
                      match readOf s p r.tag with
                      | some x => readDone p x s
                      | none => s) s) s
                  let s := ceMod k.val (fun x => { x with burst := segsLen gs }) s
                  (match runPass (segsMove u k.val ce.port j gs hostData) s with
                   | (.ok bad, s) =>
                     ended (jobMod h (fun x => { x with poisoned := x.poisoned || bad }) (ceMod k.val (fun x => { x with moved := true }) s))
                   | (.error .wait, s) => s
                   | (.error (.status st), s) => copyFail k h j st s
                   | (.error (.fault op va cs en lv pa), s) => copyFault k h c j op va cs en lv pa s))

end Sys2Proof.Machine
end

