-- ==== Sys2Proof/Machine/HostEnd.lean ====
section
/-! DEFINITION. The host endpoint (R458 to R505): the host's accesses through BAR2 and the HDM range, the answers to the hub's own
requests, ATS and PRI, enables and power states, resets of one port, attachments, IDE and SPDM. -/

namespace Sys2Proof.Machine

-- unsupported requests and protocol errors (R487, R488) -----------------------------------------------------------------

/-- UNSUPPORTED_REQUEST (R465, R487): a request that the function does not take completes UR. -/
def execUnsupportedRequest (port : Fin 2) (kind : BadReq) (posted : Bool) (s : State) : Result :=
  let h := portOf s port.val
  let holds := match kind with
    | .mseClear => h.state = .up && !h.mse
    | .nonConfigD3 => h.state = .d3hot
    | _ => portLinked s port.val
  if portLinked s port.val && holds then finish (urDone port.val posted s) else .next s

/-- The AER name of a protocol error (R488). -/
def protoName : ProtoErr → String
  | .malformedTlp => "MALFORMED_TLP"
  | .unexpectedCompletion => "UNEXPECTED_COMPLETION"
  | .receiverOverflow => "RECEIVER_OVERFLOW"
  | .poisonedTlp => "POISONED_TLP_RECEIVED"
  | .linkLayer => "LINK_LAYER_CORRECTABLE"
  | .completerAbort => "COMPLETER_ABORT"
  | .ideFailure => "IDE_CHECK_FAILED"

/-- PROTOCOL_ERROR (R488): logged; the TLP is discarded, and nothing is reset. -/
def execProtocolError (port : Fin 2) (kind : ProtoErr) (s : State) : Result :=
  if portLinked s port.val then finish (aerLog port.val (protoName kind) s) else .next s

-- the host window and the HDM range (R466 to R472) ----------------------------------------------------------------------

/-- Presents an access of the host to a table as a tile of one row (R124): its tag in TRN is the TLP's with what the answer needs. An
access whose range R126 refuses completes at once. -/
def winAccess (p : Fin 2) (t va : Nat) (write : Bool) (len : Nat) (data : List Byte) (tag off : Nat) (hdm : Bool) (m : Option HdmMsg)
    (s : State) : State :=
  let d : TileDesc := { va := va, rowBytes := len, rows := 1, pitch := 0, op := if write then 2 else 1, flags := 0,
                        tag := winTag tag off hdm write }
  if tileBad d then winReply p.val tag off hdm write t .range [] s
  else tileNew { src := .hostWindow p, table := t, d := d, data := data, hdm := m } s

/-- BAR2_REQUEST (R464 to R469, R486). A write with EP set leaves its target unchanged. -/
def execBar2Request (port : Fin 2) (offset : BitVec 30) (write : Bool) (len : Nat) (data : List Byte) (ep : Bool) (tag : Nat)
    (s : State) : Result :=
  let p := port.val
  if !portLinked s p then .next s
  else if (portOf s p).state = .d3hot || !(portOf s p).mse then .next (urDone p write s)
  else live s (fun s =>
    let off := offset.toNat
    let e := mapGetD s.hif.win (off / 2 ^ 24) {}
    if len = 0 ∨ off % 4096 + len > 4096 then urDone p write s
    else if !e.valid || (write && !e.write) then urDone p write (hifErr 6 p e.table off s)
    else if write && ep then aerLog p "POISONED_TLP_RECEIVED" (hifErr 6 p e.table off s)
    else winAccess port e.table (e.va + off % 2 ^ 24) write len data tag off false none s)

/-- The bytes of one access through CXL.mem. -/
def hdmBytes : Nat := 64

/-- HDM_REQUEST (R470): an access of the HDM range of a CXL port, with error completions in place of Completer Abort. -/
def execHdmRequest (port : Fin 2) (offset : BitVec 30) (write : Bool) (data : List Byte) (tag : Nat) (s : State) : Result :=
  let p := port.val
  let off := offset.toNat
  if !(barOpen s p && (portOf s p).cxl) || off % hdmBytes ≠ 0 then .next s
  else live s (fun s =>
    let e := mapGetD s.hif.hdm p {}
    if !e.valid then winReply p tag off true write e.table .fault [] s
    else winAccess port e.table (e.va + off) write hdmBytes data tag off true none s)

/-- HDM_DB_MESSAGE (R404, R405, R472): a tile that carries the message; once its page is translated, it is the matching request or snoop
answer on a page with H = 1, and a plain access on any other. -/
def execHdmDbMessage (port : Fin 2) (offset : Nat) (m : HdmMsg) (tag : Nat) (s : State) : Result :=
  let p := port.val
  if !(barOpen s p && (portOf s p).cxl) || offset % hdmBytes ≠ 0 || offset ≥ 2 ^ 30 then .next s
  else live s (fun s =>
    let e := mapGetD s.hif.hdm p {}
    let write := match m with
      | .memWr _ => true
      | .memWrPtl .. => true
      | _ => false
    let bytes := match m with
      | .memWr b => b.take hdmBytes
      | .memWrPtl b _ => b.take hdmBytes
      | _ => []
    if !e.valid then winReply p tag offset true write e.table .fault [] s
    else winAccess port e.table (e.va + offset) write hdmBytes bytes tag offset true (some m) s)

-- the answers to the hub's requests (R478, R479, R492) ------------------------------------------------------------------

/-- The copy whose burst an engine has in flight ends with a status (R478). -/
def burstStop (k : Nat) (st : Status) (s : State) : State :=
  if h : k < 40 then
    match (ceOf s k).busy with
    | none => s
    | some ch =>
      match (chanOf s ch).bind (fun c => c.jobs.head?) with
      | some j => copyFail ⟨k, h⟩ ch j st s
      | none => ceRelease ⟨k, h⟩ s
  else s

/-- What a host read that has failed ends (R478, R479, R613). -/
def readFail (r : HostRead) (st : Status) (s : State) : State :=
  match r.what with
  | .piece src tag idx => pieceAnswer src tag idx 0 st [] s
  | .burst k => burstStop k st s
  | .fetch h => fetchArrive h (if st = .poisoned then .poisoned else .fault) (fetchAnswered h s)
  | .flush => s

/-- HOST_READ_COMPLETION (R478, R479, R488). The bytes of a copy's burst come with COPY_BURST_DONE. -/
def execHostReadCompletion (port : Fin 2) (tag : Nat) (c : HostCpl) (s : State) : Result :=
  live s (fun s =>
    let p := port.val
    match readOf s p tag with
    | none => if portLinked s p then aerLog p "UNEXPECTED_COMPLETION" s else s
    | some r =>
      let bad (kind : Nat) (st : Status) : State := readFail r st (hifErr kind p r.table r.addr (readDone p r s))
      tilesRecheck (match c with
        | .ur => bad 1 .fault
        | .ca => bad 2 .fault
        | .ep => aerLog p "POISONED_TLP_RECEIVED" (bad 4 .poisoned)
        | .data bs =>
          match r.what with
          | .piece src t idx => pieceAnswer src t idx 0 .ok bs (readDone p r s)
          | .burst _ => portConfirm p r.after s
          | .fetch h => fetchArrive h (.bytes bs) (fetchAnswered h (readDone p r s))
          | .flush => readDone p r s))

/-- COMPLETION_TIMEOUT (R478): a read is not answered in time. -/
def execCompletionTimeout (port : Fin 2) (tag : Nat) (s : State) : Result :=
  live s (fun s =>
    let p := port.val
    match readOf s p tag with
    | none => s
    | some r =>
      let s := portKick p (portMod p (fun h => { h with reads := h.reads.filter (fun x => x.tag ≠ tag) }) s)
      tilesRecheck (readFail r .fault (aerLog p "COMPLETION_TIMEOUT" (hifErr 3 p r.table r.addr s))))

/-- CONFIRM_READ (R343, R444, R492): a port with unconfirmed writes sends a zero-length read. -/
def execConfirmRead (port : Fin 2) (s : State) : Result :=
  live s (fun s =>
    let p := port.val
    let h := portOf s p
    if h.unconfirmed.isEmpty || !portCarries s p || h.reads.any (fun r => r.what = .flush && decide (r.after ≥ h.unconfirmed.length)) then s
    else
      let (t, a) := match h.unconfirmed.getLast? with
        | some (.burst _ t a _ _) => (t, a)
        | some (.piece _ _ _ t a _) => (t, a)
        | some (.write t a _) => (t, a)
        | _ => (0, 0)
      hostReadSend p t a 0 .flush s)

-- ATS and PRI (R476, R477) ----------------------------------------------------------------------------------------------

/-- A tile's write that waited for its translation has been sent, or has failed: its piece is answered. -/
def writeAnswer (p addr : Nat) (bs : List Byte) (st : Status) (s : State) : State :=
  (portOf s p).unconfirmed.foldl (fun s u => match u with
    | .piece src tag idx _ a b => if a = addr ∧ b = bs then pieceAnswer src tag idx 0 st [] s else s
    | _ => s) s

/-- A request that waits for a page ends as a host error (R477, R478): a read as a failed one, a tile's write with its piece, a copy's with
its copy. -/
def atsFailOne (p : Nat) (o : Out) (s : State) : State :=
  match o with
  | .hostRead _ _ addr _ tag =>
    (match readOf s p tag with
     | some r => readFail r .fault (hifErr 5 p r.table addr (portMod p (fun h => { h with reads := h.reads.filter (fun x => x.tag ≠ tag) }) s))
     | none => s)
  | .hostWrite _ _ addr bs _ _ =>
    let mine (u : Unconfirmed) : Bool := match u with
      | .burst _ _ a b _ => a = addr && b = bs
      | .piece _ _ _ _ a b => a = addr && b = bs
      | .write _ a b => a = addr && b = bs
      | _ => false
    (match (portOf s p).unconfirmed.find? mine with
     | some u =>
       let s := hifErr 5 p (u.table.getD 0) addr (portMod p (fun h => { h with unconfirmed := h.unconfirmed.erase u }) s)
       (match u with
        | .burst k _ _ _ _ => burstStop k .fault s
        | .piece src tag idx _ _ _ => pieceAnswer src tag idx 0 .fault [] s
        | _ => s)
     | none => hifErr 5 p 0 addr s)
  | _ => s

/-- The requests that wait for a page end as host errors. -/
def atsFail (p page : Nat) (s : State) : State :=
  let mine := (portOf s p).atsWait.filter (fun x => x.1 = page)
  portKick p (mine.foldl (fun s x => atsFailOne p x.2 s) (portMod p (fun h => { h with atsWait := h.atsWait.filter (fun x => x.1 ≠ page) }) s))

/-- TRANSLATION_COMPLETION (R476, R477): a granted page enters the cache of 4,096 entries and its requests go out translated; a denied
one asks for the page, if the function may, at most 512 at a time (R458). What a port may not send now (R464) waits with its other requests. -/
def execTranslationCompletion (port : Fin 2) (page : Nat) (c : AtsCpl) (s : State) : Result :=
  live s (fun s =>
    let p := port.val
    let h := portOf s p
    if !h.atsWait.any (fun x => x.1 = page) || h.pageReqs.contains page || h.pageWait.contains page then s
    else match c with
      | .granted a =>
        let mine := h.atsWait.filter (fun x => x.1 = page)
        let s := portMod p (fun h => { h with
          atc := mapPut (if h.atc.length ≥ 4096 then h.atc.tail else h.atc) page a
          atsWait := h.atsWait.filter (fun x => x.1 ≠ page) }) s
        tilesRecheck (mine.foldl (fun s x => match x.2 with
          | .hostRead q d addr n t =>
            if portCarries s p then emit (.hostRead q d (a + addr % 4096) n t) s
            else portMod p (fun h => { h with held := h.held ++ [(addr, x.2)] }) s
          | .hostWrite q d addr bs r e =>
            writeAnswer p addr bs .ok (if portCarries s p then emit (.hostWrite q d (a + addr % 4096) bs r e) s
              else portMod p (fun h => { h with held := h.held ++ [(addr, x.2)] }) s)
          | o => emit o s) s)
      | .deniedAccess =>
        if h.priEnable then
          (if h.pageReqs.length < 512 then
            emit (.ats p "PAGE_REQUEST" page) (portMod p (fun h => { h with pageReqs := h.pageReqs ++ [page] }) s)
           else portMod p (fun h => { h with pageWait := h.pageWait ++ [page] }) s)
        else tilesRecheck (atsFail p page s))

/-- The oldest page that waits for one of the 512 outstanding page requests is asked for (R458). -/
def pageNext (p : Nat) (s : State) : State := match (portOf s p).pageWait with
  | q :: r => emit (.ats p "PAGE_REQUEST" q) (portMod p (fun h => { h with pageReqs := h.pageReqs ++ [q], pageWait := r }) s)
  | [] => s

/-- PAGE_REQUEST_RESPONSE (R477). -/
def execPageRequestResponse (port : Fin 2) (page : Nat) (r : PriResponse) (s : State) : Result :=
  live s (fun s =>
    let p := port.val
    if !(portOf s p).pageReqs.contains page then s
    else
      let s := pageNext p (portMod p (fun h => { h with pageReqs := h.pageReqs.filter (fun x => x ≠ page) }) s)
      match r with
      | .success => emit (.ats p "TRANSLATION_REQUEST" page) s
      | _ => tilesRecheck (atsFail p page s))

/-- ATS_INVALIDATE (R476): the pages leave the cache; what used them has been sent, so the request is answered. -/
def execAtsInvalidate (port : Fin 2) (page count itag : Nat) (s : State) : Result :=
  let p := port.val
  if portLinked s p && (portOf s p).atsEnable then
    finish (emit (.ats p "INVALIDATE_COMPLETION" itag) (portMod p (fun h => { h with
      atc := h.atc.filter (fun x => !(decide (page ≤ x.1) && decide (x.1 < page + count))) }) s))
  else .next s

-- ports that come and go (R421, R455, R464, R474, R483, R491 to R493, R585) ----------------------------------------------

/-- Whether a queue needs host memory. -/
def queueHost (s : State) (q : Queue) : Bool :=
  let host (h : Handle) : Bool := match memOf s h with
    | some o => o.kind = .host
    | none => false
  host q.ringObj || host q.cplObj

/-- After a port can no longer carry requests: tables change their primary port (R474), and a queue that needs host memory and has no
port left pauses (R421). -/
def portsGone (s : State) : State :=
  let s := (s.tables.map (fun x => x.1)).foldl (fun s t => reprimary t s) s
  { s with obj := { s.obj with queues := s.obj.queues.map (fun x => (x.1,
      if (x.2.state = .active || x.2.state = .stopped) && queueHost s x.2 && (primaryOf s x.2.table).isNone then
        { x.2 with state := .paused } else x.2)) } }

/-- Sends again a write that a reset has lost (R492). -/
def lostSend (p : Nat) (u : Unconfirmed) (s : State) : State :=
  match u with
  | .burst k t a bs ep => burstWrite k p t a false bs ep s
  | .piece x g i t a bs => unconfirm p (.piece x g i t a bs) (hostSend p a (.hostWrite p (pasidOf s t p) a bs false false) s)
  | .write t a bs => unconfirm p (.write t a bs) (hostSend p a (.hostWrite p (pasidOf s t p) a bs false false) s)
  | .msix _ => s

/-- Changes the guards of what a table has waiting: signals and the CMPLs of launches. -/
def guardsMap (up : Nat → Guard → Guard) (s : State) : State :=
  { s with
    tck := { s.tck with held := s.tck.held.map (fun h => { h with guards := h.guards.map (up h.table) }) }
    obj := { s.obj with doneWaits := s.obj.doneWaits.map (fun w => { w with guards := w.guards.map (up w.table) }) } }

/-- Guards of a table that name lost writes follow the writes to a port. -/
def guardsFollow (t p : Nat) (s : State) : State :=
  guardsMap (fun u g => if u = t && g = .lost then portGuard s p else g) s

/-- A table has a port again: what was lost is sent, paused queues resume, and held entries and messages are written (R362, R455,
R483, R493). -/
def portBack (t : Nat) (s : State) : State :=
  match primaryOf s t with
  | none => s
  | some p =>
    let mine := s.hif.lostWrites.filter (fun u => u.table = some t)
    let s := { s with hif := { s.hif with lostWrites := s.hif.lostWrites.filter (fun u => u.table ≠ some t) } }
    let s := guardsFollow t p (mine.foldl (fun s u => lostSend p u s) (reprimary t s))
    let s := (s.obj.events.filter (fun x => x.2.table = t)).foldl (fun s x =>
      let h := liveHandle s 4 x.1
      let s := eventFlush h s
      match eventOf s h with
      | some e => if e.msgDue then eventMessage h s else s
      | none => s) s
    let paused := (queuesOfTable s t).filter (fun q => match queueOf s q with
      | some x => x.state = .paused
      | none => false)
    tilesRecheck (irqHeldAgain (paused.foldl (fun s q => fetchKick q (queueMod q (fun x => { x with state := .active }) s)) s))

/-- COMMAND_REGISTER_WRITE (R461, R464). -/
def execCommandRegisterWrite (port : Fin 2) (value : BitVec 16) (s : State) : Result :=
  let p := port.val
  if !portLinked s p then .next s
  else
    let s := portMod p (fun h => { h with
      mse := value.getLsbD 1, bme := value.getLsbD 2, serr := value.getLsbD 8, intxDisable := value.getLsbD 10 }) s
    finish (if portCarries s p then portKick p ((s.tables.map (fun x => x.1)).foldl (fun s t => portBack t s) s) else portsGone s)

/-- The write of a mirror, found by its address (R359). -/
def mirrorAt (s : State) (t a : Nat) : Option Nat :=
  (s.tck.mirrors.find? (fun x => x.2.table = t && x.2.addr = a)).map (fun x => x.1)

/-- A lost write goes out again on a port of its table, or waits for one. -/
def lostKeep (t : Nat) (u : Unconfirmed) (s : State) : State := match primaryOf s t with
  | some q => lostSend q u s
  | none => { s with hif := { s.hif with lostWrites := s.hif.lostWrites ++ [u] } }

/-- A write that a reset of a port has lost goes out again, or waits for a port (R483, R492): a mirror with its latest value, a message
once the function's MSI-X is enabled again. -/
def lostTake (p : Nat) (s : State) (u : Unconfirmed) : State :=
  match u with
  | .msix v => portMod p (fun h => { h with msixPend := if v ∈ h.msixPend then h.msixPend else h.msixPend ++ [v] }) s
  | .write t a _ =>
    (match mirrorAt s t a with
     | some m => { s with tck := { s.tck with mirrors := mapMod s.tck.mirrors m (fun x => { x with due := true, inFlight := false }) } }
     | none => lostKeep t u s)
  | .burst _ t _ _ _ => lostKeep t u s
  | .piece src tag idx t _ _ => lostKeep t u (pieceAnswer src tag idx 0 .ok [] s)

/-- Guards of a port that reset now stand for its lost writes: on the port they went to, or lost. -/
def guardsMove (p : Nat) (before s : State) : State :=
  guardsMap (fun t g => match g with
    | .port q _ =>
      if q = p && guardStands before g then (match primaryOf s t with
        | some q => portGuard s q
        | none => .lost)
      else g
    | _ => g) s

/-- A discarded read of a port that reset (R483, R491): a core's read ends POISONED, a copy's burst is sent again, and a fetch is
repeated. -/
def lostRead (s : State) (r : HostRead) : State :=
  match r.what with
  | .piece src tag idx => pieceAnswer src tag idx 0 .poisoned [] s
  | .burst k => if h : k < 40 then ceRelease ⟨k, h⟩ s else s
  | .fetch q => fetchKick q (fetchAnswered q s)
  | .flush => s

/-- The copies of block moves that awaited flush reads of a port which has reset start again (R173). -/
def movesRestart (p : Nat) (s : State) : State :=
  trnMod (fun r => { r with moves := r.moves.map (fun m => match m.guard with
    | some (.port q _) => if q = p then { m with guard := none } else m
    | some _ => m
    | none => m) }) s

/-- An endpoint reset of a port (R490, R491). -/
def portReset (p : Nat) (s : State) : State :=
  let h := portOf s p
  let before := s
  let s := portMod p (fun h =>
    { state := .resetting, resetAt := now s, resets := min 65535 (h.resets + 1), cxlAllow := h.cxlAllow, maxSpeed := h.maxSpeed, aerSticky := h.aerSticky,
      nextTag := h.nextTag, sent := h.sent, msixPend := h.msixPend, ideInsecure := h.ideInsecure, nextSession := h.nextSession }) s
  let s := cohHostClear p (if h.drawn then anteDrop 4 p s else s)
  let s := { s with hif := { s.hif with tbl := s.hif.tbl.map (fun x => (x.1,
    if p = 0 then { x.2 with att0 := false, pasid0 := 0 } else { x.2 with att1 := false, pasid1 := 0 })) } }
  let s := portsGone s
  let s := h.reads.foldl lostRead s
  let s := movesRestart p (guardsMove p before (h.unconfirmed.foldl (lostTake p) s))
  tilesRecheck (irqRaise (54 + p) s)

/-- Whether a port's link may train: one held in Detect by an endpoint reset is let go after 1 µs (R491; DESIGN CHOICE,
notes/assumptions/78). -/
def portTrains (s : State) (h : HostPort) : Bool :=
  h.state = .training || (h.state = .resetting && decide (h.resetAt + 1000 ≤ now s))

/-- ENDPOINT_RESET (R490, R491): of a port that trains, is up or is in D3hot; one that is being reset is in that reset already. -/
def execEndpointReset (port : Fin 2) (s : State) : Result :=
  let h := portOf s port.val
  if h.state = .down || (h.state = .resetting && !portTrains s h) || s.sys.stopped then .next s else finish (portReset port.val s)

/-- POWER_STATE_WRITE (R465, R490). -/
def execPowerStateWrite (port : Fin 2) (d3hot : Bool) (s : State) : Result :=
  let p := port.val
  let st := (portOf s p).state
  if s.sys.stopped then .next s
  else if d3hot && st = .up then finish (portsGone (portMod p (fun h => { h with state := .d3hot }) s))
  else if !d3hot && st = .d3hot then finish (portReset p s)
  else .next s

/-- HOST_LINK_UP (R503): the link of a training port comes up, as CXL only where the port may and offers. -/
def execHostLinkUp (port : Fin 2) (cxl : Bool) (speed width : Nat) (s : State) : Result :=
  let p := port.val
  let h := portOf s p
  if !portTrains s h || s.sys.stopped || outside speed 1 7 || !oneOf width [1, 2, 4, 8, 16] then .next s
  else
    let asCxl := cxl && h.cxlAllow
    let top := if asCxl then min h.maxSpeed 6 else h.maxSpeed
    let s := portMod p (fun h => { h with state := .up, cxl := asCxl, speed := min speed top, width := width }) s
    let bits := if (mapGetD s.hif.hdm p {}).split then 3 else 1
    finish (if asCxl then { s with coh := { s.coh with hostEnabled := s.coh.hostEnabled ||| BitVec.ofNat 4 (bits * 4 ^ p) } } else s)

-- Gararn requests (R467, R471, R473, R474, R528) -------------------------------------------------------------------------

/-- ATTACH (R473, R474, R493). -/
def effAttach (port pasid t : Nat) (s : State) : Outcome :=
  if port > 1 ∨ pasid ≥ 2 ^ 20 then done .range s
  else
    let h := hifTbl s t
    let first := !h.att0 && !h.att1
    let h' : HifTbl := if port = 0 then { h with att0 := true, pasid0 := pasid } else { h with att1 := true, pasid1 := pasid }
    let h' : HifTbl := { h' with primary := if first then port else h.primary }
    done .ok (portBack t { s with hif := { s.hif with tbl := mapPut s.hif.tbl t h' } })

/-- ATTACH. -/
def execAttach (c : Caller) (port pasid : Nat) (s : State) : Result := gararn 0x600 .o c (withTable c (effAttach port pasid)) s

/-- HOST_PORT (R474): the port must be one the table is attached to. -/
def effHostPort (port t : Nat) (s : State) : Outcome :=
  if port > 1 || !attachedTo s t port then done .range s
  else done .ok (portBack t { s with hif := { s.hif with tbl := mapMod s.hif.tbl t (fun h => { h with primary := port }) } })

/-- HOST_PORT. -/
def execHostPort (c : Caller) (port : Nat) (s : State) : Result := gararn 0x601 .ot c (withTable c (effHostPort port)) s

/-- WINDOW_SET (R467): it waits until the requests admitted to the sub-window have completed. -/
def effWindowSet (m : Fin 64) (w : Nat) (write clear : Bool) (va t : Nat) (s : State) : Outcome :=
  if w > 63 || (!clear && (va % 2 ^ 24 ≠ 0 || decide (va ≥ 2 ^ 57))) then done .range s
  else if winBusy s w then
    later { s with hif := { s.hif with winWait := s.hif.winWait ++
      [{ mbx := m, window := w, table := t, write := write, clear := clear, va := va }] } }
  else done .ok (winPut w t write clear va s)

/-- WINDOW_SET. -/
def execWindowSet (c : Caller) (window : Nat) (write clear : Bool) (va : Nat) (s : State) : Result :=
  gararn 0x602 .t c (withTable c (effWindowSet c.mbx window write clear va)) s

/-- HDM_SET (R471): BUSY while a directory entry lists an agent of the port. -/
def effHdmSet (p : Nat) (split clear : Bool) (va t : Nat) (s : State) : Outcome :=
  if p > 1 || (!clear && (va % 2 ^ 30 ≠ 0 || decide (va ≥ 2 ^ 57))) then done .range s
  else
    let mine (a : Nat) : Bool := a = 120 + 2 * p || a = 121 + 2 * p
    let held := s.coh.dir.any (fun x => x.2.presence.any mine || (mine x.2.owner && (x.2.state = .e || x.2.state = .m)))
    if held then done .busy s
    else
      let e : WinEntry := if clear then {} else { valid := true, split := split, va := va, table := t }
      let on := (portOf s p).state = .up && (portOf s p).cxl
      let bits := s.coh.hostEnabled &&& ~~~(BitVec.ofNat 4 (2 * 4 ^ p))
      let s : State := { s with
        hif := { s.hif with hdm := mapPutD ({} : WinEntry) s.hif.hdm p e }
        coh := { s.coh with hostEnabled := if on && e.split then bits ||| BitVec.ofNat 4 (2 * 4 ^ p) else bits } }
      done .ok s

/-- HDM_SET. -/
def execHdmSet (c : Caller) (port : Nat) (split clear : Bool) (va : Nat) (s : State) : Result :=
  gararn 0x603 .t c (withTable c (effHdmSet port split clear va)) s

/-- PORT_CFG (R528): for the port's next training. -/
def effPortCfg (p allow speed : Nat) (s : State) : Outcome :=
  if p > 1 ∨ allow > 1 ∨ outside speed 1 7 then done .range s
  else done .ok (portMod p (fun h => { h with cxlAllow := allow = 1, maxSpeed := speed }) s)

/-- PORT_CFG. -/
def execPortCfg (c : Caller) (port cxlAllow maxSpeed : Nat) (s : State) : Result := gararn 0x604 .o c (effPortCfg port cxlAllow maxSpeed) s

-- DOE, SPDM, IDE and tenant keys (R497 to R502, R530, R531) --------------------------------------------------------------

/-- A DOE request of a port's function: Snisol answers it, and DOE is busy while the control core does not run or is not clocked (R27, R502). -/
def doe (p : Nat) (f : State → State) (s : State) : Result :=
  if !portLinked s p then .next s
  else if !coreAnswers s then .next (emit (.spdm p "DOE_BUSY" .busy) s)
  else finish (f s)

/-- Answers an SPDM request when the exchange has come far enough, else with an error. -/
def spdm (p need next : Nat) (name : String) (s : State) : State :=
  if (portOf s p).spdmStage ≥ need then
    emit (.spdm p name .ok) (portMod p (fun h => { h with spdmStage := if next > h.spdmStage ∨ next = 1 then next else h.spdmStage }) s)
  else emit (.spdm p "ERROR" .range) s

/-- Whether a session of a port is established. -/
def sessionUp (s : State) (p id : Nat) : Bool := (portOf s p).sessions.contains (id, true)

/-- DOE_DISCOVERY (R458): the DOE discovery, CMA/SPDM and secured CMA/SPDM protocols. -/
def execDoeDiscovery (port : Fin 2) (index : Nat) (s : State) : Result :=
  doe port.val (emit (.spdm port.val "DOE_DISCOVERY" (if index ≤ 2 then .ok else .range))) s

/-- GET_VERSION (R497): it starts the exchange anew. -/
def execGetVersion (port : Fin 2) (s : State) : Result := doe port.val (spdm port.val 0 1 "VERSION") s

/-- GET_CAPABILITIES. -/
def execGetCapabilities (port : Fin 2) (s : State) : Result := doe port.val (spdm port.val 1 2 "CAPABILITIES") s

/-- NEGOTIATE_ALGORITHMS. -/
def execNegotiateAlgorithms (port : Fin 2) (s : State) : Result := doe port.val (spdm port.val 2 3 "ALGORITHMS") s

/-- GET_DIGESTS. -/
def execGetDigests (port : Fin 2) (s : State) : Result := doe port.val (spdm port.val 3 3 "DIGESTS") s

/-- GET_CERTIFICATE (R498): slot 0 holds the hub's chain. -/
def execGetCertificate (port : Fin 2) (slot : Nat) (s : State) : Result :=
  doe port.val (fun s => if slot = 0 then spdm port.val 3 3 "CERTIFICATE" s else emit (.spdm port.val "ERROR" .range) s) s

/-- CHALLENGE. -/
def execChallenge (port : Fin 2) (s : State) : Result := doe port.val (spdm port.val 3 3 "CHALLENGE_AUTH") s

/-- GET_MEASUREMENTS (R498). -/
def execGetMeasurements (port : Fin 2) (s : State) : Result := doe port.val (spdm port.val 3 3 "MEASUREMENTS") s

/-- KEY_EXCHANGE (R497): at most 4 sessions per port. -/
def execKeyExchange (port : Fin 2) (s : State) : Result :=
  doe port.val (fun s =>
    let h := portOf s port.val
    if h.spdmStage < 3 then emit (.spdm port.val "ERROR" .range) s
    else if h.sessions.length ≥ 4 then emit (.spdm port.val "ERROR" .noResource) s
    else emit (.spdm port.val "KEY_EXCHANGE_RSP" .ok) (portMod port.val (fun h => { h with
      sessions := h.sessions ++ [(h.nextSession, false)], nextSession := h.nextSession + 1 }) s)) s

/-- FINISH: a session begun by KEY_EXCHANGE is established. -/
def execFinish (port : Fin 2) (session : Nat) (s : State) : Result :=
  doe port.val (fun s =>
    if (portOf s port.val).sessions.contains (session, false) then
      emit (.spdm port.val "FINISH_RSP" .ok) (portMod port.val (fun h => { h with
        sessions := h.sessions.map (fun x => if x.1 = session then (session, true) else x) }) s)
    else emit (.spdm port.val "ERROR" .range) s) s

/-- A request inside an established session. -/
def inSession (port : Fin 2) (session : Nat) (name : String) (f : HostPort → HostPort) (s : State) : Result :=
  doe port.val (fun s =>
    if sessionUp s port.val session then emit (.spdm port.val name .ok) (portMod port.val f s)
    else emit (.spdm port.val "ERROR" .denied) s) s

/-- KEY_UPDATE: the session's keys change, which nothing shows. -/
def execKeyUpdate (port : Fin 2) (session : Nat) (s : State) : Result := inSession port session "KEY_UPDATE_ACK" (fun h => h) s

/-- HEARTBEAT. -/
def execHeartbeat (port : Fin 2) (session : Nat) (s : State) : Result := inSession port session "HEARTBEAT_ACK" (fun h => h) s

/-- END_SESSION. -/
def execEndSession (port : Fin 2) (session : Nat) (s : State) : Result :=
  inSession port session "END_SESSION_ACK" (fun h => { h with sessions := h.sessions.filter (fun x => x.1 ≠ session) }) s

/-- IDE_KM (R499, R500): a stream is keyed inside a secured session. -/
def execIdeKm (port : Fin 2) (session : Nat) (stream : Fin 8) (s : State) : Result :=
  inSession port session "IDE_KM" (fun h => { h with
    ideKeyed := h.ideKeyed ||| BitVec.ofNat 8 (2 ^ stream.val)
    ideInsecure := h.ideInsecure &&& ~~~(BitVec.ofNat 8 (2 ^ stream.val)) }) s

/-- IDE_CHECK_FAILED (R490, R500): a keyed stream becomes Insecure, and the port's endpoint is reset. -/
def execIdeCheckFailed (port : Fin 2) (stream : Fin 8) (s : State) : Result :=
  let p := port.val
  if portLinked s p && (portOf s p).ideKeyed.getLsbD stream.val then
    finish (portReset p (aerLog p "IDE_CHECK_FAILED" (portMod p (fun h => { h with
      ideInsecure := h.ideInsecure ||| BitVec.ofNat 8 (2 ^ stream.val) }) s)))
  else .next s

/-- What a TENANT_KEY is answered (R531). -/
def tenantKeyStatus (s : State) (p : Nat) (session : Option Nat) (globalId : Nat) (dataKey tweakKey : BitVec 256) : Status :=
  let secured := match session with
    | some id => sessionUp s p id
    | none => false
  let table := (slotOfGlobal s globalId).bind (tableAt s)
  match table with
  | some tb =>
    if !secured || !tb.keyTenant || (mapGetD s.mem.keys tb.keySlot {}).state ≠ .free then .denied
    else if dataKey = tweakKey then .range else .ok
  | none => .denied

/-- TENANT_KEY (R188, R501, R531): a table's key is loaded once, inside a secured session. -/
def execTenantKey (port : Fin 2) (session : Option Nat) (globalId : Nat) (dataKey tweakKey : BitVec 256) (s : State) : Result :=
  doe port.val (fun s =>
    let st := tenantKeyStatus s port.val session globalId dataKey tweakKey
    let s := emit (.spdm port.val "TENANT_KEY" st) s
    if st ≠ .ok then s
    else match slotOfGlobal s globalId with
      | some t => (match tableAt s t with
          | some tb => { s with mem := { s.mem with keys := mapUp s.mem.keys tb.keySlot {} (fun k =>
              { k with state := .loaded, table := t, gen := k.gen + 1, dataKey := dataKey, tweakKey := tweakKey }) } }
          | none => s)
      | none => s) s

end Sys2Proof.Machine
end

