-- ==== Sys2Proof/Machine/LinkPorts.lean ====
section
/-! DEFINITION. The commands of the link ports: training, flits and their retry, end-to-end acknowledgement and replay, and the
Gararn requests of the links (R222 to R258). -/

namespace Sys2Proof.Machine

-- training (R235 to R238) -----------------------------------------------------------------------------------------------

/-- The HELLO this hub sends on a port (R236, R237). -/
def helloOf (s : State) (p : Nat) : HelloBody :=
  { versions := 0x08, time := (lnkPort s p).timeOut, node := s.sys.nodeId, dedicated := 64, shared := 1664 }

/-- A port notes traffic: its class 0x3 draw is asked for while it has none (R231). -/
def linkBusy (lp : Nat) (recovery : Bool) (s : State) : State :=
  anteRequest 3 lp recovery (lnkPortMod lp (fun l => { l with lastBusy := now s }) s)

/-- Whether a port has sent and received HELLO: it may send other flits (R236). -/
def linkTalks (l : LinkPort) : Bool := l.state = .up || (l.state = .negotiate && l.helloSent && l.helloGot)

/-- Sends HELLO on a port: its flit takes no LSEQ and needs no credit (R236), and it asks for the port's draw without waiting for it (DESIGN
CHOICE, notes/assumptions/147). -/
def helloSend (p : Nat) (s : State) : State :=
  emit (.hello p (helloOf s p)) (lnkPortMod p (fun l => { l with helloSent := true, helloAt := now s }) (linkBusy p false s))

/-- The next two credit returns of a port, from the pools it owes (R229); pool 6 is the shared one. -/
def creditReturns (owed : List Nat) : (Nat × Nat) × (Nat × Nat) × List Nat :=
  match owed with
  | [] => ((7, 0), (7, 0), [])
  | a :: _ =>
    let rest := owed.filter (fun x => x ≠ a)
    let n := owed.length - rest.length
    match rest with
    | [] => ((a, n), (7, 0), [])
    | b :: _ =>
      let left := rest.filter (fun x => x ≠ b)
      ((a, n), (b, rest.length - left.length), left)

/-- Adds the link trailer of a port to a flit (R222): the sequence number it uses or will use next, the acknowledgement or the NAK, and
the credit returns. -/
def trailer (lp : Nat) (nak : Bool) (f : Flit) (s : State) : Flit × State :=
  let l := lnkPort s lp
  let r := creditReturns l.owed
  ({ f with lseq := l.nextLseq, ack := (l.expectLseq + 4095) % 4096, nak := nak, ackValid := true, cred0 := r.1,
            cred1 := r.2.1 },
   lnkPortMod lp (fun l => { l with owed := r.2.2 }) s)

/-- The NULL flit of a port (R224). -/
def nullFlit (s : State) (lp : Nat) : Flit :=
  { tenant := 0, vc := 7, slots := 0, dst := (lnkPort s lp).partner, src := s.sys.nodeId, hops := 0, shared := false,
    cont := false, lseq := 0, ack := 0, nak := false, ackValid := true, cred0 := (7, 0), cred1 := (7, 0), crcOk := true, type := 0 }

/-- Sends a NULL flit: it takes no sequence number and no credit. -/
def nullSend (lp : Nat) (s : State) : State :=
  let r := trailer lp false (nullFlit s lp) s
  emit (.flit lp r.1) r.2

/-- Sends a NAK (R232), which a NULL flit carries. -/
def nakSend (lp : Nat) (s : State) : State :=
  let r := trailer lp true (nullFlit s lp) s
  emit (.flit lp r.1) (lnkPortMod lp (fun l => { l with nakOut := true, nakAt := now s }) r.2)

/-- The credit that lets a flit of a VC go: a dedicated one of the VC, else a shared one (R228, R230), with whether it is shared. At most
2,047 flits are kept for retry (R233). -/
def creditFor (l : LinkPort) (vc : Nat) : Option Bool :=
  if l.kept.length ≥ 2047 then none
  else if mapGetD l.credDedicated vc 0 > 0 then some false
  else if l.credShared > 0 then some true
  else none

/-- A flit goes: it takes its credit and an LSEQ, and is kept until acknowledged (R228, R232, R233). -/
def flitGo (lp : Nat) (f : Flit) (shared : Bool) (s : State) : State :=
  let r := trailer lp false { f with shared := shared } s
  let up (l : LinkPort) : LinkPort :=
    { l with
      credShared := if shared then l.credShared - 1 else l.credShared
      credDedicated := if shared then l.credDedicated else mapMod l.credDedicated f.vc (fun n => n - 1)
      nextLseq := (l.nextLseq + 1) % 4096
      kept := l.kept ++ [{ f := r.1, resent := 0 }] }
  emit (.flit lp r.1) (lnkPortMod lp up r.2)

/-- The flit of a management packet for a port's partner (R222, R226). -/
def mgmtFlit (s : State) (lp type : Nat) : Flit := { nullFlit s lp with vc := 5, slots := 2, type := type }

/-- Sends a management packet of one hop, once the port's draw is granted and a credit is held (R230, R231); it says whether it went. -/
def mgmtSend (lp type : Nat) (o : Out) (s : State) : Bool × State :=
  match creditFor (lnkPort s lp) 5 with
  | none => (false, s)
  | some shared =>
    let d := anteTake 3 lp false (linkBusy lp false s)
    if d.1 then (true, flitGo lp (mgmtFlit s lp type) shared (emit o d.2)) else (false, d.2)

-- ECHO (R236, R238) -----------------------------------------------------------------------------------------------------

/-- Sends an ECHO with the next sequence number of 31 bits (R236, R238). -/
def echoSend (p : Nat) (s : State) : State :=
  let n := ((lnkPort s p).echoSeq + 1) % 2 ^ 31
  let r := mgmtSend p 0x52 (.link p "ECHO" n) s
  if r.1 then lnkPortMod p (fun l => { l with echoSeq := n, echoAt := now s }) r.2 else r.2

/-- Sends the first ECHO_REPLY that is due (R238). -/
def echoAnswer (lp : Nat) (s : State) : State :=
  match (lnkPort s lp).echoDue with
  | n :: rest =>
    let r := mgmtSend lp 0x52 (.link lp "ECHO_REPLY" n) s
    if r.1 then lnkPortMod lp (fun l => { l with echoDue := rest }) r.2 else r.2
  | [] => s

/-- LANES_READY (R235): the PHY of a training port reports its lanes, and HELLO goes out; where the partner's has come before, ECHO
follows. -/
def execLanesReady (lp : Fin 16) (s : State) : Result :=
  linkRow (fun s =>
    if (lnkPort s lp.val).state = .training then
      let s := helloSend lp.val (lnkPortMod lp.val (fun l => { l with lanes := true, state := .negotiate }) s)
      if (lnkPort s lp.val).helloGot then echoSend lp.val s else s
    else s) s

/-- HELLO_REPEAT (R235, R238): HELLO is sent each microsecond until the partner's arrives. Afterwards the ECHO that has not gone yet goes. -/
def execHelloRepeat (lp : Fin 16) (s : State) : Result :=
  linkRow (fun s =>
    let l := lnkPort s lp.val
    if l.state ≠ .negotiate then s
    else if !l.helloGot then (if now s ≥ l.helloAt + 1000 then helloSend lp.val s else s)
    else if l.kept.isEmpty && decide (l.nextLseq = 0) then echoSend lp.val s
    else s) s

/-- HELLO (R235 to R237): the partner's versions, node, credits and time flag; a partner without version 3 leaves the port FAILED. A port that
has had its HELLO keeps its credits. -/
def execHello (lp : Fin 16) (b : HelloBody) (s : State) : Result :=
  linkRow (fun s =>
    let l := lnkPort s lp.val
    if l.state = .training ∨ l.state = .negotiate ∨ l.state = .up then
      let s := lnkPortMod lp.val (fun l => { l with
        partnerVersions := b.versions % 256
        timeIn := b.time
        partner := b.node % 4096
        lastGood := now s }) s
      if bitsOf b.versions 3 3 = 0 then
        irqRaise 48 (pllGate (lnkReroute (lnkPortMod lp.val (fun l => { l with state := .failed, cause := .version })
          (linkBuffersLose lp.val s))))
      else if l.helloGot then s
      else
        let grant (l : LinkPort) : LinkPort :=
          { l with helloGot := true, credShared := b.shared, credDedicated := (List.range 6).map (fun v => (v, b.dedicated)) }
        let s := lnkPortMod lp.val grant s
        if l.helloSent then echoSend lp.val s else s
    else s) s

/-- ECHO (R236, R238): answered at the next flit boundary with the same sequence number. -/
def execEcho (lp : Fin 16) (seq : Nat) (s : State) : Result :=
  linkRow (fun s =>
    let l := lnkPort s lp.val
    if linkTalks l then
      echoAnswer lp.val (lnkPortMod lp.val (fun l => { l with lastGood := now s, echoDue := l.echoDue ++ [seq] }) s)
    else s) s

/-- ECHO_REPLY (R236, R238): measures the round trip; the first makes the port UP, and waiting flits may use it (R240). -/
def execEchoReply (lp : Fin 16) (seq : Nat) (s : State) : Result :=
  linkRow (fun s =>
    let l := lnkPort s lp.val
    if l.echoSeq = seq && linkTalks l then
      let s := lnkPortMod lp.val (fun l => { l with rtt := min 65535 (now s - l.echoAt), state := .up, lastGood := now s }) s
      lnkReroute s
    else s) s

/-- ECHO_REPEAT (R238): an UP port measures again each 100 microseconds. -/
def execEchoRepeat (lp : Fin 16) (s : State) : Result :=
  linkRow (fun s =>
    let l := lnkPort s lp.val
    if l.state = .up && decide (now s ≥ l.echoAt + 100000) then echoSend lp.val s else s) s

-- the arbiter and FLIT_TRANSMIT (R67, R223, R224, R230, R231, R241) ------------------------------------------------------

/-- The first waiting flit of each stream of a port: flits of one stream leave in order (R223). -/
def flitHeads : List (Nat × Nat × Nat × Nat × Nat) → List QFlit → List QFlit
  | _, [] => []
  | seen, x :: r =>
    if (x.f.vc, flitKey x) ∈ seen then flitHeads seen r else x :: flitHeads ((x.f.vc, flitKey x) :: seen) r

/-- Whether a flit may enter its VC: none does while the packet of another stream is unfinished there (R223). -/
def vcOpen (l : LinkPort) (x : QFlit) : Bool :=
  match mapGet l.unfinished x.f.vc with
  | some k => x.f.cont && k = flitKey x
  | none => !x.f.cont

/-- The flits of a port that could leave at this flit boundary. -/
def flitsReady (l : LinkPort) : List QFlit :=
  (flitHeads [] l.txQ).filter (fun x => vcOpen l x && (creditFor l x.f.vc).isSome)

/-- The tenant of the table that holds a sixteenth of a port, if it is seated (R67). -/
def shareTenant (s : State) (lp j : Nat) : Option Nat :=
  let b := bindAt s (linkIndex lp j)
  if b.state = .bound then tenantOf s b.table else none

/-- The flit that the arbiter of a port sends next, with whether its credit is a shared one (R67, R241). The port's sixteenths take their turn
flit by flit: a seated one sends its table's flits, known by their TENANT, and an unseated one transit and management first; a sixteenth that is
idle is lent to whatever waits longest (the turns are a DESIGN CHOICE, notes/assumptions/147). -/
def sendable (s : State) (lp : Nat) : Option (QFlit × Bool) :=
  let l := lnkPort s lp
  let ready := flitsReady l
  let own (x : QFlit) : Bool := match shareTenant s lp l.turn with
    | some t => x.from_ = 16 && x.f.tenant = t
    | none => x.from_ ≠ 16 || x.f.vc = 5
  let pick := match ready.find? own with
    | some x => some x
    | none => ready.head?
  pick.bind (fun x => (creditFor l x.f.vc).map (fun sh => (x, sh)))

/-- FLIT_TRANSMIT (R67, R224, R228, R230, R231, R233, R241): an UP port that holds its ante sends a reply that is due, or the flit that its
arbiter picks, and a NULL flit when it has none to send. The draw is RECOVERY when the port has only replays to send. -/
def execFlitTransmit (lp : Fin 16) (s : State) : Result :=
  linkRow (fun s =>
    let l := lnkPort s lp.val
    if !linkTalks l then s
    else if !l.echoDue.isEmpty && (creditFor l 5).isSome then echoAnswer lp.val s
    else if l.state ≠ .up then nullSend lp.val s
    else
      match sendable s lp.val with
      | none => nullSend lp.val s
      | some (x, shared) =>
        let recovery := l.txQ.all (fun y => y.replay)
        if !anteHas s 3 lp.val then linkBusy lp.val recovery s
        else
          let up (l : LinkPort) : LinkPort :=
            { l with
              txQ := l.txQ.erase x
              turn := (l.turn + 1) % 16
              unfinished := if x.more then mapPut l.unfinished x.f.vc (flitKey x) else mapDel l.unfinished x.f.vc }
          flitGo lp.val x.f shared (flitLeft x (lnkPortMod lp.val up (linkBusy lp.val recovery s)))) s

-- receiving flits (R229, R232 to R234, R241, R242) -----------------------------------------------------------------------

/-- Adds returned credits to the pool they name (R229). -/
def creditTake (c : Nat × Nat) (l : LinkPort) : LinkPort :=
  if c.1 = 6 then { l with credShared := min 1664 (l.credShared + c.2) }
  else if c.1 ≤ 5 then { l with credDedicated := mapUp l.credDedicated c.1 0 (fun n => min 64 (n + c.2)) }
  else l

/-- Whether a kept flit is covered by an acknowledgement, modulo 4,096. -/
def lseqCovered (ack lseq : Nat) : Bool := (ack + 4096 - lseq) % 4096 < 2048

/-- Takes the acknowledgement of a flit (R233, R234): covered flits are let go; on NAK every kept flit is sent again, and one
that has been resent 16 times takes the port down. -/
def ackTake (lp : Nat) (f : Flit) (s : State) : State :=
  if !f.ackValid then s
  else
    let s := lnkPortMod lp (fun l => { l with kept := l.kept.filter (fun k => !lseqCovered f.ack k.f.lseq) }) s
    if f.nak then
      let ks := (lnkPort s lp).kept
      if ks.any (fun k => k.resent ≥ 16) then linkDown lp .retry s
      else
        let s := lnkPortMod lp (fun l => { l with
          kept := l.kept.map (fun k => { k with resent := k.resent + 1 })
          resent := sat32 (l.resent + ks.length) }) s
        ks.foldl (fun s k => emit (.flit lp k.f) s) s
    else s

/-- The slots of the packets that begin in a flit, with their headers (R225). -/
def packetSlots (ps : List Packet) : Nat := (ps.map (fun p => 2 + (p.len + 15) / 16)).sum

/-- Whether a flit holds a packet of a type that is not listed (R226). -/
def flitUnlisted (f : Flit) (ps : List Packet) : Bool := !typeListed f.type || ps.any (fun p => !typeListed p.type)

/-- Whether the packets of a flit travel one hop only: HELLO, TIME and ECHO (R226). -/
def oneHop (f : Flit) : Bool := f.vc = 5 && 0x50 ≤ f.type && f.type ≤ 0x52

/-- Where an accepted flit goes: on to another node with HOPS raised, when it waits in the receive buffer for its output port (R241); into this
hub, which returns its credit at once (R229); or nowhere (R242). -/
def flitRoute (lp : Nat) (f : Flit) (packets : List Packet) (s : State) : State :=
  let pool := if f.shared then 6 else f.vc
  let left := (if f.cont then mapGetD (lnkPort s lp).rxLeft f.vc 0 else 0) + packetSlots packets - f.slots
  let s := lnkPortMod lp (fun l => { l with rxLeft := mapPut l.rxLeft f.vc left, rxUsed := l.rxUsed + 1 }) s
  let x : QFlit := { f := { f with hops := f.hops + 1 }, since := now s, from_ := lp, more := decide (left > 0), pool := some pool }
  let badTenant := (f.tenant = 0) ≠ (f.vc = 5)
  if f.vc = 6 ∨ badTenant then flitDrop x s
  else if f.dst ≠ s.sys.nodeId ∧ !oneHop f then
    (if f.hops ≥ 15 ∨ flitUnlisted f packets then flitDrop x s else flitQueue x s)
  else (packets.filter (fun p => !typeListed p.type)).foldl (fun s _ => lnkDrop s) (flitLeft x s)

/-- A flit is discarded until the expected one arrives; the first is answered with a NAK (R232). -/
def flitRefuse (lp : Nat) (s : State) : State := if (lnkPort s lp).nakOut then s else nakSend lp s

/-- FLIT_RECEIVE (R231, R232): a flit counts when its CRC checks; its ACK, NAK and credits are applied; a sequenced flit is accepted when its
LSEQ is the next expected, and any other starts a NAK. The packets for this hub follow as commands of their own. -/
def execFlitReceive (lp : Fin 16) (f : Flit) (packets : List Packet) (s : State) : Result :=
  linkRow (fun s =>
    let l := lnkPort s lp.val
    if linkTalks l then
      if !f.crcOk then flitRefuse lp.val (lnkPortMod lp.val (fun l => { l with crcErr := sat32 (l.crcErr + 1) }) s)
      else
        let s := lnkPortMod lp.val (fun l => { l with lastGood := now s }) s
        let s := lnkPortMod lp.val (fun l => creditTake f.cred1 (creditTake f.cred0 l)) s
        let s := ackTake lp.val f s
        if !linkTalks (lnkPort s lp.val) then s
        else if f.vc = 7 then s
        else if f.lseq = l.expectLseq then
          let s := lnkPortMod lp.val (fun l => { l with expectLseq := (l.expectLseq + 1) % 4096, nakOut := false }) s
          flitRoute lp.val f packets (linkBusy lp.val (!packets.isEmpty && packets.all (fun p => p.replay)) s)
        else flitRefuse lp.val s
    else s) s

/-- NAK_REPEAT (R232): each 100 ticks until the expected flit arrives. -/
def execNakRepeat (lp : Fin 16) (s : State) : Result :=
  linkRow (fun s =>
    let l := lnkPort s lp.val
    if linkTalks l && l.nakOut && decide (now s ≥ l.nakAt + 100) then nakSend lp.val s else s) s

/-- The waiting flits that stay in a queue, and those that go because they, or the flits of their packet before them, have waited too long. -/
def splitOld (t : Tick) : List (Nat × Nat × Nat × Nat × Nat) → List QFlit → List QFlit × List QFlit
  | _, [] => ([], [])
  | m, x :: r =>
    let k := (x.f.vc, flitKey x)
    if decide (x.since + 50000000 ≤ t) || (x.f.cont && m.contains k) then
      let y := splitOld t (if x.more then k :: m else m.filter (fun z => z ≠ k)) r
      (y.1, x :: y.2)
    else
      let y := splitOld t m r
      (x :: y.1, y.2)

/-- FLIT_QUEUE_TIMEOUT (R242): flits that have waited 50 ms in one queue are dropped and counted, with the rest of their packets. -/
def execFlitQueueTimeout (lp : Fin 16) (s : State) : Result :=
  linkRow (fun s =>
    let q := splitOld (now s) [] (lnkPort s lp.val).txQ
    let s := lnkPortMod lp.val (fun l => { l with
      txQ := q.1
      unfinished := l.unfinished.filter (fun y => !q.2.any (fun x => x.f.cont && x.f.vc = y.1 && flitKey x = y.2)) }) s
    q.2.foldl (fun s x => flitDrop x s) s) s

/-- LINK_ANTE_IDLE (R231): 1,000 ticks without a flit other than NULL to send or receive release the port's draw. -/
def execLinkAnteIdle (lp : Fin 16) (s : State) : Result :=
  linkRow (fun s =>
    let l := lnkPort s lp.val
    let sends := lnkUp s lp.val && !(l.txQ.isEmpty && l.echoDue.isEmpty)
    if now s ≥ l.lastBusy + 1000 ∧ !sends then anteDrop 3 lp.val s else s) s

/-- LINK_SILENCE (R256): no good flit for 1 microsecond. -/
def execLinkSilence (lp : Fin 16) (s : State) : Result :=
  linkRow (fun s =>
    if lnkUp s lp.val && decide (now s ≥ (lnkPort s lp.val).lastGood + 1000) then linkDown lp.val .silence s else s) s

/-- PHY_LANE_LOSS (R256). -/
def execPhyLaneLoss (lp : Fin 16) (s : State) : Result :=
  linkRow (linkDown lp.val .phy) s

/-- Whether a port's PLL runs. -/
def linkPllOk (s : State) (lp : Nat) : Bool :=
  !s.sys.pllFailed.getLsbD (4 + lp / 4) && !s.sys.pllOut.getLsbD (4 + lp / 4)

/-- Starts training a port (R235). -/
def linkTrain (lp : Nat) (s : State) : State :=
  lnkPortMod lp (fun l => { l with state := .training, downAt := now s }) (linkBuffersLose lp s)

/-- LINK_RETRAIN_TIMER (R257): a port that is down, or whose training has not ended, trains again after 1 ms; a disabled or
FAILED port does not. -/
def execLinkRetrainTimer (lp : Fin 16) (s : State) : Result :=
  linkRow (fun s =>
    let l := lnkPort s lp.val
    let due := decide (now s ≥ l.downAt + 1000000)
    if due && linkPllOk s lp.val && l.state ≠ .up && l.state ≠ .failed && l.cause ≠ .disabled then linkTrain lp.val s else s) s

-- end-to-end (R243 to R249) ---------------------------------------------------------------------------------------------

/-- E2E_ACK (R243, R248): releases every packet at or below the value acknowledged, and packets that waited for room go. -/
def execE2eAck (src eseq : Nat) (s : State) : Result :=
  linkRow (fun s =>
    pairNext src (skipDropped src { s with lnk := { s.lnk with tx := mapMod s.lnk.tx src (fun x =>
        { x with
          kept := x.kept.filter (fun k => !seqLe k.eseq eseq)
          skipTo := match x.skipTo with
            | some t => if seqLe t eseq then none else some t
            | none => none }) } })) s

/-- E2E_ACK_TIMER (R244): 1 microsecond after the first unacknowledged packet of a pair. -/
def execE2eAckTimer (src : Nat) (s : State) : Result :=
  linkRow (fun s =>
    let x := rxOf s src
    if x.unacked > 0 ∧ now s ≥ x.firstUnacked + 1000 then ackSend src s else s) s

/-- E2E_REPLAY_TIMEOUT (R247, R248): packets whose interval has passed are sent again with REPLAY set, each time with the
interval doubled up to 1 ms; an E2E_SKIP that is not covered yet is repeated. -/
def execE2eReplayTimeout (dst : Nat) (s : State) : Result :=
  linkRow (fun s =>
    match mapGet s.lnk.tx dst with
    | none => s
    | some x =>
      let due := x.kept.filter (fun k => k.last + k.wait ≤ now s && !k.dropped)
      let up (k : KeptPacket) : KeptPacket :=
        if k.last + k.wait ≤ now s then { k with last := now s, wait := min 1000000 (2 * k.wait) } else k
      let s := { s with lnk := { s.lnk with tx := mapPut s.lnk.tx dst { x with kept := x.kept.map up } } }
      let s := due.foldl (fun s k => packetOut dst { k.p with replay := true } s) s
      match x.skipTo with
      | some t => skipSend dst t s
      | none => s) s

/-- E2E_SKIP (R249): the skipped values count as received; held signals that wait on one of them are dropped. -/
def execE2eSkip (src eseq : Nat) (s : State) : Result :=
  linkRow (fun s =>
    rxMod src (fun x =>
      let n := (eseq + 1 + 2 ^ 32 - x.low) % 2 ^ 32
      if n ≥ 2 ^ 31 then x
      else
        let missing := ((List.range (min n 8192)).map (fun i => (x.low + i) % 2 ^ 32)).filter (fun e => !x.above.contains e)
        let y := rxSlide 8192 { x with above := missing ++ x.above }
        { y with heldSig := y.heldSig.filter (fun h => !missing.any (fun m => seqLe m h.2.eseq)) }) s) s

-- Gararn requests of the links (R526) -----------------------------------------------------------------------------------

/-- ROUTE_SET (R239, R526). -/
def effRouteSet (first : Nat) (es : List RouteEntry) (s : State) : Outcome :=
  if es.isEmpty ∨ es.length > 256 ∨ first + es.length > 4096 then done .range s
  else
    let put (acc : FMap RouteEntry × Nat) (e : RouteEntry) : FMap RouteEntry × Nat := (mapPutD {} acc.1 acc.2 e, acc.2 + 1)
    done .ok (lnkReroute { s with lnk := { s.lnk with routes := (es.foldl put (s.lnk.routes, first)).1 } })

/-- DISABLE of LINK_CTL: the port goes down with cause DISABLED and stays down (R256). -/
def effLinkDisable (port : Nat) (s : State) : Outcome :=
  if port ≥ 16 then done .range s
  else done .ok (pllGate (lnkPortMod port (fun l => { l with state := .down, cause := .disabled }) (linkDown port .disabled s)))

/-- ENABLE of LINK_CTL: the port trains, and its next HELLO carries the TIME flag given (R235, R526). A port already UP or
training keeps its state. -/
def effLinkEnable (port : Nat) (time : Bool) (s : State) : Outcome :=
  if port ≥ 16 then done .range s
  else
    let l := lnkPort s port
    let s := lnkPortMod port (fun l => { l with timeOut := time, cause := if l.cause = .disabled then .none else l.cause }) s
    if (l.state = .down ∨ l.state = .failed) ∧ linkPllOk s port then done .ok (pllGate (linkTrain port s))
    else done .ok s

/-- RETRAIN of LINK_CTL: DISABLE followed by ENABLE (R526). -/
def effLinkRetrain (port : Nat) (time : Bool) (s : State) : Outcome :=
  if port ≥ 16 then done .range s else effLinkEnable port time (effLinkDisable port s).s

/-- E2E_CFG (R526). -/
def effE2eCfg (timeout giveup : Nat) (s : State) : Outcome :=
  if timeout = 0 ∨ timeout > 255 ∨ giveup = 0 ∨ giveup > 500 then done .range s
  else done .ok { s with lnk := { s.lnk with timeout := timeout, giveup := giveup } }

/-- ROUTE_SET. -/
def execRouteSet (c : Caller) (first : Nat) (entries : List RouteEntry) (s : State) : Result :=
  gararn 0x400 .o c (effRouteSet first entries) s

/-- LINK_CTL with ACTION DISABLE. -/
def execLinkDisable (c : Caller) (port : Nat) (_timeFlag : Bool) (s : State) : Result :=
  gararn 0x401 .o c (effLinkDisable port) s

/-- LINK_CTL with ACTION ENABLE. -/
def execLinkEnable (c : Caller) (port : Nat) (timeFlag : Bool) (s : State) : Result :=
  gararn 0x401 .o c (effLinkEnable port timeFlag) s

/-- LINK_CTL with ACTION RETRAIN. -/
def execLinkRetrain (c : Caller) (port : Nat) (timeFlag : Bool) (s : State) : Result :=
  gararn 0x401 .o c (effLinkRetrain port timeFlag) s

/-- E2E_CFG. -/
def execE2eCfg (c : Caller) (timeout giveup : Nat) (s : State) : Result :=
  gararn 0x402 .o c (effE2eCfg timeout giveup) s

end Sys2Proof.Machine
end

