-- ==== Sys2Proof/Machine/Remote.lean ====
section
/-! DEFINITION. What arrives over the links for memory and for seats: reads, atomics and writes of another hub (R226 to R252), their
answers, held signals, transactions that are lost, and the answers of other hubs' firmware (R79, R521). -/

namespace Sys2Proof.Machine

-- requests of another hub (R226, R227, R250) ----------------------------------------------------------------------------

/-- The parts of a request packet, each within one codeblock: its offset in the packet, its length, and the location that the packet
names for it (R183, R227). -/
def packetParts (s : State) (p : Packet) (n : Nat) : List (Nat × Nat × Loc) :=
  if p.fwd then
    let l := packetLoc s p
    (partsOf l.local_ n).map (fun x => (x.1 - l.local_, x.2, { stack := l.stack, slab := x.1 / 2 ^ 30, off := x.1 % 2 ^ 30 }))
  else (partsOf p.addr n).map (fun x => (x.1 - p.addr, x.2, locate s x.1))

/-- The bytes of memory that a request packet covers. -/
def packetSpan (p : Packet) : Nat :=
  if p.type = 0x01 then p.len else if p.type = 0x02 then atomSpan p.atom p.payload.length else p.payload.length

/-- The check of all slabs that a request packet names (R250). -/
def packetCheck (s : State) (p : Packet) : SlabCheck :=
  if !packetHere s p then .refused .fault
  else if p.type ≠ 0x01 && (packetParts s p (packetSpan p)).any (fun x => granuleHeld s x.2.2) then .waits
  else (packetParts s p (packetSpan p)).foldl (fun c x =>
    match c, slabCheck s p.tenant x.2.2.stack x.2.2.slab with
    | .refused a, .refused b => .refused (worse a b)
    | .refused a, _ => .refused a
    | _, .refused b => .refused b
    | .waits, _ => .waits
    | _, .waits => .waits
    | _, .table t => .table t) (slabCheck s p.tenant (packetLoc s p).stack (packetLoc s p).slab)

/-- The answer of a memory request (R226). -/
def memReply (p : Packet) (st : Status) (bs : List Byte) (s : State) : State :=
  packetReply p (if p.type = 0x10 then 0x20 else 0x11) st bs s

/-- A memory request has been done: its signal is applied after the write has committed, and its answer is sent (R347). -/
def packetDone (lp : Nat) (p : Packet) (st : Status) (bs : List Byte) (s : State) : State :=
  if p.type = 0x10 && p.hasSig && st = .ok then
    let r := linkSignal lp p p.sig p.sigCounter s
    memReply p r.1.1 [] r.2
  else memReply p st bs s

/-- A write within one codeblock of a stack of this hub; a failed stack answers POISONED (R182). -/
def partWrite (key : Nat) (l : Loc) (bs : List Byte) (s : State) : Status × State :=
  if stackWorks s l.stack then (.ok, writeCb l.stack key l.local_ bs s) else (.poisoned, s)

/-- Poisons a codeblock whose copy comes poisoned (R92). -/
def partPoison (l : Loc) (s : State) : State :=
  let cb := l.local_ / 1024
  cacheDrop l.stack cb (poisonPut l.stack cb true (mergeDel l.stack cb s))

/-- What a packet's write leaves in the lines that caches hold (R379); the home of a forwarded request's line is another hub. -/
def partLoosen (key : Nat) (p : Packet) (off len : Nat) (s : State) : State :=
  if p.fwd then s else linesLoosen key (p.addr + off) len s

/-- A read within one codeblock of a stack of this hub. -/
def partRead (s : State) (key : Nat) (l : Loc) (n : Nat) : Status × List Byte :=
  if stackWorks s l.stack then readCb s l.stack key l.local_ n else (.poisoned, List.replicate n 0)

/-- An atomic row at a location of this hub (R203): the status and the old bytes. -/
def locAtomic (key : Nat) (l : Loc) (p : Packet) (s : State) : (Status × List Byte) × State :=
  let old := locRead s key l (atomSpan p.atom p.payload.length)
  if old.1 = .ok then
    (old, partLoosen key p 0 (atomSpan p.atom p.payload.length) (locWrite key l (atomApply p.atom old.2 p.payload) s))
  else (old, s)

/-- Forwards a part of a request to the hub that its slab has moved to (R91, R227). -/
def relaySend (id : Nat) (p : Packet) (off len node addr : Nat) (bs : List Byte) (s : State) : State :=
  let o := txnOpen node (.relay id off) s
  packetSend node { src := 0, tenant := p.tenant, type := p.type, fwd := true, rerun := p.rerun, relaxed := p.relaxed, atom := p.atom,
                    addr := addr, tag := o.1, len := len, payload := bs, poison := p.poison && len = 1024 } o.2

/-- Changes a forwarded request. -/
def relayMod (id : Nat) (f : Relay → Relay) (s : State) : State :=
  { s with lnk := { s.lnk with relays := s.lnk.relays.map (fun r => if r.id = id then f r else r) } }

/-- Ends a forwarded request when none of its parts is unanswered. -/
def relayEnd (id : Nat) (s : State) : State :=
  match s.lnk.relays.find? (fun r => r.id = id) with
  | some r =>
    if r.left = 0 then
      packetDone r.lp r.p r.st r.data { s with lnk := { s.lnk with relays := s.lnk.relays.filter (fun x => x.id ≠ id) } }
    else s
  | none => s

/-- One part of a request that has passed its check: done here, or forwarded. -/
def partGo (id key : Nat) (p : Packet) (x : Nat × Nat × Loc) (s : State) : State :=
  let l := settleLoc s 4 x.2.2
  let bs := (p.payload.drop x.1).take x.2.1
  match remoteOf s l with
  | some (n, a) =>
    relaySend id p x.1 x.2.1 n a (if p.type = 0x01 then [] else bs) (relayMod id (fun r => { r with left := r.left + 1 }) s)
  | none =>
    if p.type = 0x01 then
      let r := partRead s key l x.2.1
      relayMod id (fun y => { y with st := worse y.st r.1, data := splice y.data x.1 r.2 }) s
    else if p.fwd && p.poison && x.2.1 = 1024 then partPoison l s
    else
      let r := partWrite key l bs s
      relayMod id (fun y => { y with st := worse y.st r.1 }) (partLoosen key p x.1 x.2.1 r.2)

/-- Acts on a memory request that has passed its check for a table. -/
def packetGo (lp : Nat) (p : Packet) (t : Nat) (s : State) : State :=
  let key := tableKey s t
  let id := s.lnk.nextRelay
  let r : Relay := { id := id, lp := lp, p := p, left := 0, st := .ok, data := List.replicate (if p.type = 0x01 then p.len else 0) 0 }
  let s := { s with lnk := { s.lnk with relays := s.lnk.relays ++ [r], nextRelay := (id + 1) % 2 ^ 32 } }
  if p.type = 0x02 then
    let l := settleLoc s 4 (packetLoc s p)
    match remoteOf s l with
    | some (n, a) => relaySend id p 0 p.payload.length n a p.payload (relayMod id (fun r => { r with left := 1 }) s)
    | none =>
      let r := if atomBad p.atom p.payload.length then ((Status.range, []), s) else locAtomic key l p s
      relayEnd id (relayMod id (fun y => { y with st := r.1.1, data := r.1.2 }) r.2)
  else relayEnd id ((packetParts s p (packetSpan p)).foldl (fun s x => partGo id key p x s) s)

/-- The channel blocks of this hub that a request packet needs: those of its parts that have not moved to another hub (R27, R38). -/
def packetBlocks (s : State) (p : Packet) : List Nat :=
  let ls := (packetParts s p (packetSpan p)).map (fun x => settleLoc s 4 x.2.2)
  ((ls.filter (fun l => (remoteOf s l).isNone && stackWorks s l.stack)).map (fun l => l.stack)).eraseDups

/-- Checks a memory request and acts on it (R250): it waits while its slab is ARMED or SUSPENDED for a table of its tenant, and a write
or atomic while its granule is being copied (R91); then it waits for its channel blocks (R27, R38). -/
def packetRun (lp : Nat) (p : Packet) (s : State) : State :=
  match packetCheck s p with
  | .refused st => memReply p st [] (if st = .denied then lnkDenied lp p s else s)
  | .waits => { s with lnk := { s.lnk with slabWait := s.lnk.slabWait ++ [(lp, p)] } }
  | .table t =>
    match blocksTake (packetBlocks s p) s with
    | (some _, s) => { s with lnk := { s.lnk with slabWait := s.lnk.slabWait ++ [(lp, p)] } }
    | (none, s) => packetGo lp p t s

/-- Checks again every request that waits for its slab. -/
def packetsRecheck (s : State) : State :=
  s.lnk.slabWait.foldl (fun s w => packetRun w.1 w.2 s) { s with lnk := { s.lnk with slabWait := [] } }

/-- A memory request arrives (R245, R246). -/
def memArrive (lp : Fin 16) (p : Packet) (s : State) : Result :=
  live s (fun s => match rxAccept lp.val p s with
    | (.fresh, s) => packetRun lp.val p s
    | (_, s) => s)

/-- RD (R226, R250, R252). -/
def execRd (lp : Fin 16) (p : Packet) (s : State) : Result := memArrive lp { p with type := 0x01, hasSig := false } s

/-- ATOMIC (R226, R250). -/
def execAtomic (lp : Fin 16) (p : Packet) (s : State) : Result := memArrive lp { p with type := 0x02, hasSig := false } s

/-- WR (R226, R250, R347). -/
def execWr (lp : Fin 16) (p : Packet) (s : State) : Result := memArrive lp { p with type := 0x10 } s

/-- SIG_APPLY_HELD (R246, R347): the first held signal of a pair behind which nothing is left to apply. -/
def execSigApplyHeld (src : Nat) (s : State) : Result :=
  live s (fun s =>
    match (rxOf s src).heldSig.find? (fun h => !sigWaits s src h.2.eseq) with
    | none => s
    | some h =>
      let s := rxMod src (fun x => { x with heldSig := x.heldSig.filter (fun y => y ≠ h) }) s
      if h.2.type = 0x10 then packetRun h.1 h.2 s else sigApply h.1 h.2 s)

-- copying a granule to another hub (R91, R92) --------------------------------------------------------------------------

/-- Checks again everything that waits for a binding or a granule. -/
def waitersRecheck (s : State) : State := cohSettle (packetsRecheck (tilesRecheck s))

/-- A channel block serves again, with its draw granted and its domain clocked (R27, R38, R45): its queue, and the walks, tiles, packets and
coherent requests that wait. The draw returns when nothing waits for the block any more. -/
def blockGo (k : Nat) (s : State) : State :=
  let s := blockDrain k s
  let ws := (s.trn.walks.filter (fun w => w.2.wants = some k)).map (fun w => w.1)
  blocksIdle (waitersRecheck (ws.foldl (fun s w => walkRead w s) s))

/-- A host port is active again: what waits for it goes on, and its draw returns. -/
def portGo (p : Nat) (s : State) : State :=
  let s := tilesRecheck (hostDrain p s)
  if (portOf s p).drawn then portMod p (fun h => { h with drawn := false }) (anteFreeDraw 4 p s) else s

/-- Changes the move of an old slab. -/
def aliasMod (old : Nat) (f : ChannelMove → ChannelMove) (s : State) : State :=
  { s with bnd := { s.bnd with moves := s.bnd.moves.map (fun m => if m.old = old then f m else m) } }

/-- The move of an old slab. -/
def aliasMove (s : State) (old : Nat) : Option ChannelMove := s.bnd.moves.find? (fun m => m.old = old)

/-- A granule has been copied (R91, R95): held requests are released; after the last one the old binding is ALIASED, and the table's
migration event says so (R456). -/
def granuleDone (old : Nat) (s : State) : State :=
  match aliasMove s old with
  | none => s
  | some m =>
    let n := m.granules + 1
    let m' : ChannelMove := { m with granules := n, hold := false, left := 0, sent := [], again := false, done := n ≥ 16384,
                                     running := decide (n < 16384) }
    let s := copyFree (moveInst old) (aliasMod old (fun _ => m') s)
    let s := if m'.done then
        let s := bindPut old { bindAt s old with state := .aliased } s
        (match tableAt s m.table with
         | some tb =>
           let x : EventEntry := { type := 5, status := .ok, source := tableHandle s m.table, cookie := 0, detail := old, time := now s }
           if tb.migEvent ≠ 0 then eventWrite tb.migEvent x s else s
         | none => s)
      else s
    waitersRecheck s

/-- The location of a codeblock of a granule of a slab's binding. -/
def granuleLoc (binding g i : Nat) : Loc := { stack := (binding - 120) / 48, slab := (binding - 120) % 48, off := g * 65536 + 1024 * i }

/-- The bytes of a granule under a table's key; a poisoned codeblock's as they are stored. -/
def granuleBytes (s : State) (key old g : Nat) : List Byte :=
  ((List.range 64).map (fun i => (partRead s key (granuleLoc old g i) 1024).2)).flatten

/-- Sends the codeblocks of a granule to the hub of the new slab (R227). A codeblock that is poisoned travels with that mark (R92). -/
def granuleSend (m : ChannelMove) (s : State) : State :=
  let key := tableKey s m.table
  let bytes := granuleBytes s key m.old m.granules
  let s := aliasMod m.old (fun x => { x with left := 64, sent := bytes, again := false }) s
  (List.range 64).foldl (fun s i =>
    let l := granuleLoc m.new m.granules i
    let o := txnOpen m.node (.granule m.old) s
    packetSend m.node { src := 0, tenant := (tenantOf s m.table).getD 0, type := 0x10, fwd := true,
                        poison := (partRead s key (granuleLoc m.old m.granules i) 1024).1 = .poisoned,
                        addr := fwdAddr m.node l.stack l.slab l.off, tag := o.1, len := 1024,
                        payload := (bytes.drop (1024 * i)).take 1024 } o.2) s

/-- A write of a granule's copy is answered: after the last, the granule is copied, or sent again when a write failed or the granule's
bytes have changed meanwhile. -/
def granuleAnswered (old : Nat) (st : Status) (s : State) : State :=
  let s := aliasMod old (fun x => { x with left := x.left - 1, again := x.again || st ≠ .ok }) s
  match aliasMove s old with
  | none => s
  | some m =>
    if m.left ≠ 0 ∨ !m.hold then s
    else if m.again ∨ granuleBytes s (tableKey s m.table) old m.granules ≠ m.sent then granuleSend m s
    else granuleDone old s

-- answers (R252) --------------------------------------------------------------------------------------------------------

/-- The answer of a transaction comes: it ends what it served. -/
def txnAnswered (t : Txn) (st : Status) (bs : List Byte) (s : State) : State :=
  let s := txnClose t.tag s
  match t.what with
  | .piece src tag idx off => pieceAnswer src tag idx off st (if st = .ok then bs else []) s
  | .subcmd own => subAnswer own st s
  | .partialOf id => partialAnswered id st s
  | .granule old => granuleAnswered old st s
  | .walk w => walkArrive w t.tag st bs s
  | .fetch h => fetchArrive h (if st = .ok then .bytes bs else .poisoned) s
  | .relay id off =>
    relayEnd id (relayMod id (fun r => { r with
      left := r.left - 1
      st := worse r.st st
      data := if st ≠ .ok ∨ bs.isEmpty then r.data else if r.p.type = 0x01 then splice r.data off bs else bs }) s)
  | _ => s

/-- An answer packet arrives; one whose tag is retired, or whose transaction went to another node, ends nothing. -/
def answerArrive (p : Packet) (s : State) : Result :=
  live s (fun s => match rxAccept 0 p s with
    | (.fresh, s) =>
      (match txnOf s p.tag with
       | some t => if t.dst = p.src then txnAnswered t p.status p.payload s else s
       | none => s)
    | (_, s) => s)

/-- RD_DATA (R226, R252). -/
def execRdData (p : Packet) (s : State) : Result := answerArrive { p with type := 0x11, hasSig := false } s

/-- CMPL (R226, R252). -/
def execCmpl (p : Packet) (s : State) : Result := answerArrive { p with type := 0x20, hasSig := false, payload := [] } s

-- transactions that are lost (R248) -------------------------------------------------------------------------------------

/-- Ends a command LOST with its context (R448). -/
def cmdLost (r : CmdRef) (s : State) : State := cmdEndWith r .lost s

/-- A transaction that fails LOST (R248): what it served ends LOST, and the command for which it worked loses its context (R448). -/
def txnLose (t : Txn) (s : State) : State :=
  let close (s : State) : State := txnClose t.tag s
  match t.what with
  | .signal (some r) _ => cmdLost r (signalFailed r .lost (close s))
  | .signal none (some (cl, co, tag)) => emit (.cfResponse cl co tag .lost 0) (close s)
  | .launch r => cmdLost r (close s)
  | .subcmd tag => (match staleOf s tag with
      | some x => (match x.cmd with
          | some r => cmdLost r (staleDel tag (close s))
          | none => staleDel tag (close s))
      | none => close s)
  | .piece src _ _ _ =>
    let r := sourceCmd s src
    let s := txnAnswered t .lost [] s
    (match r with
     | some r => cmdLost r s
     | none => s)
  | _ => txnAnswered t .lost [] s

/-- E2E_GIVEUP (R248): the packet and every lower unacknowledged one of its pair are given up; their transactions end LOST, and
E2E_SKIP is sent. -/
def execE2eGiveup (dst eseq : Nat) (s : State) : Result :=
  linkRow (fun s =>
    match mapGet s.lnk.tx dst with
    | none => s
    | some x =>
      let due := x.kept.any (fun k => k.eseq = eseq && decide (k.first + s.lnk.giveup * 1000000 ≤ now s))
      if due then
        let gone := x.kept.filter (fun k => seqLe k.eseq eseq)
        let x' : TxPair :=
          { x with
            kept := x.kept.filter (fun k => !seqLe k.eseq eseq)
            skipTo := some eseq
            skipTenant := ((gone.getLast?).map (fun k => k.p.tenant)).getD 0 }
        let s := { s with lnk := { s.lnk with tx := mapPut s.lnk.tx dst x' } }
        let s := gone.foldl (fun s k => match txnOf s k.p.tag with
          | some t => if t.dst = dst ∧ typeAsks k.p.type then txnLose t s else s
          | none => s) s
        pairNext dst (skipSend dst eseq s)
      else s) s

-- firmware between hubs (R79, R521, R524) -------------------------------------------------------------------------------

/-- The answer of another hub to a request that this hub passed on for a mailbox: it is the mailbox's answer. A pre-emption or a
resumption is answered when every member has answered. -/
def ctrlAnswer (src globalId code seat : Nat) (st : Status) (detail : Nat) (s : State) : State :=
  let fits (a : CtrlAsk) : Bool :=
    a.dst = src && a.globalId = globalId && (a.code = code || (code = 0x808 && (a.code = 0x703 || a.code = 0x704)))
      && (code = 0x80A || a.seat = seat)
  match s.bnd.asked.find? fits with
  | none => s
  | some a =>
    let s := { s with bnd := { s.bnd with asked := s.bnd.asked.erase a } }
    if a.code = 0x703 ∨ a.code = 0x704 then
      (if s.bnd.asked.any (fun b => b.code = a.code && b.mbx = a.mbx) then s else answer a.mbx.val { st := .ok } s)
    else answer a.mbx.val { st := st, detail := detail } s

/-- Writes a directory entry into this hub's copy (R71, R79). -/
def seatPut (t seat : Nat) (e : SeatEntry) (s : State) : State :=
  tableMod t (fun tb => { tb with dir := mapPut tb.dir seat e }) s

/-- An answer of the lead hub is due at this hub for a seat: a message of its own has asked, or the entries that follow a JOIN are still
coming (R71). -/
def entryDue (s : State) (t seat : Nat) (tb : Table) : Bool :=
  tb.lead ≠ s.sys.nodeId && (s.bnd.stale.any (fun x => x.table = t && x.seat = seat && x.resolving) || decide (tb.dirDue > 0))

/-- A RESOLVE at the lead hub (R71, R79). -/
def resolveTake (node globalId seat : Nat) : State → State :=
  fromMember node globalId (fun t s =>
    match tableAt s t with
    | some tb => if tb.lead = s.sys.nodeId then ctrlOut node (.seatEntry node globalId seat (dirEntry s t seat)) s else s
    | none => s)

/-- RESOLVE (R71, R79, R507, R521): the lead hub answers with its entry; an answer that is due goes into the asking hub's copy, and the messages
that asked are sent again. -/
def execResolve (m : ResolveMsg) (s : State) : Result :=
  ctrlArrive m.src (match m with
    | .ask src globalId seat => ctrlCore (.resolve src.node globalId seat.seat) (resolveTake src.node globalId seat.seat)
    | .answer src globalId seat e => fromMember src.node globalId (fun t s =>
        match tableAt s t with
        | some tb =>
          if src.node = tb.lead && entryDue s t seat tb then
            let mine := s.bnd.stale.filter (fun x => x.table = t && x.seat = seat && x.resolving)
            let s := seatPut t seat e s
            if mine.isEmpty then tableMod t (fun x => { x with dirDue := x.dirDue - 1 }) s
            else mine.foldl (fun s x => resolvedFor x.tag e s) s
          else s
        | none => s)) s

end Sys2Proof.Machine
end

