-- ==== Sys2Proof/Machine/Reseat.lean ====
section
/-! DEFINITION. Reseating (R58 to R97, R524, R614, R616): creating and joining tables, the two-phase agreement of a reseat with its
switch, and the moves of channel seats. -/

namespace Sys2Proof.Machine

-- tables (R58 to R62, R524, R530) ---------------------------------------------------------------------------------------

/-- Whether a global table ID is valid (R58). -/
def globalOk (g : Nat) : Bool := g ≠ 0 && g ≠ 0xFFFFFFFF

/-- A key slot that is free and that no table has reserved; slot 0 is never assigned (R60). -/
def keyFree (s : State) : Option Nat :=
  (List.range 1024).find? (fun k => k ≠ 0 && (mapGetD s.mem.keys k {}).state = .free && !s.tables.any (fun x => x.2.keySlot = k))

/-- Fills a table slot: the handle's index, and the state, or none when a table slot or a key slot is lacking (R62). With key source HUB
the key slot is loaded from the hub's random generator; with TENANT it is reserved (R530). -/
def tableFill (g tenant keySource lead : Nat) (s : State) : Option (Nat × State) :=
  match keyFree s, takeSlot s 5 tenant 0 with
  | some k, some (i, s) =>
    let t : Table := { globalId := g, tenant := tenant, keySlot := k, lead := lead, members := [s.sys.nodeId], created := now s,
                       keyTenant := keySource = 1 }
    let e := mapGetD s.mem.keys k {}
    let s := { s with
      tables := mapPut s.tables i t
      obj := { s.obj with slots := mapMod s.obj.slots (slotKey 5 i) (fun x => { x with table := i }) } }
    some (i, if keySource = 1 then s else
      { s with
        mem := { s.mem with keys := mapPut s.mem.keys k { e with state := .loaded, table := i, gen := e.gen + 1,
                                                                 dataKey := Config.hubKey s.fresh, tweakKey := Config.hubKey (s.fresh + 1) } }
        fresh := s.fresh + 2 })
  | _, _ => none

/-- TABLE_CREATE (R58, R524, R530): the lead hub fills the slot at once; any other asks the lead hub first. A GLOBAL_ID whose JOIN is still
unanswered here counts as present, which the spec does not say (DESIGN CHOICE, notes/assumptions/156). -/
def effTableCreate (m : Fin 64) (g tenant keySource lead : Nat) (s : State) : Outcome :=
  if !globalOk g ∨ keySource > 1 ∨ lead ≥ 4096 ∨ (slotOfGlobal s g).isSome ∨ s.bnd.asked.any (fun a => a.code = 0x80A && a.globalId = g) then
    done .range s
  else match tableFill g tenant keySource lead s with
    | none => done .noResource s
    | some (i, s') =>
      if lead = s.sys.nodeId then doneWith (tableHandle s' i) s'
      else
        let a : CtrlAsk := { code := 0x80A, mbx := m, dst := lead, globalId := g, seat := 0, tenant := tenant, keySource := keySource }
        later (ctrlSend lead 0x80A g 0 .ok tenant { s with bnd := { s.bnd with asked := s.bnd.asked ++ [a] } })

/-- TABLE_CREATE. -/
def execTableCreate (c : Caller) (globalId tenant keySource leadNode : Nat) (s : State) : Result :=
  gararn 0x100 .o c (effTableCreate c.mbx globalId tenant keySource leadNode) s

/-- JOIN at the lead hub (R524): any node may join a table of the tenant it names; the table then spans one carrier more (R62). The
directory's entries follow the answer, which says how many they are. -/
def joinTake (src globalId tenant : Nat) (s : State) : State :=
  let s := irqRaise 11 s
  match slotOfGlobal s globalId with
  | none => ctrlSend src 0x80A globalId 0 .gone 0 s
  | some t =>
    match tableAt s t with
    | none => s
    | some tb =>
      let ms := membersOf tb
      if tb.lead ≠ s.sys.nodeId ∨ tb.tenant ≠ tenant ∨ tb.destroying then ctrlSend src 0x80A globalId 0 .gone 0 s
      else if src ∉ ms ∧ ms.length ≥ 4096 then ctrlSend src 0x80A globalId 0 .noResource 0 s
      else
        let s := if src ∈ ms then s else tableMod t (fun x => { x with members := x.members ++ [src] }) s
        tb.dir.foldl (fun s x => ctrlOut src (.seatEntry src globalId x.1 x.2) s) (ctrlSend src 0x80A globalId 0 .ok tb.dir.length s)

/-- JOIN at the lead hub (R507, R524). -/
def execJoin (src : CtrlFrom) (globalId tenant : Nat) (s : State) : Result :=
  ctrlArrive src (ctrlCore (.join src.node globalId tenant) (joinTake src.node globalId tenant)) s

/-- The lead hub's answer to a JOIN: OK fills the table's slot, and any other status is the answer of TABLE_CREATE. -/
def joinAnswer (a : CtrlAsk) (st : Status) (n : Nat) (s : State) : State :=
  let s := { s with bnd := { s.bnd with asked := s.bnd.asked.erase a } }
  if st ≠ .ok then answer a.mbx.val { st := st } s
  else match tableFill a.globalId a.tenant a.keySource a.dst s with
    | none => answer a.mbx.val { st := .noResource } s
    | some (i, s) =>
      answer a.mbx.val { st := .ok, handle := tableHandle s i } (tableMod i (fun tb => { tb with dirDue := n }) s)

/-- CTRL (R250, R521, R596): the answers of other hubs' firmware. A message of a hub that is no member of the table is dropped and
counted, but for a lead hub's answer to JOIN; before Release every message is. -/
def execCtrl (_lp : Fin 16) (src : CtrlFrom) (globalId code seat : Nat) (st : Status) (detail : Nat) (s : State) : Result :=
  ctrlArrive src (fun s =>
    if code = 0x80A then
      match s.bnd.asked.find? (fun a => a.code = 0x80A && a.dst = src.node && a.globalId = globalId) with
      | some a => joinAnswer a st detail (irqRaise 11 s)
      | none => lnkDrop s
    else fromMember src.node globalId (fun _ s => ctrlAnswer src.node globalId code seat st detail s) s) s

-- the switch (R84 to R87) -----------------------------------------------------------------------------------------------

/-- A message of this hub that its own seat has answered STALE under an epoch that it no longer has (R84). -/
def staleOwn (table seat epoch : Nat) (msg : SeatMsg) (r : CmdRef) (s : State) : State :=
  let y := staleNew table seat msg [] (some r) s
  staleMod y.1.tag (fun x => { x with epoch := epoch }) y.2

/-- A launch on a cluster that leaves its table (R84): one that has not started is answered STALE, and a running one is killed with
ABORTED; a running step is rerun, so its launch is only stopped. The message of this hub is sent again when the new binding stands. -/
def launchLeave (seat epoch : Nat) (s : State) (l : Launched) : State :=
  let s := { s with obj := { s.obj with launched := s.obj.launched.filter (fun x => x.tag ≠ l.tag) } }
  if l.waitCore then
    let s := staleCount s
    match l.replyTo, l.ref with
    | some p, _ => staleReply { src := p.1, tenant := (tenantOf s l.table).getD 0, type := 0x03, tag := p.2, addr := seat, epoch := epoch } s
    | none, some r => staleOwn l.table seat epoch (.sub l.body) r s
    | none, none => s
  else
    let s := emit (.cfAbort l.cluster l.tag) s
    if l.rerun then s
    else match l.replyTo, l.ref with
      | some p, _ => seatReply l.table p .aborted s
      | none, some r => failCmd r .aborted 0 s
      | none, none => s

/-- A cluster binding leaves its table (R84, R616): its launches end, its sleeping cores wake ABORTED, it enters REFILL, and the
clearing begins: the micro-TLB and its lines. A FAILED one stays FAILED (R89; DESIGN CHOICE, notes/assumptions/133). -/
def clusterLeave (cl : Nat) (c : Clearing) (t : Nat) (s : State) : State :=
  let b := bindAt s cl
  let ls := s.obj.launched.filter (fun l => l.cluster = cl)
  let s := if ls.any (fun l => l.rerun && !l.waitCore) then stepRerun t s else s
  let s := ls.foldl (launchLeave b.seat b.epoch) s
  let s := fireWhere (fun w => match w.kind with
    | .core k _ _ => k = cl
    | _ => false) .aborted 0 s
  let s := bindPut cl { state := if b.state = .failed then .failed else .refill } s
  let s := { s with bnd := { s.bnd with clearing := mapPut s.bnd.clearing cl c } }
  let id := s.trn.nextShoot
  clusterFlush cl (emit (.utlbInval cl id 0 0) (trnMod (fun r => { r with nextShoot := (id + 1) % 2 ^ 32 }) s))

/-- Takes the task that a share's engine has selected back into its queue, with its draw: a share that does not act starts nothing (R83,
R87). -/
def sharePause (e j : Nat) (s : State) : State :=
  match (engineOf s e).selected with
  | some t =>
    if t.share = j then
      anteDrop 2 e (engineMod e (fun x => { x with queue := t :: x.queue, selected := none, state := if x.state = .waitAnte then .idle else x.state }) s)
    else s
  | none => s

/-- Answers STALE the tasks of a near-memory share that have not started (R84): a command of this hub is sent again when the new binding
stands, one of an ATTN_DECODE ends its command, and a part of another hub's command is answered. -/
def shareLeave (e j : Nat) (s : State) : State :=
  let b := bindAt s (nmeIndex e j)
  let s := sharePause e j s
  let mine := (engineOf s e).queue.filter (fun t => t.share = j)
  let s := engineMod e (fun x => { x with queue := x.queue.filter (fun t => t.share ≠ j) }) s
  mine.eraseDups.foldl (fun s t => match t.ref, t.cmd.body with
    | some r, .attnTask .. => endCommand r (.fail .stale 0) (staleCount s)
    | some r, _ => staleOwn t.table b.seat b.epoch (.nme t.cmd) r (staleCount s)
    | none, .attnTask id _ _ _ _ _ _ _ _ _ _ =>
      (match foldNamed s id with
       | none => s
       | some k =>
         let f := foldOf s k
         let mine (a : SubAsm) : Bool := a.src = f.homeNode && a.fold = f.homeFold
         let s := (s.nme.subs.filter mine).foldl (fun s a =>
           staleReply { src := a.src, tenant := (tenantOf s f.table).getD 0, type := 0x03, tag := a.tag, addr := a.seat, epoch := a.epoch }
             (staleCount s)) s
         foldClose k { s with nme := { s.nme with subs := s.nme.subs.filter (fun a => !mine a) } })
    | none, _ => s) s

/-- Sends SWITCHED to a hub (R85): the seat, the new epoch and the binding. -/
def switchedSend (dst g seat epoch binding : Nat) (s : State) : State := seatSend dst 0x809 g seat epoch .ok binding s

/-- The lead hub takes a report of a switch (R83, R85): the RESEAT request is answered OK once both owning hubs have reported. -/
def leadSwitched (src g seat epoch binding : Nat) (s : State) : State :=
  let hit (r : LeadReseat) : Bool := r.req.globalId = g && r.req.seat = seat && r.newEpoch = epoch && r.decided = some true && r.unanswered
  match s.bnd.lead.find? hit with
  | none => s
  | some r =>
    let isNew := src = r.req.newNode && binding = r.req.newBinding
    let isOld := (src = r.oldNode && binding = r.oldBinding) || (isNew && r.oldBound && r.oldNode = r.req.newNode)
    let r' : LeadReseat := { r with newReported := r.newReported || isNew, oldReported := r.oldReported || isOld }
    let s := { s with bnd := { s.bnd with lead := s.bnd.lead.map (fun x => if hit x then r' else x) } }
    if r'.oldReported && r'.newReported then reseatReply r' .ok 0 s else s

/-- Reports a switch to the lead hub of a table. -/
def switchedReport (lead g seat epoch binding : Nat) (s : State) : State :=
  if lead = s.sys.nodeId then leadSwitched s.sys.nodeId g seat epoch binding s else switchedSend lead g seat epoch binding s

/-- The messages held for a cluster whose old place has been cleared start (R84, R85); a hub that has not switched yet, because its decision
comes late (R83), remembers it. -/
def heldStart (t seat epoch : Nat) (s : State) : State :=
  let note (x : ReseatSlot) : ReseatSlot :=
    if x.table = t && x.seat = seat && x.newEpoch = epoch && x.newHere then { x with cleared := true } else x
  let s : State := { s with bnd := { s.bnd with slots := s.bnd.slots.map (fun (x : Nat × ReseatSlot) => (x.1, note x.2)) } }
  let mine := s.bnd.seats.filter (fun x => x.2.held && x.2.table = t && x.2.seat = seat && x.2.epoch = epoch)
  mine.foldl (fun s x => heldRelease x.1 (bindPut x.1 { x.2 with held := false } s)) s

/-- The directory entry that a committed reseat leaves (R70, R72, R84). -/
def seatAfter (x : ReseatSlot) : SeatEntry :=
  if x.unseat then { lastEpoch := x.newEpoch, lastT := some x.t }
  else { epoch := x.newEpoch, node := x.newNode, binding := x.new, kind := x.kind, state := .bound, weight := x.weight,
         lastEpoch := x.newEpoch, lastT := some x.t }

/-- The SAVED contexts whose save area lies in a slab that enters REFILL are LOST (R448; DEDUCED, notes/assumptions/152). -/
def savedLose (stack slab : Nat) (s : State) : State :=
  let inSlab (x : Ctx) : Bool := match memOf s x.saveObj with
    | some o => (List.range 16).any (fun i => match extentAt o.extents (x.saveOff + 65536 * i) with
      | some a => let l := locate s a
        l.stack = stack && l.slab = slab
      | none => false)
    | none => false
  ((s.obj.ctxs.filter (fun x => x.2.state = .saved && inSlab x.2)).map (fun x => liveHandle s 1 x.1)).foldl (fun s c => contextLose c s) s

/-- What the old binding does at T (R84). A channel slab that moves stays with its table under its alias (R90); one that is unseated is
re-filled (R219). What has failed stays FAILED, and a slab of a FAILED stack has no bytes to move (R66, R89; DESIGN CHOICE,
notes/assumptions/133). -/
def oldLeaves (x : ReseatSlot) (tb : Table) (s : State) : State :=
  let failed := (bindAt s x.old).state = .failed
  match x.kind with
  | .cluster =>
    let c : Clearing := { globalId := tb.globalId, lead := tb.lead, seat := x.seat, epoch := x.newEpoch,
                          newNode := if x.unseat then 4096 else x.newNode, newBinding := x.new }
    clusterLeave x.old c x.table s
  | .channel =>
    if failed then bindPut x.old { state := .failed } s
    else if x.unseat then
      let k := (x.old - 120) / 48
      let j := (x.old - 120) % 48
      savedLose k j (refillEnter k j (recallSlab k j s))
    else
      let m : ChannelMove := { old := x.old, table := x.table, seat := x.seat, node := x.newNode, new := x.new, t := x.t,
                               running := false, granules := 0, done := false }
      bindPut x.old { bindAt s x.old with state := .migrating } { s with bnd := { s.bnd with moves := s.bnd.moves ++ [m] } }
  | .link => bindPut x.old { state := if failed then .failed else .free } s
  | .nme =>
    bindPut x.old { state := if failed then .failed else .free } (shareLeave ((x.old - 1144) / 16) ((x.old - 1144) % 16) s)

/-- What the new binding does at T (R84): it takes the epoch and is BOUND, or FAILED if its resource has failed (R89). A cluster that
comes from another binding is held until that one has been cleared. -/
def newTakes (x : ReseatSlot) (moved : Bool) (s : State) : State :=
  let failed := (bindAt s x.new).state = .failed
  let held := x.kind = .cluster && moved && !x.cleared
  let n : Binding := { epoch := x.newEpoch, seat := x.seat, table := x.table, weight := if x.kind = .nme then x.weight else 0,
                       state := if failed then .failed else .bound, held := held }
  let s := bindPut x.new n s
  let s := if failed then seatFailTell x.table x.seat x.newEpoch s else s
  if held then s else heldRelease x.new s

/-- Whether the lead hub has learned that a committed reseat's new binding has failed (R89). -/
def leadFailed (s : State) (g seat epoch : Nat) : Bool :=
  s.bnd.lead.any (fun r => r.req.globalId = g && r.req.seat = seat && r.newEpoch = epoch && r.newFailed)

/-- The switch of a committed reseat at this hub (R84, R85): the table advances (R373). Messages of this hub that the old binding answered
STALE are sent again once the new one stands. -/
def switchSlot (k : Nat) (s : State) : State :=
  match mapGet s.bnd.slots k with
  | none => s
  | some x =>
    match tableAt s x.table with
    | none => s
    | some tb =>
      let moved := (mapGetD tb.dir x.seat {}).epoch ≠ 0
      let s := { s with bnd := { s.bnd with slots := mapDel s.bnd.slots k } }
      let s := advance x.table (seatPut x.table x.seat (seatAfter x) s)
      let s := if leadFailed s tb.globalId x.seat x.newEpoch then seatFailed x.table x.seat s else s
      let before := s.bnd.stale.map (fun y => y.tag)
      let s := if x.oldHere then oldLeaves x tb s else s
      let s := if x.newHere then newTakes x moved s else s
      let own := (s.bnd.stale.map (fun y => y.tag)).filter (fun y => y ∉ before)
      let s := own.foldl (fun s y => staleTaken y s) s
      let report (b : Nat) (s : State) : State := switchedReport tb.lead tb.globalId x.seat x.newEpoch b s
      let atOnce := x.kind ≠ .cluster
      let s :=
        if x.oldHere && x.newHere then (if atOnce then report x.new s else s)
        else if x.newHere then report x.new s
        else if x.oldHere && atOnce then report x.old s
        else s
      waitersRecheck s

/-- A binding of a seat goes on after it was SUSPENDED (R87): its waiting launches start. -/
def bindResume (i : Nat) (s : State) : State :=
  if (bindAt s i).state = .suspended then
    let s := bindPut i { bindAt s i with state := .bound } s
    (s.obj.launched.filter (fun l => l.cluster = i && l.waitCore)).foldl (fun s l => launchGo l s) s
  else s

/-- A binding of a seat whose decision is missing at T does not act (R83). -/
def bindSuspend (i : Nat) (s : State) : State :=
  if (bindAt s i).state = .bound then
    let s := bindPut i { bindAt s i with state := .suspended } s
    if kindOfIndex i = .nme then sharePause ((i - 1144) / 16) ((i - 1144) % 16) s else s
  else s

/-- RESEAT_SWITCH (R83, R84, R87): at T a slot with COMMIT switches; one without a decision suspends the old binding, and the new one
stays ARMED, and what was held for it is answered STALE. -/
def execReseatSwitch (k : Fin 64) (s : State) : Result :=
  live s (fun s =>
    match mapGet s.bnd.slots k.val with
    | none => s
    | some x =>
      if now s < x.t then s
      else match x.phase with
        | .committed => switchSlot k.val s
        | .accepted =>
          let s := { s with bnd := { s.bnd with slots := mapPut s.bnd.slots k.val { x with phase := .noDecision } } }
          let s := if x.oldHere then bindSuspend x.old s else s
          if x.newHere then heldRelease x.new s else s
        | _ => s)

/-- CLUSTER_CLEARING_END (R84 to R86, R137): the cluster holds no line of the old table any more; its cores go off, which clears them, the
binding is FREE, it counts as acknowledged in every shootdown that still lists it, and the switch is reported while its table stands. -/
def execClusterClearingEnd (cluster : Fin 120) (s : State) : Result :=
  live s (fun s =>
    let cl := cluster.val
    match mapGet s.bnd.clearing cl with
    | none => s
    | some c =>
      if clusterHolds s cl then s
      else
        let s := clusterOff cl { s with bnd := { s.bnd with clearing := mapDel s.bnd.clearing cl } }
        let s := if (bindAt s cl).state = .refill then bindPut cl {} s else s
        let s := (s.trn.shoot.filter (fun x => x.clusters.contains cl)).foldl (fun s x => shootAck x.id cl s) s
        match slotOfGlobal s c.globalId with
        | none => s
        | some t =>
          let here := c.newNode = s.sys.nodeId
          let s := switchedReport c.lead c.globalId c.seat c.epoch (if here then c.newBinding else cl) s
          if here then heldStart t c.seat c.epoch s
          else if c.newNode < 4096 ∧ c.newNode ≠ c.lead then switchedSend c.newNode c.globalId c.seat c.epoch cl s
          else s)

/-- SWITCHED (R85): a report to the lead hub, and the start of held messages at the hub of a cluster's new binding. A lead hub that owns
the new binding gets one message for both. -/
def execSwitched (src : CtrlFrom) (globalId seat epoch binding : Nat) (s : State) : Result :=
  ctrlArrive src (fromMember src.node globalId (fun t s =>
    match tableAt s t with
    | none => s
    | some tb =>
      let s := if tb.lead = s.sys.nodeId then leadSwitched src.node globalId seat epoch binding s else s
      heldStart t seat epoch s)) s

-- the agreement (R81 to R83, R614) --------------------------------------------------------------------------------------

/-- The epoch after another (R72). -/
def epochNext (e : Nat) : Nat := if e ≥ 0xFFFF then 1 else e + 1

/-- The slot that a reseat of a seat to an epoch has on this hub. -/
def reseatSlotOf (s : State) (t seat epoch : Nat) : Option (Nat × ReseatSlot) :=
  s.bnd.slots.find? (fun x => x.2.table = t && x.2.seat = seat && x.2.newEpoch = epoch && x.2.phase ≠ .idle)

/-- The alias entries that are in use, or reserved for a channel move whose reseat is armed here: an entry is reserved at PREPARE (DESIGN
CHOICE, notes/assumptions/131). -/
def aliasesDue (s : State) : Nat :=
  s.bnd.moves.length + (s.bnd.slots.filter (fun x => x.2.phase ≠ .idle && x.2.oldHere && !x.2.unseat && x.2.kind = .channel)).length

/-- The new binding of a PREPARE as this hub sees it (R65, R66, R68, R82, R530). -/
def newBindingStatus (s : State) (t : Nat) (p : PrepareBody) : Status :=
  let n := p.req.newBinding
  let b := bindAt s n
  let other : Status := if b.table = t then .busy else .denied
  let taken := match b.state with
    | .free => .ok
    | .refill => .busy
    | .unavailable | .failed => .range
    | _ => other
  let second := kindOfIndex n = .nme && (List.range 16).any (fun j =>
    let i := nmeIndex ((n - 1144) / 16) j
    let c := bindAt s i
    c.table = t && (c.state = .bound || c.state = .armed || c.state = .suspended)
      && !(p.old.epoch ≠ 0 && p.old.node = s.sys.nodeId && p.old.binding = i))
  let unloaded := kindOfIndex n = .channel && (match tableAt s t with
    | some tb => (mapGetD s.mem.keys tb.keySlot {}).state ≠ .loaded
    | none => true)
  worst [taken, if second then .range else .ok, if unloaded then .busy else .ok]

/-- The answer of a member to a PREPARE (R82). A table that is being destroyed has gone (R88), and the hub that still moves the seat's bytes
answers BUSY for the lead hub, which cannot see the move (R81; notes/assumptions/93). -/
def prepareStatus (s : State) (t : Nat) (p : PrepareBody) : Status :=
  let unseat := p.req.newBinding = 0xFFFF
  let here := s.sys.nodeId
  let oldHere := p.old.epoch ≠ 0 && p.old.node = here
  let wide := match tableAt s t with
    | some tb => (membersOf tb ++ (if unseat then [] else [p.req.newNode])).eraseDups.length > 1
    | none => true
  let full := (mapFree s.bnd.slots 64).isNone
    || (oldHere && !unseat && p.old.kind = .channel && decide (aliasesDue s ≥ 1024))
  let gone := match tableAt s t with
    | some tb => tb.destroying
    | none => true
  let moving := s.bnd.moves.any (fun m => m.table = t && m.seat = p.req.seat && !m.done)
  worst [if gone then .gone else .ok, if moving then .busy else .ok,
         if !unseat && p.req.newNode = here then newBindingStatus s t p else .ok, if full then .noResource else .ok,
         if wide && s.sys.timeState ≠ .locked then .busy else .ok]

/-- An accepting hub arms a reseat slot, and the new binding becomes ARMED; the old one keeps serving its seat (R83). -/
def slotArm (t : Nat) (p : PrepareBody) (s : State) : State :=
  match mapFree s.bnd.slots 64 with
  | none => s
  | some k =>
    let unseat := p.req.newBinding = 0xFFFF
    let here := s.sys.nodeId
    let x : ReseatSlot := { t := p.req.t, newEpoch := p.newEpoch, seat := p.req.seat, table := t, phase := .accepted,
                            oldHere := p.old.epoch ≠ 0 && p.old.node = here, newHere := !unseat && p.req.newNode = here,
                            old := p.old.binding, new := p.req.newBinding,
                            kind := if p.old.epoch ≠ 0 then p.old.kind else kindOfIndex p.req.newBinding, weight := p.req.weight,
                            newNode := p.req.newNode, unseat := unseat }
    let s := { s with bnd := { s.bnd with slots := mapPut s.bnd.slots k x } }
    if x.newHere then
      bindPut x.new { seat := x.seat, table := t, weight := if x.kind = .nme then x.weight else 0, state := .armed, armEpoch := p.newEpoch,
                      armT := x.t } s
    else s

/-- The decision reaches a hub (R83, R87): COMMIT is applied at T, or at once after T; CANCEL frees the slot, and its bindings return to
their earlier state. -/
def decisionHere (t seat epoch : Nat) (commit : Bool) (s : State) : State :=
  match reseatSlotOf s t seat epoch with
  | none => s
  | some (k, x) =>
    if commit then
      let s := { s with bnd := { s.bnd with slots := mapPut s.bnd.slots k { x with phase := .committed } } }
      let s := if x.oldHere then bindResume x.old s else s
      if now s ≥ x.t then switchSlot k s else s
    else
      let s := { s with bnd := { s.bnd with slots := mapDel s.bnd.slots k, spareMoves := mapDel s.bnd.spareMoves x.old } }
      let s := if x.newHere && (bindAt s x.new).state = .armed then heldRelease x.new (bindPut x.new {} s) else s
      let s := if x.oldHere then bindResume x.old s else s
      waitersRecheck s

/-- The record of an undecided reseat of a seat at the lead hub. -/
def leadOpen (s : State) (g seat : Nat) : Option LeadReseat :=
  s.bnd.lead.find? (fun r => r.req.globalId = g && r.req.seat = seat && r.decided.isNone)

/-- The hubs that take part in a reseat: every member, and the hub of the new binding. -/
def reseatNodes (tb : Table) (b : ReseatBody) : List Nat :=
  (membersOf tb ++ (if b.newBinding = 0xFFFF then [] else [b.newNode])).eraseDups

/-- The lead hub records its decision and sends it to every member (R83); a CANCEL answers the request at once, with the first refusal or
ABORTED (R515, R614). -/
def leadDecide (t : Nat) (r : LeadReseat) (commit : Bool) (s : State) : State :=
  match tableAt s t with
  | none => s
  | some tb =>
    let r' : LeadReseat := { r with decided := some commit }
    let s := { s with bnd := { s.bnd with lead := s.bnd.lead.map (fun x => if x = r then r' else x) } }
    let others := (reseatNodes tb r.req).filter (fun n => n ≠ s.sys.nodeId)
    let s := others.foldl (fun s n => seatSend n 0x803 r.req.globalId r.req.seat r.newEpoch .ok (b2n commit) s) s
    let s := if commit then s
      else match r.firstRefusal with
        | some st => reseatReply r' st 1 s
        | none => reseatReply r' .aborted 2 s
    decisionHere t r.req.seat r.newEpoch commit s

/-- The lead hub takes a PREPARE answer (R83): an answer counts up to T − 25,000 ticks; a refusal ends the reseat, and the last
acceptance commits it. -/
def leadAnswer (t src g seat epoch : Nat) (st : Status) (s : State) : State :=
  match tableAt s t, leadOpen s g seat with
  | some tb, some r =>
    if now s + 25000 > r.req.t ∨ r.newEpoch ≠ epoch then s
    else
      let r' : LeadReseat :=
        if st ≠ .ok then { r with firstRefusal := some (r.firstRefusal.getD st) }
        else { r with accepted := if src ∈ r.accepted then r.accepted else r.accepted ++ [src] }
      let s := { s with bnd := { s.bnd with lead := s.bnd.lead.map (fun x => if x = r then r' else x) } }
      if st ≠ .ok then leadDecide t r' false s
      else if (reseatNodes tb r.req).all (fun n => n ∈ r'.accepted) && r'.firstRefusal.isNone then leadDecide t r' true s else s
  | _, _ => s

/-- The lead hub is told of a binding that fails while no answer is due (R89): it marks the seat of that epoch FAILED, at once or with a
switch that is still to come. -/
def leadToldFailed (t src g seat epoch : Nat) (s : State) : State :=
  match tableAt s t with
  | none => s
  | some tb =>
    let e := mapGetD tb.dir seat {}
    if tb.lead ≠ s.sys.nodeId then s
    else if e.epoch = epoch ∧ e.node = src then seatFailed t seat s
    else { s with bnd := { s.bnd with lead := s.bnd.lead.map (fun r =>
      if r.req.globalId = g && r.req.seat = seat && r.newEpoch = epoch && r.req.newNode = src && r.decided = some true then
        { r with newFailed := true }
      else r) } }

/-- Checks a PREPARE at this hub and answers the lead hub. -/
def prepareHere (t : Nat) (p : PrepareBody) (s : State) : State :=
  let st := prepareStatus s t p
  let s := if st = .ok then slotArm t p s else s
  match tableAt s t with
  | some tb =>
    if tb.lead = s.sys.nodeId then leadAnswer t s.sys.nodeId p.req.globalId p.req.seat p.newEpoch st s
    else seatSend tb.lead 0x802 p.req.globalId p.req.seat p.newEpoch st 0 s
  | none => s

/-- The fields of a RESEAT request that lie outside their ranges (R522, R524). -/
def reseatBad (b : ReseatBody) : Bool :=
  b.seat ≥ 65536 || b.newNode ≥ 4096 || (b.newBinding ≥ 1400 && b.newBinding ≠ 0xFFFF)
    || b.kind = 0 || b.kind > 4 || (if b.kind = 4 && b.newBinding ≠ 0xFFFF then b.weight = 0 || b.weight > 255 else b.kind ≠ 4 && b.weight ≠ 0)

/-- The kind that a KIND code names (R70). -/
def kindOfCode : Nat → SeatKind
  | 1 => .cluster | 2 => .channel | 3 => .link | _ => .nme

/-- The refusals of the lead hub (R81). -/
def leadStatus (s : State) (t : Nat) (tb : Table) (b : ReseatBody) : Status :=
  let e := mapGetD tb.dir b.seat {}
  let unseat := b.newBinding = 0xFFFF
  let kind := if e.epoch ≠ 0 then e.kind else kindOfCode b.kind
  let mine := s.bnd.lead.filter (fun r => r.req.globalId = b.globalId && r.unanswered)
  let soon := match e.lastT with
    | some x => b.t < x + 1000000
    | none => false
  let moving := s.bnd.moves.any (fun m => m.table = t && m.seat = b.seat && !m.done)
  firstFailure [
    (tb.destroying, .gone),
    (reseatBad b, .range),
    (b.t < now s + 50000, .range),
    (kindOfCode b.kind ≠ kind || (!unseat && kindOfIndex b.newBinding ≠ kind), .range),
    (!unseat && e.epoch ≠ 0 && e.node = b.newNode && e.binding = b.newBinding, .range),
    (unseat && e.epoch = 0, .gone),
    (mine.any (fun r => r.req.seat = b.seat) || moving || soon, .busy),
    (mine.length ≥ 64, .noResource)]

/-- A RESEAT at the lead hub (R81, R83): refused at once, or PREPARE goes to every member. The last record of the seat is replaced. -/
def leadTake (b : ReseatBody) (caller : Option (Fin 64)) (fwd : Option Nat) (t : Nat) (tb : Table) (s : State) : Except Status State :=
  match leadStatus s t tb b with
  | .ok =>
    let e := mapGetD tb.dir b.seat {}
    let unseat := b.newBinding = 0xFFFF
    let n := epochNext e.lastEpoch
    let r : LeadReseat := { req := b, caller := caller, fwdFrom := fwd, newEpoch := n, oldNode := e.node, oldBinding := e.binding,
                            oldBound := e.epoch ≠ 0, accepted := [], decided := none, firstRefusal := none,
                            oldReported := e.epoch = 0, newReported := unseat }
    let p : PrepareBody := { req := b, tenant := tb.tenant, old := e, newEpoch := n }
    let s := { s with bnd := { s.bnd with
      lead := s.bnd.lead.filter (fun x => !(x.req.globalId = b.globalId && x.req.seat = b.seat)) ++ [r] } }
    let others := (reseatNodes tb b).filter (fun n => n ≠ s.sys.nodeId)
    .ok (prepareHere t p (others.foldl (fun s n => ctrlOut n (.prepare n p) s) s))
  | st => .error st

/-- RESEAT (R81, R524): decided here when this hub leads the table, and passed to the lead hub otherwise. -/
def effReseat (m : Fin 64) (b : ReseatBody) (s : State) : Outcome :=
  match (slotOfGlobal s b.globalId).bind (fun t => (tableAt s t).map (fun tb => (t, tb))) with
  | none => done .gone s
  | some (t, tb) =>
    if tb.lead = s.sys.nodeId then
      match leadTake b (some m) none t tb s with
      | .ok s => later s
      | .error st => done st s
    else if tb.destroying then done .gone s
    else if reseatBad b then done .range s
    else
      let a : CtrlAsk := { code := 0x800, mbx := m, dst := tb.lead, globalId := b.globalId, seat := b.seat, tenant := tb.tenant,
                           keySource := 0 }
      later (ctrlOut tb.lead (.reseatFwd tb.lead b) { s with bnd := { s.bnd with asked := s.bnd.asked ++ [a] } })

/-- RESEAT. -/
def execReseat (c : Caller) (b : ReseatBody) (s : State) : Result := gararn 0x101 .o c (effReseat c.mbx b) s

/-- RESEAT_FWD at the lead hub (R521): taken as if it had come to a mailbox here; the answer goes back to the hub that passed it on. -/
def reseatFwdTake (node : Nat) (b : ReseatBody) : State → State :=
  fromMember node b.globalId (fun t s =>
    match tableAt s t with
    | none => s
    | some tb =>
      let st := if tb.lead ≠ s.sys.nodeId then Except.error Status.gone
        else leadTake b none (some node) t tb s
      match st with
      | .ok s => s
      | .error st => ctrlSend node 0x800 b.globalId b.seat st 0 s)

/-- RESEAT_FWD at the lead hub (R507, R521). -/
def execReseatFwd (src : CtrlFrom) (b : ReseatBody) (s : State) : Result :=
  ctrlArrive src (ctrlCore (.reseatFwd src.node b) (reseatFwdTake src.node b)) s

/-- The checks of a PREPARE at a member (R82, R83); it comes from the lead hub. -/
def prepareTake (node : Nat) (p : PrepareBody) : State → State :=
  fromMember node p.req.globalId (fun t s =>
    match tableAt s t with
    | some tb => if node = tb.lead then prepareHere t p s else s
    | none => s)

/-- PREPARE at a member (R82, R83, R507). -/
def execPrepare (src : CtrlFrom) (p : PrepareBody) (s : State) : Result :=
  ctrlArrive src (ctrlCore (.prepare src.node p) (prepareTake src.node p)) s

/-- PREPARE_ANSWER at the lead hub (R83, R89): the answer to an open reseat of that epoch, or the failure of a binding. -/
def execPrepareAnswer (src : CtrlFrom) (globalId : Nat) (seat : SeatAt) (ans : Status) (s : State) : Result :=
  ctrlArrive src (fun s =>
    let part (t : Nat) : Bool := match tableAt s t, leadOpen s globalId seat.seat with
      | some tb, some r => src.node ∈ reseatNodes tb r.req && r.newEpoch = seat.epoch
      | _, _ => false
    match slotOfGlobal s globalId with
    | some t =>
      if part t then leadAnswer t src.node globalId seat.seat seat.epoch ans (irqRaise 11 s)
      else fromMember src.node globalId (fun t s => if ans = .ok then s else leadToldFailed t src.node globalId seat.seat seat.epoch s) s
    | none => lnkDrop s) s

/-- RESEAT_DECISION_DEADLINE (R83, R89, R614): at T − 20,000 ticks an open reseat is cancelled; so is one whose first refusal is in
hand. -/
def execReseatDecisionDeadline (globalId seat : Nat) (s : State) : Result :=
  live s (fun s =>
    match slotOfGlobal s globalId, leadOpen s globalId seat with
    | some t, some r => if now s + 20000 ≥ r.req.t ∨ r.firstRefusal.isSome then leadDecide t r false s else s
    | _, _ => s)

/-- DECISION at a member (R83, R87); it comes from the lead hub. -/
def execDecision (src : CtrlFrom) (globalId : Nat) (seat : SeatAt) (commit : Bool) (s : State) : Result :=
  ctrlArrive src (fromMember src.node globalId (fun t s =>
    match tableAt s t with
    | some tb => if src.node = tb.lead then decisionHere t seat.seat seat.epoch commit s else s
    | none => s)) s

/-- RESEAT_STATUS_POLL (R83): from T − 10,000 ticks a hub without a decision asks the lead hub, and again each 2,000 ticks. -/
def execReseatStatusPoll (k : Fin 64) (s : State) : Result :=
  live s (fun s =>
    match mapGet s.bnd.slots k.val with
    | none => s
    | some x =>
      let open_ := x.phase = .accepted || x.phase = .noDecision
      let due := now s + 10000 ≥ x.t && (x.polled = 0 || now s ≥ x.polled + 2000)
      match tableAt s x.table with
      | some tb =>
        if open_ && due && tb.lead ≠ s.sys.nodeId then
          seatSend tb.lead 0x804 tb.globalId x.seat x.newEpoch .ok 0
            { s with bnd := { s.bnd with slots := mapPut s.bnd.slots k.val { x with polled := now s } } }
        else s
      | none => s)

/-- STATUS at the lead hub (R83): answered with the decision that is recorded; none while it is open. -/
def execStatus (src : CtrlFrom) (globalId : Nat) (seat : SeatAt) (s : State) : Result :=
  ctrlArrive src (fromMember src.node globalId (fun _ s =>
    match s.bnd.lead.find? (fun r => r.req.globalId = globalId && r.req.seat = seat.seat && r.newEpoch = seat.epoch) with
    | some r => (match r.decided with
        | some c => seatSend src.node 0x803 globalId seat.seat seat.epoch .ok (b2n c) s
        | none => s)
    | none => s)) s

-- moving a channel seat (R90 to R97) ------------------------------------------------------------------------------------

/-- CHANNEL_MOVE_START (R94): the waiting move with the earliest effective tick begins while fewer than 8 run. -/
def execChannelMoveStart (s : State) : Result :=
  live s (fun s =>
    let waiting := s.bnd.moves.filter (fun m => !m.running && !m.done)
    let first := waiting.foldl (fun (b : Option ChannelMove) m => match b with
      | none => some m
      | some y => if m.t < y.t then some m else some y) none
    match first with
    | some m =>
      if (s.bnd.moves.filter (fun x => x.running && !x.done)).length < 8 then aliasMod m.old (fun x => { x with running := true }) s else s
    | none => s)

/-- Copies one codeblock within this hub (R92): poison is carried, and the bytes are written again under the new address. -/
def cbCopy (key : Nat) (a b : Loc) (s : State) : State :=
  let r := partRead s key a 1024
  if r.1 = .ok then (partWrite key b r.2 s).2 else partPoison b s

/-- The decoder's outcomes over the codeblocks of a granule, by position; one not listed decodes clean (R92, R204). -/
def granuleDecode (binding g : Nat) (decs : List (Nat × Decoded)) (s : State) : State :=
  decs.foldl (fun s d =>
    let a := granuleLoc binding g d.1
    let cb := a.local_ / 1024
    if poisoned s a.stack cb then s else decode a.stack cb d.2 s) s

/-- GRANULE_COPY (R91 to R93): the next granule of a running move. New writes and atomics to it are held, its merge-buffer entries are
flushed and its lines recalled; then it is copied under a draw of class 0x5: NORMAL, or RECOVERY where the slab moves because of a failing row
(R215). -/
def execGranuleCopy (binding : Nat) (decs : List (Nat × Decoded)) (s : State) : Result :=
  live s (fun s =>
    match aliasMove s binding with
    | none => s
    | some m =>
      if !m.running || m.done || decide (m.left > 0) || !pllOn s ((granuleLoc binding m.granules 0).stack / 4) then s
      else
        let s := cohSettle (aliasMod binding (fun x => { x with hold := true }) s)
        let a := granuleLoc binding m.granules 0
        let row := a.local_ / 1024
        let s := fenceRows a.stack row (row + 64) s
        if s.coh.dir.any (fun x => !x.2.proxy && lineHeld s x.1) then s
        else
          let d := copyTake (moveInst binding) (mapGet s.bnd.spareMoves binding).isSome s
          if !d.1 then d.2
          else
            let s := granuleDecode binding m.granules decs d.2
            if m.node = s.sys.nodeId then
              let key := tableKey s m.table
              granuleDone binding ((List.range 64).foldl (fun s i =>
                cbCopy key (granuleLoc binding m.granules i) (granuleLoc m.new m.granules i) s) s)
            else granuleSend m s)

/-- ALIAS_RELEASE (R96, R97): the alias is deleted and the old slab re-filled; one that has moved because of a failing row is FAILED instead
(R215). A seat without an alias has none to release; one whose copy has not ended is still busy. A seat that has moved again before a release
has two aliases, and the oldest goes first; and the alias goes before the slab's lines are recalled (DESIGN CHOICE,
notes/assumptions/132). -/
def effAliasRelease (seat t : Nat) (s : State) : Outcome :=
  match s.bnd.moves.find? (fun m => m.table = t && m.seat = seat) with
  | none => done .gone s
  | some m =>
    if !m.done then done .busy s
    else
      let k := (m.old - 120) / 48
      let j := (m.old - 120) % 48
      let s := { s with bnd := { s.bnd with moves := s.bnd.moves.filter (fun x => x.old ≠ m.old) } }
      if (mapGet s.bnd.spareMoves m.old).isSome then
        let s := { s with bnd := { s.bnd with spareMoves := mapDel s.bnd.spareMoves m.old } }
        done .ok (waitersRecheck (bindPut m.old { state := .failed } (recallSlab k j s)))
      else done .ok (waitersRecheck (savedLose k j (refillEnter k j (recallSlab k j s))))

/-- ALIAS_RELEASE. -/
def execAliasRelease (c : Caller) (seat : Nat) (s : State) : Result := gararn 0x102 .ot c (withTable c (effAliasRelease seat)) s

-- sparing a row (R214, R215) --------------------------------------------------------------------------------------------

/-- The codeblocks that a row serves: a data row its own, a row of the check region those whose check symbols lie in it (R177, R192). -/
def rowServes (s : State) (stack row : Nat) : List Nat :=
  let k := stackOf s stack
  let base := 48 - k.chkSlabs
  if row < base * 2 ^ 20 then [row]
  else
    let of_ (x : Nat × SlabCfg) : List Nat :=
      let start := base * 2 ^ 30 + x.2.chkUnit * 20 * 2 ^ 20
      let e := classBytes x.2.cls
      if !x.2.data || decide (row * 1024 + 1023 < start) then []
      else
        let lo := (row * 1024 - start) / e
        let hi := min ((row * 1024 + 1023 - start) / e) (2 ^ 20 - 1)
        (List.range (hi + 1 - lo)).map (fun i => x.1 * 2 ^ 20 + lo + i)
    (k.slabs.map of_).flatten

/-- Reads the codeblocks that a row serves, correcting: one found uncorrectable is poisoned (R214). The outcomes are in the codeblocks' order;
one not listed decodes clean. -/
def rowDecode (stack : Nat) : List Nat → List Decoded → State → State
  | [], _, s => s
  | cb :: r, ds, s => rowDecode stack r (ds.drop 1) (if poisoned s stack cb then s else decode stack cb (ds.headD .clean) s)

/-- The lowest FREE slab of this hub whose stack works. Which FREE slab a slab with a failing row moves to, the spec does not say (DESIGN
CHOICE, notes/assumptions/142). -/
def freeSlab (s : State) : Option Nat :=
  ((List.range 768).map (fun i => 120 + i)).find? (fun i => (bindAt s i).state = .free && stackWorks s ((i - 120) / 48))

/-- Moves a slab with a failing row to a FREE slab of this hub by a reseat of its seat (R215): decided here when this hub leads the table, and
asked of the lead hub otherwise. The tick, 200,000 ticks from now, is the model's (DESIGN CHOICE, notes/assumptions/142). -/
def slabMove (i : Nat) (s : State) : State :=
  let b := bindAt s i
  let under : Bool := match mapGet s.bnd.spareMoves i with
    | some t => decide (now s ≤ t) || s.bnd.moves.any (fun m => m.old = i)
    | none => false
  match freeSlab s, tableAt s b.table with
  | some n, some tb =>
    if under ∨ b.state ≠ .bound then s
    else
      let q : ReseatBody := { globalId := tb.globalId, seat := b.seat, kind := 2, weight := 0, newNode := s.sys.nodeId, newBinding := n,
                              t := now s + 200000 }
      let s' := { s with bnd := { s.bnd with spareMoves := mapPut s.bnd.spareMoves i q.t } }
      if tb.lead ≠ s.sys.nodeId then ctrlOut tb.lead (.reseatFwd tb.lead q) s'
      else match leadTake q none none b.table tb s' with
        | .ok s => s
        | .error _ => s
  | _, _ => s

/-- The instance of the class 0x5 draw of a stack's soft spare (DESIGN CHOICE, notes/assumptions/39). -/
def spareInst (stack : Nat) : Nat := 4096 + stack

/-- SOFT_SPARE (R214, R215): the row's entry is fenced, the row is copied corrected to a spare row under a RECOVERY draw, and the CAM entry is
set. Without a free entry, each slab that holds the failing row moves. -/
def execSoftSpare (stack : Fin 16) (row : Nat) (decs : List Decoded) (s : State) : Result :=
  memRow stack (fun s =>
    let k := stackOf s stack.val
    if coreRuns s && k.state = .working && (mapGet k.spares row).isNone && decide (row < 48 * 2 ^ 20 - 4096) then
      match (List.range 4096).find? (fun e => !k.spares.any (fun x => x.2 = e)) with
      | none => (((rowServes s stack.val row).map (fun cb => cb / 2 ^ 20)).eraseDups).foldl (fun s j => slabMove (slabIndex stack.val j) s) s
      | some e =>
        let d := copyTake (spareInst stack.val) true s
        if !d.1 then d.2
        else
          let s := mergeFlushCb stack.val row d.2
          let s := rowDecode stack.val (rowServes s stack.val row) decs s
          copyFree (spareInst stack.val) (stackMod stack.val (fun k => { k with spares := mapPut k.spares row e }) s)
    else s) s

end Sys2Proof.Machine
end

