-- ==== Sys2Proof/Machine/Startup.lean ====
section
/-! DEFINITION. Cold reset and cold start (R24, R590 to R598), the PLLs (R26 to R30, R327), hub stops (R57, R604, R605) and telemetry
(R22, R23). -/

namespace Sys2Proof.Machine

-- cold reset (R24) ------------------------------------------------------------------------------------------------------

/-- COLD_RESET (R3, R24, R604): a low level of 100 ns or more resets the hub; a shorter one is ignored. The record of the always-on domain
survives. The commands that wait and what has been sent are the model's own. -/
def execColdReset (lowNs : Nat) (s : State) : Result :=
  if lowNs < 100 then .next s
  else
    let r := State.reset
    .next { r with
      sys := { r.sys with aonValid := s.sys.aonValid, aonCause := s.sys.aonCause, aonTime := s.sys.aonTime }
      out := s.out
      fresh := s.fresh
      pending := s.pending }

/-- VDD_AON_LOSS (R604): the record and its flag are erased. -/
def execVddAonLoss (s : State) : Result :=
  .next { s with sys := { s.sys with aonValid := false, aonCause := 0, aonTime := 0 } }

/-- The hub stops (R30, R57, R604): the always-on domain records the cause. -/
def hubStop (cause : Nat) (s : State) : State :=
  if s.sys.stopped then s
  else { s with sys := { s.sys with stopped := true, timeRuns := false, aonValid := true, aonCause := cause, aonTime := now s } }

/-- REFCLK_LOSS (R57). -/
def execRefclkLoss (s : State) : Result := .next (hubStop 4 s)

-- the phases (R593) -----------------------------------------------------------------------------------------------------

/-- A phase of the cold start ends: only while it runs. -/
def phaseEnd (p : Phase) (f : State → State) (s : State) : Result :=
  if s.sys.phase = p && !s.sys.stopped then finish (f s) else .next s

/-- Goes on to a phase. -/
def phaseTo (p : Phase) (s : State) : State := { s with sys := { s.sys with phase := p } }

/-- FUSES_PHASE (R56, R590, R592): the fixed words are latched. A hub that has waited too long for FUSE_RDY stays in the phase. -/
def execFusesPhase (words : FuseWords) (s : State) : Result :=
  phaseEnd .fuses (fun s =>
    if s.sys.fuseStuck then s else phaseTo .clocks { s with sys := { s.sys with fuse := words } }) s

/-- FUSE_RDY_TIMEOUT (R592): in the Fuses phase the hub stays there; in the Stacks phase the spare stream ends, and every present stack
counts as having listed too many rows. -/
def execFuseRdyTimeout (s : State) : Result :=
  if (s.sys.phase = .fuses ∨ s.sys.phase = .stacks) ∧ !s.sys.stopped then
    .next { s with sys := { s.sys with fuseStuck := true } }
  else .next s

/-- CLOCKS_PHASE (R26, R593): the PLLs that lock; without PLL9, PLL10 or PLL11 the hub stops, and the ports of any other are FAILED. -/
def execClocksPhase (locked : BitVec 12) (s : State) : Result :=
  phaseEnd .clocks (fun s =>
    let s := { s with sys := { s.sys with pllLock := locked, timeRuns := locked.getLsbD 11 } }
    if !locked.getLsbD 9 then hubStop 1 s
    else if !locked.getLsbD 10 then hubStop 2 s
    else if !locked.getLsbD 11 then hubStop 3 s
    else
      let s := { s with sys := { s.sys with pllFailed := ~~~locked } }
      let s := (List.range 16).foldl (fun s p =>
        if locked.getLsbD (4 + p / 4) then s else lnkPortMod p (fun l => { l with state := .failed, cause := .pll }) s) s
      phaseTo .sram s) s

/-- SRAM_PHASE (R593): every SRAM of the hub is written zero; no table, entry or counter holds anything yet. -/
def execSramPhase (s : State) : Result := phaseEnd .sram (phaseTo .controlCore) s

/-- The model's number of a fused check class, 0 LIGHT to 3 MAX (R590). -/
def fusedClass : Nat → Nat
  | 1 => 0 | 3 => 2 | 4 => 3 | _ => 1

/-- The least number of check slabs for a class (R591). -/
def leastChk : Nat → Nat
  | 0 => 1 | 1 => 2 | 2 => 4 | _ => 6

/-- The check slabs of every stack (R591). -/
def fusedChk (w : FuseWords) : Nat :=
  let c := if w.chkSlabs > 8 then 8 else w.chkSlabs
  max c (leastChk (fusedClass w.checkClass))

/-- The classes and check units that Snisol sets from the fuses (R591). -/
def checkSetup (k : Nat) (s : State) : State :=
  let w := s.sys.fuse
  let c := fusedChk w
  let cls := fusedClass w.checkClass
  stackMod k (fun x => { x with
    chkSlabs := c
    slabs := (List.range (48 - c)).map (fun j => (j, { data := true, cls := cls, chkUnit := j * classUnits cls })) }) s

/-- The sources fixed to target 0. -/
def fixedSources : List Nat := [10, 11] ++ (List.range 64).map (fun m => 160 + m)

/-- CONTROL_CORE_PHASE (R576, R591, R593, R596, R605): the ROM image sets the node ID, the check classes and the fixed sources'
priorities, turns the always-on record into a dump, and lets the ports train. -/
def execControlCorePhase (s : State) : Result :=
  phaseEnd .controlCore (fun s =>
    let s := { s with sys := { s.sys with nodeId := s.sys.fuse.nodeId % 4096 } }
    let s := (List.range 16).foldl (fun s k => checkSetup k s) s
    let s := fixedSources.foldl (fun s i => irqSrcMod i (fun x => { x with prio := 8 }) s) s
    let s := aonDump s
    let s := if s.sys.pllLock.getLsbD 8 then [0, 1].foldl (fun s p => portMod p (fun h => { h with state := .training }) s) s else s
    let s := (List.range 16).foldl (fun s p => if (lnkPort s p).state = .failed then s else linkTrain p s) s
    phaseTo .stacks s) s

/-- The state in which a slab begins (R66). -/
def slabStart (s : State) (k j : Nat) : BindState :=
  match (stackOf s k).state with
  | .absent => .unavailable
  | .failed => .failed
  | .working => if j < 48 - (stackOf s k).chkSlabs then .free else .unavailable

/-- Sets the bindings of a stack's slabs as the cold start leaves them. -/
def slabsStart (k : Nat) (s : State) : State :=
  (List.range 48).foldl (fun s j => bindPut (slabIndex k j) { state := slabStart s k j } s) s

/-- STACKS_PHASE (R66, R182, R592, R593): the present stacks train, and the spare stream is read; one that does not train, or whose PLL did
not lock, is FAILED. -/
def execStacksPhase (present trained : BitVec 16) (spares : List SpareEntry) (s : State) : Result :=
  phaseEnd .stacks (fun s =>
    let s := if spares.length ≥ 65536 then { s with sys := { s.sys with fuseStuck := true } } else s
    let one (s : State) (k : Nat) : State :=
      let st : StackState :=
        if !present.getLsbD k then .absent
        else if trained.getLsbD k && s.sys.pllLock.getLsbD (k / 4) then .working else .failed
      slabsStart k (stackMod k (fun x => { x with
        state := st
        fuseRows := (spares.filter (fun e => e.stack = k)).map (fun e => e.row)
        lastRetrain := now s
        lastRefresh := now s }) s)
    phaseTo .checkers (pllGate ((List.range 16).foldl one s))) s

/-- CHECKERS_PHASE (R213, R216, R592): a working stack with too many fused rows, or whose checkers fail, is FAILED; the others' rows go
into their remap CAMs. -/
def execCheckersPhase (pass : BitVec 16) (s : State) : Result :=
  phaseEnd .checkers (fun s =>
    let one (s : State) (k : Nat) : State :=
      let x := stackOf s k
      if x.state ≠ .working then s
      else if s.sys.fuseStuck || decide (x.fuseRows.length > 4096) || !pass.getLsbD k then stackFail k s
      else
        let load (m : FMap Nat × Nat) (row : Nat) : FMap Nat × Nat :=
          if (mapGet m.1 row).isSome then m else (mapPut m.1 row m.2, m.2 + 1)
        stackMod k (fun x => { x with spares := (x.fuseRows.foldl load ([], 0)).1 }) s
    phaseTo .fill ((List.range 16).foldl one s)) s

/-- FILL_PHASE (R218): every stack that is not FAILED holds zero codeblocks under the null key. -/
def execFillPhase (s : State) : Result :=
  phaseEnd .fill (fun s => phaseTo .release { s with mem := { s.mem with cells := [], keyOf := [], poison := [] } }) s

/-- RELEASE (R593, R597): the CF ports open, and the control core is RUNNING. -/
def execRelease (s : State) : Result :=
  phaseEnd .release (fun s =>
    phaseTo .released { s with
      sys := { s.sys with cfOpen := true, coresOff := false }
      mbx := { s.mbx with core := .running, source := false } }) s

-- PLLs after cold start (R27 to R30) ------------------------------------------------------------------------------------

/-- The link ports or memory ports of a PLL. -/
def pllFour (k : Nat) : List Nat := (List.range 4).map (fun i => if k < 4 then 4 * k + i else 4 * (k - 4) + i)

/-- The requests that a memory PLL caught in flight (R28): the queues of its channel blocks. -/
def blocksLose (k : Nat) (s : State) : State :=
  (pllFour k).foldl (fun s i => if (stackOf s i).queue.isEmpty then s else
    stackMod i (fun x => { x with queue := x.queue.map (fun q => { q with lost := true }) }) s) s

/-- PLL_LOSS_OF_LOCK (R27): the loss is latched and raised; link ports go down at once, and table time holds with PLL11. -/
def execPllLossOfLock (pll : Fin 12) (s : State) : Result :=
  let k := pll.val
  if s.sys.stopped || !s.sys.pllLock.getLsbD k then .next s
  else
    let bit : BitVec 12 := BitVec.ofNat 12 (2 ^ k)
    let s := irqRaise 1 { s with sys := { s.sys with
      pllLost := s.sys.pllLost ||| bit
      pllOut := s.sys.pllOut ||| bit
      pllLock := s.sys.pllLock &&& ~~~bit
      timeRuns := s.sys.timeRuns && k ≠ 11 } }
    finish (if k < 4 then blocksLose k s else if k < 8 then (pllFour k).foldl (fun s p => linkDown p .pll s) s else s)

/-- A command on an engine that PLL10 takes from it (R327): it goes back to the head of its queue once; a SCATTER_ADD that had issued an
add, a task whose fold was lost with the scratch, or a command that loses its engine again, ends ABORTED. -/
def engineLose (e : Fin 16) (s : State) : State :=
  match (engineOf s e.val).running with
  | none => s
  | some t =>
    let s := accForget (.engine e) (anteFreeDraw 2 e.val s)
    let s := engineMod e.val (fun x => { x with running := none, state := if x.drainFor.isSome then .draining else .idle }) s
    let final : Bool := t.retried || (match t.cmd.body with
      | .scatterAdd .. => t.effect.isSome
      | .attnTask .. => true
      | .attnDecode .. => true
      | _ => false)
    if t.ended then s
    else if final then
      match t.ref, t.cmd.body with
      | some r, _ => endCommand r (.fail .aborted 0) s
      | none, _ => taskPartEnd .aborted s t
    else
      let t' : NmeTask := { t with retried := true, effect := none, last := none, parked := false }
      engineMod e.val (fun x => { x with queue := t' :: x.queue }) s

/-- The sixteen engines. -/
def allEngines : List (Fin 16) := (List.range 16).map (fun i => Fin.ofNat 16 i)

/-- Fails what was in flight in the domains of a memory PLL when they stopped, as on a failed stack (R28, R182): the pieces that await a
channel block's answer, and the requests in its queue. The blocks serve again. -/
def blocksRestart (k : Nat) (s : State) : State :=
  let mine (i : Nat) : Bool := i / 4 = k
  let cut (p : Piece) : Bool := p.target = .device && p.open_ ≠ 0 && (rangeStacks s p.pa p.len).any mine
  let lost := (s.trn.tiles.map (fun t => (t.issued.filter cut).map (fun p => (t.src, t.d.tag, p.idx)))).flatten
  let s := lost.foldl (fun s x => pieceAnswer x.1 x.2.1 x.2.2 0 .poisoned [] s) s
  let s := (pllFour k).foldl (fun s i =>
    let q := (stackOf s i).queue
    if q.isEmpty then s
    else
      let s := (q.filter (fun x => x.lost)).foldl blockServe (stackMod i (fun x => { x with queue := x.queue.filter (fun y => !y.lost) }) s)
      let x := blockTake i s
      if x.1 then blockGo i x.2 else x.2) s
  waitersRecheck s

/-- What follows a relock (R28, R30, R257, R327): link ports train again, host ports are reset, engines restart, and the control core
restarts with PLL11, after which the time base is aligned again. -/
def relockEffect (k : Nat) (s : State) : State :=
  if k < 4 then blocksRestart k s
  else if k < 8 then
    (pllFour k).foldl (fun s p => if (lnkPort s p).state = .down ∧ (lnkPort s p).cause = .pll then linkTrain p s else s) s
  else if k = 8 then [0, 1].foldl (fun s p => if (portOf s p).state = .down then s else portReset p s) s
  else if k = 9 then s
  else if k = 10 then allEngines.foldl (fun s e => engineLose e s) s
  else
    let s := { s with sys := { s.sys with timeRuns := true, codes := 0, lastCode := now s,
                                          timeState := if s.sys.srcEnable then .acquire else .free } }
    if s.mbx.core = .romBoot then (if coreBooting s then bootRestart .pll s else s) else coreFail .pll s

/-- PLL_RELOCK (R27, R28). -/
def execPllRelock (pll : Fin 12) (s : State) : Result :=
  let k := pll.val
  if s.sys.stopped || !s.sys.pllOut.getLsbD k then .next s
  else
    let bit : BitVec 12 := BitVec.ofNat 12 (2 ^ k)
    let s := { s with sys := { s.sys with pllOut := s.sys.pllOut &&& ~~~bit, pllLock := s.sys.pllLock ||| bit } }
    finish (pllGate (relockEffect k s))

/-- A link port fails with its PLL (R29, R89): the shares of it that tables hold are FAILED. -/
def linkFail (p : Nat) (s : State) : State :=
  let s := lnkPortMod p (fun l => { l with state := .failed, cause := .pll }) (linkDown p .pll s)
  (List.range 16).foldl (fun s j =>
    let i := 888 + 16 * p + j
    if (bindAt s i).state = .free then s else bindFail i s) s

/-- PLL_RELOCK_FAIL (R29, R30). -/
def execPllRelockFail (pll : Fin 12) (s : State) : Result :=
  let k := pll.val
  if s.sys.stopped || !s.sys.pllOut.getLsbD k then .next s
  else
    let s := { s with sys := { s.sys with pllFailed := s.sys.pllFailed ||| BitVec.ofNat 12 (2 ^ k) } }
    finish (
      if k < 4 then waitersRecheck ((pllFour k).foldl (fun s i => if (stackOf s i).state = .working then stackFail i s else s) s)
      else if k < 8 then (pllFour k).foldl (fun s p => linkFail p s) s
      else if k = 8 then
        [0, 1].foldl (fun s p =>
          let s := if (portOf s p).state = .down then s else portReset p s
          portsGone (portMod p (fun h => { h with state := .down }) s)) s
      else hubStop (k - 8) s)

-- telemetry (R22, R23) --------------------------------------------------------------------------------------------------

/-- The parity of a number's lowest bits. -/
def parity : Nat → Nat → Nat
  | 0, _ => 0
  | n + 1, x => (x % 2 + parity n (x / 2)) % 2

/-- Whether a telemetry frame is taken (R22): bits [2:1] are 0 and bit 0 is the even parity over the rest. -/
def frameOk (f : Nat) : Bool := bitsOf f 2 1 = 0 && parity 24 f = 0

/-- TELEMETRY_FRAME (R22, R23): the reading of a sensor, which is no longer stale. -/
def execTelemetryFrame (frame : BitVec 24) (s : State) : Result :=
  let f := frame.toNat
  if s.sys.stopped || !frameOk f then .next s
  else
    let i := bitsOf f 23 19
    let v := bitsOf f 18 3
    finish { s with sys := { s.sys with
      telStale := s.sys.telStale &&& ~~~(BitVec.ofNat 32 (2 ^ i))
      telNow := mapPut s.sys.telNow i v
      telSum := mapUp s.sys.telSum i 0 (fun x => x + v)
      telCount := mapUp s.sys.telCount i 0 (fun x => x + 1)
      telLast := mapPut s.sys.telLast i (now s) } }

/-- SENSOR_STALE (R23): 10 microseconds without a frame. -/
def execSensorStale (sensor : Fin 32) (s : State) : Result :=
  let due := match mapGet s.sys.telLast sensor.val with
    | some t => decide (now s ≥ t + 10000)
    | none => true
  if s.sys.stopped || !due then .next s
  else finish { s with sys := { s.sys with telStale := s.sys.telStale ||| BitVec.ofNat 32 (2 ^ sensor.val) } }

end Sys2Proof.Machine
end

