-- ==== Sys2Proof/Machine/TimeBase.lean ====
section
/-! DEFINITION. Table time and its alignment (R31 to R36, R52, R253, R254), the ante's own commands (R38 to R45) and the admission of
fabric transfers (R20, R21). -/

namespace Sys2Proof.Machine

-- table time ------------------------------------------------------------------------------------------------------------

/-- The renege timers advance by one tick: each runs only while its table has pending work (R374), and all are held while the control
core does not run (R508). -/
def renegeTick (s : State) : FMap Table :=
  if s.mbx.core = .running then
    s.tables.map (fun x => (x.1, if pendingWork s x.1 then { x.2 with renegeTicks := x.2.renegeTicks + 1 } else x.2))
  else s.tables

/-- Whether HOLDOVER slews at this tick, to keep the last slewed rate (the table of SYS_TIME_STAT.STATE). -/
def rateDue (s : State) : Bool :=
  s.sys.timeState = .holdover && s.sys.slewGap ≠ 0 && decide (now s ≥ s.sys.lastSlew + s.sys.slewGap)

/-- One tick of the time base (R31, R34): the count and the renege timers advance by one while it runs, but for a tick that a slew
withholds. HOLDOVER goes on adding or withholding a tick at the last slewed rate (DESIGN CHOICE what that rate is,
notes/assumptions/130). -/
def tick (s : State) : State :=
  if s.sys.timeRuns then
    if s.sys.withhold then { s with sys := { s.sys with withhold := false } }
    else if rateDue s then
      if s.sys.slewBack then { s with sys := { s.sys with lastSlew := s.sys.time } }
      else { s with sys := { s.sys with time := s.sys.time + 2, lastSlew := s.sys.time }, tables := renegeTick s }
    else { s with sys := { s.sys with time := s.sys.time + 1 }, tables := renegeTick s }
  else s

/-- Begins acquiring on a port (R36, R52). -/
def acquireOn (p : Nat) (st : TimeState) (s : State) : State :=
  { s with sys := { s.sys with timeState := st, activePort := p, codes := 0, lastCode := now s } }

/-- SYS_TIME_SRC_WRITE (R6, R52): the source and its ports; a change of PORT is acquired on PORT, a change of ALT_PORT on whichever source
is in use (DEDUCED, notes/assumptions/38), and ENABLE = 0 enters FREE without a step. -/
def execSysTimeSrcWrite (port : Fin 2) (value : BitVec 32) (s : State) : Result :=
  bar port.val true (fun s =>
    let v := value.toNat
    let s := if bitsOf v 30 13 ≠ 0 ∨ bitsOf v 7 4 ≠ 0 then swErrSet 0 0x108 s else s
    let old := s.sys
    let en := bitsOf v 31 31 = 1
    let first := bitsOf v 3 0
    let second := bitsOf v 11 8
    let s := { s with sys := { s.sys with srcEnable := en, srcAltValid := bitsOf v 12 12 = 1, srcAltPort := second, srcPort := first } }
    if !en then { s with sys := { s.sys with timeState := .free, codes := 0, withhold := false } }
    else if !old.srcEnable ∨ first ≠ old.srcPort then acquireOn first .acquire s
    else if second ≠ old.srcAltPort then
      acquireOn (if old.activePort = old.srcAltPort ∧ old.activePort ≠ first then second else first) .acquire s
    else s) s

/-- Slews by one tick, at most once in 1,000 ticks (R34): adds one when behind, withholds one when ahead. -/
def slew (off : Int) (s : State) : State :=
  if off = 0 ∨ now s < s.sys.lastSlew + 1000 then s
  else
    let sys := { s.sys with lastSlew := now s, slewGap := now s - s.sys.lastSlew, slewBack := decide (off > 0) }
    if off < 0 then { s with sys := { sys with time := s.sys.time + 1 } } else { s with sys := { sys with withhold := true } }

/-- Steps SYS_TIME forward to the source when it is behind, and slews when it is ahead (R33, R35). -/
def stepOrSlew (off : Int) (s : State) : State :=
  if off < 0 then { s with sys := { s.sys with time := s.sys.time + off.natAbs } } else slew off s

/-- A measured offset as SYS_TIME_STAT shows it. -/
def offsetShown (off : Int) : Int := max (-32767) (min 32767 off)

/-- A time code has counted (R33 to R35). -/
def codeTaken (off : Int) (s : State) : State :=
  let s := { s with sys := { s.sys with offset := offsetShown off, lastCode := now s } }
  match s.sys.timeState with
  | .locked =>
    if off.natAbs > 1000 then
      stepOrSlew off (irqRaise 2 { s with sys := { s.sys with timeFault := true } })
    else slew off s
  | _ =>
    let n := s.sys.codes + 1
    let s := { s with sys := { s.sys with codes := n, timeState := .acquire } }
    if n ≥ 4 then stepOrSlew off { s with sys := { s.sys with timeState := .locked } } else s

/-- TIME (R33 to R35, R254): a code of the active source counts when its sender is FREE or LOCKED. -/
def execTime (lp : Fin 16) (tick : Tick) (sender : TimeState) (s : State) : Result :=
  linkRow (fun s =>
    let l := lnkPort s lp.val
    if l.state ≠ .up then s
    else
      let s := lnkPortMod lp.val (fun l => { l with lastGood := now s }) s
      if !s.sys.srcEnable ∨ s.sys.activePort ≠ lp.val ∨ (sender ≠ .free ∧ sender ≠ .locked) then s
      else codeTaken ((now s : Int) - (tick : Int) - ((l.rtt / 2 : Nat) : Int)) s) s

/-- TIME_SOURCE_SILENCE (R36): 10 microseconds without a code enter HOLDOVER; the second source, or the first again, is acquired with its
next code. -/
def execTimeSourceSilence (s : State) : Result :=
  linkRow (fun s =>
    if s.sys.srcEnable && s.sys.timeState ≠ .holdover && s.sys.timeState ≠ .free && decide (now s ≥ s.sys.lastCode + 10000) then
      let s := { s with sys := { s.sys with srcLost := true } }
      acquireOn (if s.sys.srcAltValid then s.sys.srcAltPort else s.sys.srcPort) .holdover s
    else s) s

/-- The code of an alignment state (SYS_TIME_STAT.STATE). -/
def TimeState.code : TimeState → Nat
  | .free => 0 | .acquire => 1 | .locked => 2 | .holdover => 3

/-- TIME_SEND (R230, R231, R253): once every 1,000 ticks on a port that has announced time codes, as a management flit; the argument is the
tick, and the state in its two lowest bits. -/
def execTimeSend (lp : Fin 16) (s : State) : Result :=
  linkRow (fun s =>
    let l := lnkPort s lp.val
    if l.state = .up && l.timeOut && decide (now s ≥ l.timeAt + 1000) then
      let r := mgmtSend lp.val 0x51 (.link lp.val "TIME" (now s * 4 + TimeState.code s.sys.timeState)) s
      if r.1 then lnkPortMod lp.val (fun l => { l with timeAt := now s }) r.2 else r.2
    else s) s

-- the ante (R38 to R45) -------------------------------------------------------------------------------------------------

/-- The most units of a class (R38). -/
def anteMost : Nat → Nat
  | 1 => 16 | 2 => 16 | 3 => 16 | 4 => 2 | 5 => 40 | 6 => 12 | 7 => 8 | 8 => 16 | 9 => 1 | _ => 0

/-- A command of the ante arbiter, which runs in the time base's domain (R25, R27). -/
def anteRow (f : State → State) (s : State) : Result := if s.sys.stopped || !pllOn s 11 then .next s else finish (f s)

/-- A command of the fabric's admission, in its own domain (R25, R27). -/
def fabricRow (f : State → State) (s : State) : Result := if s.sys.stopped || !pllOn s 9 then .next s else finish (f s)

/-- ANTE_DRAW_REQUEST (R38 to R41). The standing draw is never asked for. -/
def execAnteDrawRequest (cls inst : Nat) (recovery : Bool) (s : State) : Result :=
  anteRow (fun s => if inst < anteMost cls then anteRequest cls inst recovery s else s) s

/-- What a granted draw lets go on: a channel block or a host port that has asked for its draw itself (R38). -/
def grantGo (d : AnteDraw) (s : State) : State :=
  if !anteHas s d.cls d.inst then s
  else if d.cls = 1 ∧ (stackOf s d.inst).drawn then (if pllOn s (d.inst / 4) then blockGo d.inst s else s)
  else if d.cls = 4 ∧ (portOf s d.inst).drawn then (if pllOn s 8 then portGo d.inst s else s)
  else s

/-- ANTE_GRANT (R40, R41): the first waiting draw, if it fits; what has waited for it goes on. -/
def execAnteGrant (s : State) : Result :=
  anteRow (fun s => match s.sys.anteWait.head? with
    | some d => cohSettle (grantGo d (anteGrantHead s))
    | none => cohSettle s) s

/-- ANTE_RELEASE (R40, R42): the operation has ended; each part returns to its pool. -/
def execAnteRelease (cls inst : Nat) (s : State) : Result := anteRow (fun s => anteFreeDraw cls inst s) s

/-- ANTE_WITHDRAW (R45): an operation that is aborted before its grant is uncharged; a granted draw is released. -/
def execAnteWithdraw (cls inst : Nat) (s : State) : Result := anteRow (fun s => anteDrop cls inst s) s

-- the fabric (R20, R21) -------------------------------------------------------------------------------------------------

/-- Whether an engine reaches its own stack's channel block by its direct path (R20). Blocks are numbered as TCK_MISDEAL.BLOCK numbers
them, and an engine, which has no number there, as 0x40 + n (DESIGN CHOICE, notes/assumptions/14). -/
def directPath (src dst : Nat) : Bool := 0x40 ≤ src && src ≤ 0x4F && dst = src - 0x40

/-- FABRIC_ADMIT (R20, R21, R372): a transfer with a credit at its destination is admitted; without one its source holds it and tries again.
The transfer that holds an escape slot frees it. -/
def execFabricAdmit (src dst vc : Nat) (credit : Bool) (s : State) : Result :=
  fabricRow (fun s =>
    let is (h : HeldTransfer) : Bool := h.src = src && h.dst = dst && h.vc = vc
    if directPath src dst then s
    else if credit then
      { s with sys := { s.sys with
        fabricSent := s.sys.fabricSent + 1
        fabricHeld := s.sys.fabricHeld.filter (fun h => !is h)
        escape := if mapGet s.sys.escape dst = some src then mapDel s.sys.escape dst else s.sys.escape } }
    else if s.sys.fabricHeld.any is ∨ mapGet s.sys.escape dst = some src then s
    else { s with sys := { s.sys with fabricHeld := s.sys.fabricHeld ++ [{ src := src, dst := dst, vc := vc, since := now s }] } }) s

end Sys2Proof.Machine
end

