-- ==== Sys2Proof/Machine/RegisterMap.lean ====
section
/-! DEFINITION. The register map of BAR0 (R5, R17, R18, and the register tables of the chapters): where each register lies, its
reserved bits, and the value that a read of it shows. -/

namespace Sys2Proof.Machine

/-- The registers of BAR0 outside the doorbell pages. -/
inductive Reg where
  | sysId | swErr | swErrAddr | sysTime | timeSrc | timeStat | pllStat | telStat | anteLimit | anteUsed | anteWaiting | anteMaxWait
  | mbxInfo | mbxWdog | mbxDump | mbxDoor | mbxStat | mbxRequest | mbxResponse
  | irqInfo | irqErr | irqSrcCfg | irqSrcStat | irqSrcCnt | irqTgtCfg | irqTgtClaim | irqTgtStat
  | pwrMode | pwrStat | pwrTotal | pwrSplit | pwrCore | pwrCntDefer | pwrSensor | pwrPhase
  | trnInfo | walkCtl | shootStat | cntMiss | cntContig | trnDenied | trnDeniedCnt | faultInfo | faultCnt | attachCnt | migCnt | trnRoot
  | memStacks | rowMode | poisonLast | memErrCnt | stkStat | slabCfg | lbCfg | lbOvf | lbOvfCnt | refill | lbLevel
  | nmeInfo | foldStat | engStat | engCmdCnt | engKvBytes | engMisplaced | engErr | engSelftest | engQdepth
  | lnkInfo | e2eCfg | dropCnt | lnkDenied | lnkDeniedCnt | lnkRoute | lnkPortStat | lnkPortRtt | lnkPortRetry | lnkPortDownCnt
  | lnkPortCredit
  | hifInfo | hostErr | hifPortStat | hifPortCfg | hifTbl | hifWin | hifHdm | ceStat | cxlComponent
  | cohInfo | cohHost | cohTimeout | cntReq | cntSnoop | cntEvict | cntCross | cntNoCache | sliceStat | cohProxy
  | tckInfo | waitStat | tckDenied | tckDeniedCnt | tckMisdeal | tckMisdealCnt | renegeLast | wakeCnt | tckErrCnt | tckTbl
  | bndInfo | staleCnt | reseatT | reseatStat | reseatBind | migStat | bndTbl | bndSeat
  deriving DecidableEq, Repr

/-- A row of the map: a register, or an array of them in blocks: the offset of the first, the step and number of the blocks, the
step and number within a block, whether it has 64 bits, and its reserved bits. -/
structure RegRow where
  reg : Reg
  base : Nat
  blockStep : Nat := 0x2000000
  blocks : Nat := 1
  step : Nat := 0x2000000
  count : Nat := 1
  wide : Bool := false
  rsv : Nat := 0

/-- A mask of bits hi..lo. -/
def maskOf (hi lo : Nat) : Nat := 2 ^ (hi + 1) - 2 ^ lo

/-- SYS and MBX. -/
def regsSys : List RegRow := [
  ⟨.sysId, 0x0, 0x2000000, 1, 0x2000000, 1, false, 0⟩,
  ⟨.swErr, 0x10, 0x2000000, 1, 0x2000000, 1, false, maskOf 31 3⟩,
  ⟨.swErrAddr, 0x18, 0x2000000, 1, 0x2000000, 1, false, maskOf 31 25⟩,
  ⟨.sysTime, 0x100, 0x2000000, 1, 0x2000000, 1, true, 0⟩,
  ⟨.timeSrc, 0x108, 0x2000000, 1, 0x2000000, 1, false, maskOf 30 13 + maskOf 7 4⟩,
  ⟨.timeStat, 0x110, 0x2000000, 1, 0x2000000, 1, false, maskOf 15 12 + maskOf 5 2⟩,
  ⟨.pllStat, 0x200, 0x2000000, 1, 0x2000000, 1, false, maskOf 31 28 + maskOf 15 12⟩,
  ⟨.telStat, 0x210, 0x2000000, 1, 0x2000000, 1, false, 0⟩,
  ⟨.anteLimit, 0x300, 0x2000000, 1, 0x2000000, 1, false, maskOf 31 11⟩,
  ⟨.anteUsed, 0x308, 0x2000000, 1, 0x2000000, 1, false, maskOf 31 23 + maskOf 15 11⟩,
  ⟨.anteWaiting, 0x310, 0x2000000, 1, 0x2000000, 1, false, 0⟩,
  ⟨.anteMaxWait, 0x318, 0x2000000, 1, 0x2000000, 1, false, 0⟩,
  ⟨.mbxInfo, 0x100000, 0x2000000, 1, 0x2000000, 1, false, maskOf 26 24⟩,
  ⟨.mbxWdog, 0x100008, 0x2000000, 1, 0x2000000, 1, false, maskOf 15 4⟩,
  ⟨.mbxDump, 0x100010, 0x2000000, 1, 0x2000000, 1, false, maskOf 31 28⟩,
  ⟨.mbxDoor, 0x110000, 0x1000, 64, 0x2000000, 1, false, maskOf 30 11⟩,
  ⟨.mbxStat, 0x110008, 0x1000, 64, 0x2000000, 1, true, maskOf 57 56 + maskOf 39 32⟩,
  ⟨.mbxRequest, 0x110100, 0x1000, 64, 4, 448, false, 0⟩,
  ⟨.mbxResponse, 0x110800, 0x1000, 64, 4, 512, false, 0⟩]

/-- IRQ and PWR. The target-0 block is a hole to the host (R586). -/
def regsIrq : List RegRow := [
  ⟨.irqInfo, 0x200000, 0x2000000, 1, 0x2000000, 1, false, maskOf 31 22 + maskOf 7 5⟩,
  ⟨.irqErr, 0x200010, 0x2000000, 1, 0x2000000, 1, false, maskOf 31 3⟩,
  ⟨.irqSrcCfg, 0x201004, 0x2000000, 1, 4, 1022, false, maskOf 30 8⟩,
  ⟨.irqSrcStat, 0x202004, 0x2000000, 1, 4, 1022, false, maskOf 27 4⟩,
  ⟨.irqSrcCnt, 0x203004, 0x2000000, 1, 4, 1022, false, 0⟩,
  ⟨.irqTgtCfg, 0x204020, 0x2000000, 1, 0x20, 8, true, maskOf 62 36⟩,
  ⟨.irqTgtClaim, 0x204028, 0x2000000, 1, 0x20, 8, false, maskOf 31 10⟩,
  ⟨.irqTgtStat, 0x204030, 0x2000000, 1, 0x20, 8, false, maskOf 29 26 + maskOf 15 11⟩,
  ⟨.pwrMode, 0x300000, 0x2000000, 1, 0x2000000, 1, false, maskOf 30 14⟩,
  ⟨.pwrStat, 0x300008, 0x2000000, 1, 0x2000000, 1, false, maskOf 29 28 + maskOf 19 13⟩,
  ⟨.pwrTotal, 0x300010, 0x2000000, 1, 0x2000000, 1, true, 0⟩,
  ⟨.pwrSplit, 0x300018, 0x2000000, 1, 0x2000000, 1, true, 0⟩,
  ⟨.pwrCore, 0x300020, 0x2000000, 1, 0x2000000, 1, false, maskOf 31 24 + maskOf 15 10⟩,
  ⟨.pwrCntDefer, 0x300028, 0x2000000, 1, 0x2000000, 1, true, 0⟩,
  ⟨.pwrSensor, 0x300100, 0x2000000, 1, 4, 32, false, maskOf 28 28⟩,
  ⟨.pwrPhase, 0x300200, 0x2000000, 1, 4, 16, false, maskOf 31 16⟩]

/-- TRN with the fault CAM, and MEM. -/
def regsTrn : List RegRow := [
  ⟨.trnInfo, 0x400000, 0x2000000, 1, 0x2000000, 1, false, maskOf 11 4⟩,
  ⟨.walkCtl, 0x400010, 0x2000000, 1, 0x2000000, 1, false, maskOf 12 7⟩,
  ⟨.shootStat, 0x400020, 0x2000000, 1, 0x2000000, 1, false, maskOf 31 25 + maskOf 15 9 + maskOf 7 5⟩,
  ⟨.cntMiss, 0x400030, 0x2000000, 1, 0x2000000, 1, true, 0⟩,
  ⟨.cntContig, 0x400038, 0x2000000, 1, 0x2000000, 1, true, 0⟩,
  ⟨.trnDenied, 0x400040, 0x2000000, 1, 0x2000000, 1, true, maskOf 50 49⟩,
  ⟨.trnDeniedCnt, 0x400048, 0x2000000, 1, 0x2000000, 1, false, 0⟩,
  ⟨.faultInfo, 0x400100, 0x2000000, 1, 0x2000000, 1, false, maskOf 31 27⟩,
  ⟨.faultCnt, 0x400108, 0x2000000, 1, 0x2000000, 1, true, 0⟩,
  ⟨.attachCnt, 0x400110, 0x2000000, 1, 0x2000000, 1, true, 0⟩,
  ⟨.migCnt, 0x400118, 0x2000000, 1, 0x2000000, 1, true, 0⟩,
  ⟨.trnRoot, 0x401000, 0x2000000, 1, 8, 256, true, maskOf 61 60 + maskOf 11 0⟩,
  ⟨.memStacks, 0x500000, 0x2000000, 1, 0x2000000, 1, false, 0⟩,
  ⟨.rowMode, 0x500010, 0x2000000, 1, 0x2000000, 1, true, maskOf 63 48⟩,
  ⟨.poisonLast, 0x500020, 0x2000000, 1, 0x2000000, 1, true, maskOf 62 56 + maskOf 47 30⟩,
  ⟨.memErrCnt, 0x500028, 0x2000000, 1, 0x2000000, 1, true, 0⟩,
  ⟨.stkStat, 0x580000, 0x8000, 16, 0x2000000, 1, false, maskOf 23 21⟩,
  ⟨.slabCfg, 0x580100, 0x8000, 16, 4, 48, false, maskOf 30 18 + maskOf 15 9⟩,
  ⟨.lbCfg, 0x580200, 0x8000, 16, 0x2000000, 1, false, maskOf 27 21⟩,
  ⟨.lbOvf, 0x580208, 0x8000, 16, 0x2000000, 1, true, maskOf 62 41⟩,
  ⟨.lbOvfCnt, 0x580210, 0x8000, 16, 0x2000000, 1, false, 0⟩,
  ⟨.refill, 0x580218, 0x8000, 16, 0x2000000, 1, false, maskOf 30 22 + maskOf 15 3⟩,
  ⟨.lbLevel, 0x581000, 0x8000, 16, 4, 512, false, maskOf 31 16⟩]

/-- NME and LNK. -/
def regsNme : List RegRow := [
  ⟨.nmeInfo, 0x600000, 0x2000000, 1, 0x2000000, 1, false, 0⟩,
  ⟨.foldStat, 0x600010, 0x2000000, 1, 0x2000000, 1, false, maskOf 31 27 + maskOf 15 7⟩,
  ⟨.engStat, 0x610000, 0x1000, 16, 0x2000000, 1, false, 0⟩,
  ⟨.engCmdCnt, 0x610010, 0x1000, 16, 0x2000000, 1, true, 0⟩,
  ⟨.engKvBytes, 0x610018, 0x1000, 16, 0x2000000, 1, true, 0⟩,
  ⟨.engMisplaced, 0x610020, 0x1000, 16, 0x2000000, 1, true, 0⟩,
  ⟨.engErr, 0x610028, 0x1000, 16, 0x2000000, 1, true, maskOf 62 56⟩,
  ⟨.engSelftest, 0x610030, 0x1000, 16, 0x2000000, 1, true, maskOf 61 48⟩,
  ⟨.engQdepth, 0x610100, 0x1000, 16, 4, 16, false, maskOf 31 7⟩,
  ⟨.lnkInfo, 0x700000, 0x2000000, 1, 0x2000000, 1, false, maskOf 15 8⟩,
  ⟨.e2eCfg, 0x700010, 0x2000000, 1, 0x2000000, 1, false, maskOf 31 18⟩,
  ⟨.dropCnt, 0x700018, 0x2000000, 1, 0x2000000, 1, true, 0⟩,
  ⟨.lnkDenied, 0x700020, 0x2000000, 1, 0x2000000, 1, true, maskOf 39 20⟩,
  ⟨.lnkDeniedCnt, 0x700028, 0x2000000, 1, 0x2000000, 1, false, 0⟩,
  ⟨.lnkRoute, 0x704000, 0x2000000, 1, 4, 4096, false, maskOf 29 12 + maskOf 7 4⟩,
  ⟨.lnkPortStat, 0x710000, 0x1000, 16, 0x2000000, 1, false, maskOf 14 12⟩,
  ⟨.lnkPortRtt, 0x710008, 0x1000, 16, 0x2000000, 1, false, maskOf 31 16⟩,
  ⟨.lnkPortRetry, 0x710010, 0x1000, 16, 0x2000000, 1, true, 0⟩,
  ⟨.lnkPortDownCnt, 0x710018, 0x1000, 16, 0x2000000, 1, false, 0⟩,
  ⟨.lnkPortCredit, 0x710020, 0x1000, 16, 0x2000000, 1, false, maskOf 31 28 + maskOf 15 12⟩]

/-- HIF and COH. -/
def regsHif : List RegRow := [
  ⟨.hifInfo, 0x800000, 0x2000000, 1, 0x2000000, 1, false, maskOf 7 0⟩,
  ⟨.hostErr, 0x800010, 0x2000000, 1, 0x2000000, 1, true, maskOf 49 47⟩,
  ⟨.hifPortStat, 0x800100, 0x40, 2, 0x2000000, 1, false, 0⟩,
  ⟨.hifPortCfg, 0x800108, 0x40, 2, 0x2000000, 1, false, maskOf 30 3⟩,
  ⟨.hifTbl, 0x801000, 0x2000000, 1, 8, 256, true, maskOf 60 40⟩,
  ⟨.hifWin, 0x802000, 0x2000000, 1, 8, 64, true, maskOf 61 57 + maskOf 23 8⟩,
  ⟨.hifHdm, 0x802400, 0x2000000, 1, 8, 2, true, maskOf 61 57 + maskOf 29 8⟩,
  ⟨.ceStat, 0x803000, 0x2000000, 1, 4, 40, false, maskOf 11 0⟩,
  ⟨.cxlComponent, 0x810000, 0x10000, 2, 4, 16384, false, 0⟩,
  ⟨.cohInfo, 0x900000, 0x2000000, 1, 0x2000000, 1, false, maskOf 10 8⟩,
  ⟨.cohHost, 0x900008, 0x2000000, 1, 0x2000000, 1, false, maskOf 31 4⟩,
  ⟨.cohTimeout, 0x900010, 0x2000000, 1, 0x2000000, 1, true, maskOf 52 48 + maskOf 7 1⟩,
  ⟨.cntReq, 0x900020, 0x2000000, 1, 0x2000000, 1, true, 0⟩,
  ⟨.cntSnoop, 0x900028, 0x2000000, 1, 0x2000000, 1, true, 0⟩,
  ⟨.cntEvict, 0x900030, 0x2000000, 1, 0x2000000, 1, true, 0⟩,
  ⟨.cntCross, 0x900038, 0x2000000, 1, 0x2000000, 1, true, 0⟩,
  ⟨.cntNoCache, 0x900040, 0x2000000, 1, 0x2000000, 1, true, 0⟩,
  ⟨.sliceStat, 0x900100, 0x2000000, 1, 8, 8, false, maskOf 30 25 + maskOf 15 11⟩,
  ⟨.cohProxy, 0x900200, 0x2000000, 1, 8, 4, true, maskOf 62 44⟩]

/-- TCK and BND. -/
def regsTck : List RegRow := [
  ⟨.tckInfo, 0xA00000, 0x2000000, 1, 0x2000000, 1, true, maskOf 15 13⟩,
  ⟨.waitStat, 0xA00008, 0x2000000, 1, 0x2000000, 1, false, maskOf 31 31 + maskOf 15 15 + maskOf 7 1⟩,
  ⟨.tckDenied, 0xA00010, 0x2000000, 1, 0x2000000, 1, true, maskOf 39 32⟩,
  ⟨.tckDeniedCnt, 0xA00018, 0x2000000, 1, 0x2000000, 1, false, 0⟩,
  ⟨.tckMisdeal, 0xA00020, 0x2000000, 1, 0x2000000, 1, true, maskOf 62 56 + maskOf 39 32⟩,
  ⟨.tckMisdealCnt, 0xA00028, 0x2000000, 1, 0x2000000, 1, false, 0⟩,
  ⟨.renegeLast, 0xA00030, 0x2000000, 1, 0x2000000, 1, true, maskOf 62 56 + maskOf 45 32⟩,
  ⟨.wakeCnt, 0xA00038, 0x2000000, 1, 0x2000000, 1, true, 0⟩,
  ⟨.tckErrCnt, 0xA00040, 0x2000000, 1, 0x2000000, 1, false, 0⟩,
  ⟨.tckTbl, 0xA01000, 0x2000000, 1, 8, 256, true, maskOf 62 60 + maskOf 29 24⟩,
  ⟨.bndInfo, 0xB00000, 0x2000000, 1, 0x2000000, 1, false, maskOf 13 9⟩,
  ⟨.staleCnt, 0xB00010, 0x2000000, 1, 0x2000000, 1, false, 0⟩,
  ⟨.reseatT, 0xB00400, 0x2000000, 1, 16, 64, true, 0⟩,
  ⟨.reseatStat, 0xB00408, 0x2000000, 1, 16, 64, true, maskOf 17 11⟩,
  ⟨.migStat, 0xB00800, 0x2000000, 1, 8, 8, true, maskOf 61 56 + maskOf 29 11⟩,
  ⟨.reseatBind, 0xB00C00, 0x2000000, 1, 4, 64, false, maskOf 30 27 + maskOf 14 11⟩,
  ⟨.bndTbl, 0xB01000, 0x2000000, 1, 4, 2048, false, 0⟩,
  ⟨.bndSeat, 0xB04000, 0x2000000, 1, 8, 1400, true, maskOf 11 0⟩]

/-- Every row. -/
def regRows : List RegRow := regsSys ++ regsIrq ++ regsTrn ++ regsNme ++ regsHif ++ regsTck

/-- The place of a row's register that covers the 4 bytes at an offset: its block, its index there, and its half (R608). -/
def RegRow.place (r : RegRow) (off : Nat) : Option (Nat × Nat × Nat) :=
  let d := off - r.base
  let j := d / r.blockStep
  let e := d % r.blockStep
  let i := e / r.step
  let b := e % r.step
  if r.base ≤ off ∧ j < r.blocks ∧ i < r.count ∧ b < (if r.wide then 8 else 4) then some (j, i, b / 4) else none

/-- A register touched by an access: its row, block and index, the half of it at the offset. -/
structure RegAt where
  row : RegRow
  block : Nat
  index : Nat
  half : Nat

/-- The register that covers the 4 bytes at an offset, if one is placed there. -/
def regAt (off : Nat) : Option RegAt :=
  regRows.findSome? (fun r => match r.place off with
    | some (j, i, h) => some ⟨r, j, i, h⟩
    | none => none)

/-- The offset of a register. -/
def RegAt.offset (a : RegAt) : Nat := a.row.base + a.row.blockStep * a.block + a.row.step * a.index

-- what a read shows -----------------------------------------------------------------------------------------------------

/-- A field of a register: a value in bits hi..lo. -/
def fld (hi lo v : Nat) : Nat := v % 2 ^ (hi + 1 - lo) * 2 ^ lo

/-- A flag of a register. -/
def flag (i : Nat) (b : Bool) : Nat := b2n b * 2 ^ i

/-- The mask of the numbers below a bound that have a property. -/
def bitmapOf (n : Nat) (p : Nat → Bool) : Nat := ((List.range n).map (fun k => flag k (p k))).sum

/-- State codes of the register tables. -/
def timeCode : TimeState → Nat
  | .free => 0 | .acquire => 1 | .locked => 2 | .holdover => 3
def portCode : PortState → Nat
  | .down => 0 | .training => 1 | .negotiate => 2 | .up => 3 | .failed => 4
def downCode : DownCause → Nat
  | .none => 0 | .phy => 1 | .retry => 2 | .silence => 3 | .version => 4 | .pll => 5 | .disabled => 6
def hostCode : HostState → Nat
  | .down => 0 | .resetting => 1 | .training => 2 | .up => 3 | .d3hot => 4
/-- The state of a port as HIF_PORT_STAT shows it: an endpoint reset lasts 1 µs (R491; DESIGN CHOICE, notes/assumptions/78). -/
def hostShown (s : State) (h : HostPort) : HostState := if portTrains s h then .training else h.state
def stackCode : StackState → Nat
  | .absent => 0 | .working => 1 | .failed => 2
def bindCode : BindState → Nat
  | .free => 0 | .bound => 1 | .armed => 2 | .suspended => 3 | .migrating => 4 | .aliased => 5 | .refill => 6 | .failed => 7
  | .unavailable => 8
def coreCode : CoreState → Nat
  | .romBoot => 0 | .running => 1 | .restarting => 2 | .handover => 3
def classCode : PwrClass → Nat
  | .unused => 0 | .link => 1 | .memory => 2 | .hub => 3 | .compute => 4 | .other => 5
def reseatCode : ReseatPhase → Nat
  | .idle => 0 | .accepted => 1 | .committed => 2 | .noDecision => 3

/-- NME_ENG_STAT.STATE: a stopped PLL10 stops every engine that has not failed. -/
def engineCode (s : State) (e : Engine) : Nat :=
  match e.state with
  | .failed => 5
  | st => if s.sys.pllOut.getLsbD 10 then 6 else
    match st with
    | .draining => 3 | .selftest => 4 | .stopped => 6
    | .waitAnte => if e.running.isSome then 1 else 2
    | .running => 1
    | .idle => if e.running.isSome then 1 else 0
    | .failed => 5

/-- SYS_ID at stepping B0 (R49). -/
def sysIdValue : Nat := 0x584D03B0

/-- The bound seats of a table on this hub between two binding indices. -/
def seatsBound (s : State) (t lo hi : Nat) : Nat :=
  (s.bnd.seats.filter (fun x => decide (lo ≤ x.1 ∧ x.1 < hi) && x.2.state = .bound && x.2.table = t)).length

/-- The carriers that hold seats of a table, by this hub's copy of its directory; a table whose seats are not bound yet stands on its own
carrier (R63). -/
def seatCarriers (tb : Table) : Nat := max 1 ((tb.dir.filter (fun x => x.2.epoch ≠ 0)).map (fun x => x.2.node)).eraseDups.length

/-- The descriptor of a table slot (R63); a free slot reads as zeros. -/
def tableDescriptor (s : State) (t : Nat) : List Byte :=
  match tableAt s t with
  | none => List.replicate 32 0
  | some tb =>
    leBytes 4 tb.globalId ++ leBytes 2 tb.tenant ++ leBytes 2 tb.keySlot ++ leBytes 2 tb.lead
      ++ leBytes 1 (if tb.destroying then 2 else 1) ++ leBytes 1 0 ++ leBytes 2 (seatsBound s t 0 1400) ++ leBytes 2 (seatCarriers tb)
      ++ leBytes 8 tb.created ++ leBytes 8 0

/-- A response as the response area shows it (R515). -/
def Response.bytes (r : Response) : List Byte :=
  leBytes 2 r.opcode ++ leBytes 1 r.status.code ++ leBytes 1 r.detail ++ leBytes 4 r.seq ++ leBytes 4 r.body.length ++ leBytes 4 r.handle
    ++ leBytes 8 r.time ++ leBytes 8 0 ++ r.body

/-- The index of a move's alias entry, in order of creation among the moves of the hub. -/
def aliasIndex (s : State) (m : ChannelMove) : Nat := (s.bnd.moves.takeWhile (fun x => x.old ≠ m.old)).length

/-- Values of SYS and MBX registers. -/
def valSys (r : Reg) (j i : Nat) (s : State) : Nat :=
  match r with
  | .sysId => sysIdValue
  | .swErr => s.sys.swErr.toNat
  | .swErrAddr => s.sys.swErrAddr.toNat
  | .sysTime => s.sys.time
  | .timeSrc => flag 31 s.sys.srcEnable + flag 12 s.sys.srcAltValid + fld 11 8 s.sys.srcAltPort + fld 3 0 s.sys.srcPort
  | .timeStat => fld 31 16 (s.sys.offset % 65536).toNat + fld 11 8 s.sys.activePort + flag 7 s.sys.timeFault + flag 6 s.sys.srcLost
      + timeCode s.sys.timeState
  | .pllStat => fld 27 16 s.sys.pllLost.toNat + s.sys.pllLock.toNat
  | .telStat => s.sys.telStale.toNat
  | .anteLimit => s.sys.anteLimit
  | .anteUsed => fld 22 16 (anteKitty s) + fld 10 0 (anteUsed s)
  | .anteWaiting => fld 31 16 (s.sys.anteWait.filter (fun d => d.recovery)).length
      + fld 15 0 (s.sys.anteWait.filter (fun d => !d.recovery)).length
  | .anteMaxWait => s.sys.anteMaxWait
  | .mbxInfo => fld 31 28 (coreCode s.mbx.core) + flag 27 s.mbx.source + fld 23 16 0x10 + fld 15 8 s.mbx.generation + 0x40
  | .mbxWdog => fld 31 16 s.mbx.restarts + fld 3 0 (CoreCause.code s.mbx.lastCause)
  | .mbxDump => fld 27 24 (bitmapOf 4 (fun k => (mapGet s.mbx.dumps k).isSome))
      + fld 23 0 ((s.mbx.dumps.map (fun x => x.2.seq)).foldl max 0)
  | .mbxStat =>
    let b := boxOf s j
    fld 63 60 (if b.busy then 1 else if b.done then 2 else 0) + flag 59 (decide (j < 4)) + flag 58 b.assigned.isSome
      + fld 55 48 (b.assigned.getD 0) + fld 47 40 b.version + fld 31 0 b.lastSeq
  | .mbxRequest => leNat ((List.range 4).map (fun k => mapGetD s.mbx.area (j * 4096 + 0x100 + 4 * i + k) 0))
  | .mbxResponse => (match (boxOf s j).resp with
      | some r => fieldAt r.bytes (4 * i) 4
      | none => 0)
  | _ => 0

/-- Values of IRQ and PWR registers. -/
def valIrq (r : Reg) (i : Nat) (s : State) : Nat :=
  let x := irqSrcOf s (i + 1)
  let g := irqTgtOf s (i + 1)
  match r with
  | .irqInfo => fld 21 12 0x3FE + fld 11 8 9 + 0x10
  | .irqErr => flag 2 s.irq.errTarget + flag 1 s.irq.errEvent + flag 0 s.irq.errComplete
  | .irqSrcCfg => flag 31 (irqFixed (i + 1)) + fld 7 4 x.target + fld 3 0 x.prio
  | .irqSrcStat => flag 31 (irqLevel s (i + 1)) + flag 30 (irqPending s (i + 1)) + flag 29 x.insvc.isSome
      + flag 28 (irqLatched (i + 1) && x.latch) + fld 3 0 (x.insvc.getD 0)
  | .irqSrcCnt => x.count
  | .irqTgtCfg => flag 63 g.valid + fld 35 32 g.threshold + fld 31 0 g.event
  | .irqTgtStat => flag 31 g.armed + flag 30 g.held + fld 25 16 (irqTop s (i + 1))
      + fld 10 0 (s.irq.srcs.filter (fun x => x.2.insvc = some (i + 1))).length
  | .pwrMode => flag 31 s.pwr.mode + fld 13 0 s.pwr.periodUs
  | .pwrStat => flag 31 s.pwr.distrust + flag 30 s.pwr.capUnmet + fld 27 24 s.pwr.rate + fld 23 20 s.pwr.run
      + fld 12 0 ((s.pwr.cores.map (fun x => bitmapCount x.2)).sum)
  | .pwrTotal => fld 63 48 s.pwr.estimate + fld 47 32 s.pwr.measured + fld 31 16 s.pwr.allowance + fld 15 0 s.pwr.cap
  | .pwrSplit => fld 63 48 s.pwr.link + fld 47 32 s.pwr.memory + fld 31 16 s.pwr.hub + fld 15 0 s.pwr.compute
  | .pwrCore => fld 23 16 s.pwr.parkUs + fld 9 0 s.pwr.coreMw
  | .pwrCntDefer => s.pwr.cntDefer
  | .pwrSensor =>
    let c : Sensor := mapGetD s.pwr.sensors i {}
    fld 31 29 (classCode c.cls) + fld 27 16 c.mv + fld 15 0 c.max
  | .pwrPhase => fld 15 0 (mapGetD s.pwr.phases i 0)
  | _ => 0
where
  /-- The number of bits set of a core mask. -/
  bitmapCount (m : Nat) : Nat := ((List.range 64).filter (fun k => m.testBit k)).length

/-- Values of TRN and MEM registers. -/
def valTrn (r : Reg) (j i : Nat) (s : State) : Nat :=
  let k := stackOf s j
  match r with
  | .trnInfo => fld 31 20 s.sys.nodeId + fld 19 12 0x60 + 0xF
  | .walkCtl => fld 31 24 s.trn.walks.length + fld 23 13 s.trn.missQ.length + fld 6 0 s.trn.tableMax
  | .shootStat => fld 24 16 s.trn.shootQ.length + flag 8 s.trn.shootTimeout + fld 4 0 s.trn.shoot.length
  | .cntMiss => s.trn.cntMiss
  | .cntContig => s.trn.cntContig
  | .trnDenied => fld 63 56 (if s.trn.denNoTable then 0 else s.trn.denTable) + fld 55 52 s.trn.denSource + flag 51 s.trn.denNoTable
      + flag 48 s.trn.denValid + fld 47 0 s.trn.denPa
  | .trnDeniedCnt => s.trn.denCnt
  | .faultInfo => fld 26 22 (s.trn.moves.filter (fun m => m.running)).length + fld 21 10 (min 4095 (s.trn.overflow.map (fun f => f.ctx)).eraseDups.length)
      + fld 9 0 s.trn.cam.length
  | .faultCnt => s.trn.faultCnt
  | .attachCnt => s.trn.attachCnt
  | .migCnt => fld 63 32 s.trn.migToHost + fld 31 0 s.trn.migToDevice
  | .trnRoot => (match (tableAt s i).bind (fun t => t.root) with
      | some (frame, ad) => flag 63 true + flag 62 ad + fld 59 12 frame
      | none => 0)
  | .memStacks => fld 31 16 (bitmapOf 16 (fun n => (stackOf s n).state ≠ .absent)) + bitmapOf 16 (fun n => (stackOf s n).state = .failed)
  | .rowMode => s.mem.rowLocal.toNat
  | .poisonLast => flag 63 s.mem.poisonValid + fld 55 48 s.mem.poisonTable + fld 29 26 s.mem.poisonStack + fld 25 0 s.mem.poisonRow
  | .memErrCnt => fld 63 32 s.mem.corrected + fld 31 0 s.mem.uncorrectable
  | .stkStat => fld 31 30 (stackCode k.state) + flag 29 k.scrubbing + flag 28 (!k.retrainFor.isEmpty) + fld 27 24 k.chkSlabs
      + fld 20 8 k.spares.length + fld 7 0 k.merge.length
  | .slabCfg =>
    let c := slabCfg s j i
    flag 31 c.data + fld 17 16 c.cls + fld 8 0 c.chkUnit
  | .lbCfg => fld 31 28 k.weightHigh + fld 20 16 k.leakExp + fld 15 0 k.threshold
  | .lbOvf => flag 63 k.ovfValid + fld 40 32 k.ovfBucket + fld 31 0 k.ovfTick
  | .lbOvfCnt => k.ovfCnt
  | .refill => flag 31 (!k.refills.isEmpty) + fld 21 16 (match k.refills with
    | .slab j :: _ => j
    | _ => 0) + fld 2 0 k.share
  | .lbLevel => fld 15 0 (mapGetD (levelsDown (leaksDue s j) k.levels) i 0)
  | _ => 0

/-- Values of NME and LNK registers. -/
def valNme (r : Reg) (j i : Nat) (s : State) : Nat :=
  let e := engineOf s j
  let p := lnkPort s j
  match r with
  | .nmeInfo => fld 31 24 0x10 + fld 23 16 8 + 0x2000
  | .foldStat => fld 26 16 (s.nme.folds.filter (fun f => f.2.isOpen)).length + fld 6 0 s.nme.subs.length
  | .engStat => fld 31 28 (engineCode s e) + fld 7 0 (foldUsed s j)
      + (match e.running with
        | some t => fld 27 24 t.share + fld 23 16 t.table + fld 15 8 (nmeOpcode t.cmd.body)
        | none => 0)
  | .engCmdCnt => e.cmdCnt
  | .engKvBytes => e.kvBytes
  | .engMisplaced => e.misplaced
  | .engErr => flag 63 e.errValid + fld 55 48 e.errStatus.code + fld 47 40 e.errOpcode + fld 39 32 e.errTable + fld 31 0 e.errTag
  | .engSelftest => fld 63 62 e.testResult + fld 47 0 e.testEnd
  | .engQdepth => fld 6 0 (e.queue.filter (fun t => t.share = i)).length
  | .lnkInfo => fld 31 16 (bitmapOf 16 (fun n => (lnkPort s n).state = .up)) + 8
  | .e2eCfg => fld 17 8 s.lnk.giveup + fld 7 0 s.lnk.timeout
  | .dropCnt => s.lnk.dropCnt
  | .lnkDenied => fld 63 48 s.lnk.denTenant + fld 47 44 s.lnk.denPort + fld 43 41 s.lnk.denVc + flag 40 s.lnk.denValid
      + fld 19 12 s.lnk.denType + fld 11 0 s.lnk.denSrc
  | .lnkDeniedCnt => s.lnk.denCnt
  | .lnkRoute =>
    let x : RouteEntry := mapGetD s.lnk.routes i {}
    flag 31 x.valid + flag 30 x.altValid + fld 11 8 x.alt + fld 3 0 x.port
  | .lnkPortStat => fld 31 28 (portCode p.state) + fld 27 24 (downCode p.cause) + fld 23 16 p.partnerVersions + flag 15 p.timeIn
      + fld 11 0 p.partner
  | .lnkPortRtt => min 65535 p.rtt
  | .lnkPortRetry => fld 63 32 p.resent + fld 31 0 p.crcErr
  | .lnkPortDownCnt => p.downCnt
  | .lnkPortCredit => fld 27 16 ((p.credDedicated.map (fun x => x.2)).sum + p.credShared) + fld 11 0 p.rxUsed
  | _ => 0

/-- HIF_WIN and HIF_HDM share their shape. -/
def winValue (w : WinEntry) (second : Bool) (lo : Nat) : Nat :=
  flag 63 w.valid + flag 62 second + fld 56 lo (w.va / 2 ^ lo) + fld 7 0 w.table

/-- Values of HIF and COH registers. The contents of the CXL component registers are CXL's own and are not modelled. -/
def valHif (r : Reg) (j i : Nat) (s : State) : Nat :=
  let h := portOf s j
  match r with
  | .hifInfo => fld 31 24 0x40 + fld 23 18 0x10 + fld 17 12 0x10 + fld 11 8 8
  | .hostErr => flag 63 s.hif.errValid + fld 62 62 s.hif.errPort + fld 61 58 s.hif.errKind + fld 57 50 s.hif.errTable
      + fld 46 0 s.hif.errAddr
  | .hifPortStat =>
    let up := decide (h.state = .up)
    fld 31 28 (hostCode (hostShown s h)) + flag 27 h.cxl + (if up then fld 26 24 h.speed + fld 23 19 h.width else 0) + flag 18 h.bme
      + flag 17 h.mse + flag 16 h.msix + fld 15 0 h.resets
  | .hifPortCfg => flag 31 h.cxlAllow + fld 2 0 h.maxSpeed
  | .hifTbl =>
    let t : HifTbl := mapGetD s.hif.tbl i {}
    flag 63 t.att1 + flag 62 t.att0 + fld 61 61 t.primary + fld 39 20 t.pasid1 + fld 19 0 t.pasid0
  | .hifWin =>
    let w : WinEntry := mapGetD s.hif.win i {}
    winValue w w.write 24
  | .hifHdm =>
    let w : WinEntry := mapGetD s.hif.hdm i {}
    winValue w w.split 30
  | .ceStat =>
    let c : CopyEngine := mapGetD s.hif.ce i {}
    let chans := (s.obj.channels.filter (fun x => x.2.engine = i)).length
    fld 31 28 (if c.waitPort then 3 else if c.busy.isSome then (if c.moved || anteHas s 5 i then 1 else 2) else 0)
      + fld 27 20 (match c.busy with
        | some ch => (match mapGet s.obj.channels (hIdx ch) with
          | some x => x.table
          | none => 0)
        | none => 0)
      + fld 19 12 (min 255 chans)
  | .cohInfo => fld 31 28 8 + fld 27 23 0x10 + fld 22 11 0x800 + 0x80
  | .cohHost => s.coh.hostEnabled.toNat
  | .cohTimeout => flag 63 s.coh.toValid + fld 62 56 s.coh.toAgent + fld 55 53 (lineSlice s.coh.toLine) + fld 47 8 s.coh.toLine
      + flag 0 s.coh.toPoisoned
  | .cntReq => s.coh.cntReq
  | .cntSnoop => s.coh.cntSnoop
  | .cntEvict => s.coh.cntEvict
  | .cntCross => s.coh.cntCross
  | .cntNoCache => s.coh.cntNoCache
  | .sliceStat => flag 31 (anteHas s 7 i) + fld 24 16 (s.coh.retry.filter (fun x => lineSlice x.2.line = i)).length
      + fld 10 0 (sliceOpen s i)
  | .cohProxy =>
    let q : Proxy := mapGetD s.coh.proxies i {}
    let lists (e : DirEntry) : Bool := e.state ≠ .i && ((124 + i) ∈ e.presence || ((e.state = .e || e.state = .m) && e.owner = 124 + i))
    flag 63 q.valid + fld 43 32 q.node + fld 31 0 (s.coh.dir.filter (fun x => !x.2.proxy && lists x.2)).length
  | _ => 0

/-- Values of TCK and BND registers. -/
def valTck (r : Reg) (i : Nat) (s : State) : Nat :=
  let k : ReseatSlot := mapGetD s.bnd.slots i {}
  match r with
  | .tckInfo => fld 63 32 0x40000 + fld 31 16 0x4000 + 0x1000
  | .waitStat => fld 30 16 s.tck.waiters.length + fld 14 8 s.tck.ramp.length + flag 0 s.tck.rampActive
  | .tckDenied => fld 63 48 s.tck.denTenant + fld 47 44 s.tck.denSource + fld 43 41 s.tck.denOp + flag 40 s.tck.denValid
      + fld 31 0 s.tck.denCounter
  | .tckDeniedCnt => s.tck.denCnt
  | .tckMisdeal => flag 63 s.tck.misValid + fld 55 48 s.tck.misBlock + fld 47 45 s.tck.misVc + fld 44 40 s.tck.misLength
      + fld 31 0 s.tck.misTick
  | .tckMisdealCnt => s.tck.misCnt
  | .renegeLast => flag 63 s.tck.renValid + fld 55 48 s.tck.renTable + fld 47 46 s.tck.renOutcome + fld 31 0 s.tck.renTick
  | .wakeCnt => s.tck.wakeCnt
  | .tckErrCnt => s.tck.errCnt
  | .tckTbl => (match tableAt s i with
      | some t => flag 63 true + fld 59 45 t.quota + fld 44 30 (s.tck.waiters.filter (fun w => w.table = i)).length
          + fld 23 16 t.reneges + fld 15 0 t.renegeMs
      | none => fld 59 45 4096 + fld 15 0 1000)
  | .bndInfo => fld 31 21 s.bnd.moves.length + fld 20 14 (s.bnd.slots.filter (fun x => x.2.phase ≠ .idle)).length
      + fld 8 0 s.tables.length
  | .staleCnt => s.bnd.staleCnt
  | .reseatT => if k.phase = .idle then 0 else k.t
  | .reseatStat => fld 63 48 k.newEpoch + fld 47 32 k.seat + fld 31 24 k.table + fld 23 20 (reseatCode k.phase) + flag 19 k.oldHere
      + flag 18 k.newHere + fld 10 0 (if k.oldHere then k.old else if k.newHere then k.new else 0)
  | .reseatBind => flag 31 k.oldHere + fld 26 16 (if k.oldHere then k.old else 0) + flag 15 k.newHere
      + fld 10 0 (if k.newHere then k.new else 0)
  | .migStat => (match (s.bnd.moves.filter (fun m => m.running || m.done))[i]? with
      | some m => fld 63 62 (if m.done then 2 else 1) + fld 55 41 m.granules + fld 40 30 (aliasIndex s m) + fld 10 0 m.old
      | none => 0)
  | .bndTbl => fieldAt (tableDescriptor s (i / 8)) (4 * (i % 8)) 4
  | .bndSeat =>
    let b := bindAt s i
    fld 63 48 b.epoch + fld 47 32 b.seat + fld 31 24 b.table + fld 23 16 b.weight + fld 15 12 (bindCode b.state)
  | _ => 0

/-- The value that a read of a register shows. Reserved bits read 0 (R5). -/
def regValue (r : Reg) (j i : Nat) (s : State) : Nat :=
  valSys r j i s + valIrq r i s + valTrn r j i s + valNme r j i s + valHif r j i s + valTck r i s

-- doorbell pages (R355, R357, R421, R453) ------------------------------------------------------------------------------

/-- HIF_DB_POS of a slot bound to a queue or an event: the fetch position with its phase, or the producer position. -/
def slotPos (h : Handle) (s : State) : Nat :=
  if hKind h = 2 then
    match queueOf s h with
    | some q => flag 31 (phaseAt q.fetchPos q.size) + fld 16 0 q.fetchPos
    | none => 0
  else
    match eventOf s h with
    | some e => fld 16 0 e.prod
    | none => 0

/-- HIF_DB_STAT of a slot bound to a queue or an event. -/
def slotStat (h : Handle) (s : State) : Nat :=
  if hKind h = 2 then
    match queueOf s h with
    | some q => fld 63 60 (QueueState.code q.state) + fld 59 52 q.err + fld 48 32 q.retire + fld 31 0 h
    | none => 0
  else
    match eventOf s h with
    | some e => fld 63 60 (if e.destroying then 5 else 1) + fld 59 52 (if e.errRange then Status.code .range else 0) + fld 31 0 h
    | none => 0

/-- The 4 bytes at an offset of the doorbell pages: a slot's registers, or the counter of a window (R355, R357); 0 in a hole (R18). -/
def pageShown (off : Nat) (s : State) : Nat :=
  let page := (off - 0x1000000) / 0x1000
  let r := off % 0x1000
  if r < 0x800 then
    match mapGet s.obj.pages page, mapGet s.obj.dbSlots (page * 128 + r / 16) with
    | some _, some h =>
      if r % 16 < 4 then slotPos h s else if r % 16 < 8 then 0 else slotStat h s / 2 ^ (32 * ((r % 16 - 8) / 4)) % 2 ^ 32
    | _, _ => 0
  else
    match windowCounter s page ((r - 0x800) / 16) with
    | some (_, i) => counterShown s i / 2 ^ (32 * (r % 8 / 4)) % 2 ^ 32
    | none => 0

/-- The 4 bytes that a read of an offset shows; 0 where no register is placed (R18), and of a write-only one. -/
def wordShown (off : Nat) (s : State) : Nat :=
  if off < 0x1000000 then
    match regAt off with
    | some a => regValue a.row.reg a.block a.index s / 2 ^ (32 * a.half) % 2 ^ 32
    | none => 0
  else pageShown off s

end Sys2Proof.Machine
end

