-- ==== Sys2Proof/Machine/Registers.lean ====
section
/-! DEFINITION. Accesses to BAR0 registers that have no row of their own (R5, R6, R18, R19, R50, R608 and the counts' restart rules),
and the query table (R532, R533). -/

namespace Sys2Proof.Machine

/-- What an access writes to one register: its value in the register's place, of the bits of the mask, and the access's own offset. -/
structure RegTouch where
  reg : Reg
  block : Nat
  index : Nat
  offset : Nat
  rsv : Nat
  v : Nat
  mask : Nat

/-- The register that 4 written bytes reach, in an access at a given offset. -/
def touchWord (acc off w : Nat) : List RegTouch :=
  match regAt off with
  | some a => [⟨a.row.reg, a.block, a.index, acc, a.row.rsv, w % 2 ^ 32 * 2 ^ (32 * a.half), maskOf 31 0 * 2 ^ (32 * a.half)⟩]
  | none => []

/-- The registers that an aligned write reaches (R18, R19, R608): a 64-bit access acts once on a 64-bit register, and on each of two
32-bit registers as a 32-bit access does. -/
def touches (off : Nat) (wide : Bool) (v : Nat) : List RegTouch :=
  if off % (if wide then 8 else 4) ≠ 0 then []
  else if !wide then touchWord off off v
  else match regAt off with
    | some a =>
      if a.row.wide then [⟨a.row.reg, a.block, a.index, off, a.row.rsv, v % 2 ^ 64, maskOf 63 0⟩]
      else touchWord off off v ++ touchWord off (off + 4) (v / 2 ^ 32)
    | none => touchWord off (off + 4) (v / 2 ^ 32)

/-- How a register takes a write: by its own row, by clearing bits written 1, by restarting a count, or plainly. -/
inductive RegClass where
  | own | clears | count | plain
  deriving DecidableEq, Repr

/-- The class of each register. -/
def regClass : Reg → RegClass
  | .timeSrc | .mbxDoor | .irqSrcCfg | .irqTgtCfg | .irqTgtClaim => .own
  | .swErr | .timeStat | .pllStat | .irqErr | .irqSrcStat | .pwrStat | .shootStat | .trnDenied | .poisonLast | .lbOvf | .engErr
  | .lnkDenied | .hostErr | .cohTimeout | .tckDenied | .tckMisdeal | .renegeLast => .clears
  | .anteMaxWait | .irqSrcCnt | .pwrCntDefer | .cntMiss | .cntContig | .trnDeniedCnt | .faultCnt | .attachCnt | .migCnt | .memErrCnt
  | .lbOvfCnt | .engCmdCnt | .engKvBytes | .engMisplaced | .dropCnt | .lnkDeniedCnt | .lnkPortRetry | .lnkPortDownCnt | .cntReq
  | .cntSnoop | .cntEvict | .cntCross | .cntNoCache | .tckDeniedCnt | .tckMisdealCnt | .wakeCnt | .tckErrCnt | .staleCnt => .count
  | _ => .plain

/-- Records a reserved bit written 1 (R6), at the offset of the access (R50). -/
def rsvCheck (t : RegTouch) (s : State) : State := if t.v &&& t.rsv ≠ 0 then swErrSet 0 t.offset s else s

/-- Clears the RW1C bits written 1 (R50 and the register tables). -/
def regClear (t : RegTouch) (s : State) : State :=
  let on (i : Nat) : Bool := t.v.testBit i
  match t.reg with
  | .swErr => { s with sys := { s.sys with swErr := s.sys.swErr &&& ~~~(BitVec.ofNat 3 t.v) } }
  | .timeStat => { s with sys := { s.sys with timeFault := s.sys.timeFault && !on 7, srcLost := s.sys.srcLost && !on 6 } }
  | .pllStat => { s with sys := { s.sys with pllLost := s.sys.pllLost &&& ~~~(BitVec.ofNat 12 (t.v / 2 ^ 16)) } }
  | .irqErr => { s with irq := { s.irq with
      errTarget := s.irq.errTarget && !on 2, errEvent := s.irq.errEvent && !on 1, errComplete := s.irq.errComplete && !on 0 } }
  | .irqSrcStat =>
    if on 28 && irqLatched (t.index + 1) && (mapGet s.irq.srcs (t.index + 1)).isSome then
      irqSrcMod (t.index + 1) (fun x => { x with latch := false }) s
    else s
  | .pwrStat => { s with pwr := { s.pwr with capUnmet := s.pwr.capUnmet && !on 30 } }
  | .shootStat => { s with trn := { s.trn with shootTimeout := s.trn.shootTimeout && !on 8 } }
  | .trnDenied => { s with trn := { s.trn with denValid := s.trn.denValid && !on 48 } }
  | .poisonLast => { s with mem := { s.mem with poisonValid := s.mem.poisonValid && !on 63 } }
  | .lbOvf => if on 63 then stackMod t.block (fun k => { k with ovfValid := false }) s else s
  | .engErr => if on 63 then engineMod t.block (fun e => { e with errValid := false }) s else s
  | .lnkDenied => { s with lnk := { s.lnk with denValid := s.lnk.denValid && !on 40 } }
  | .hostErr => { s with hif := { s.hif with errValid := s.hif.errValid && !on 63 } }
  | .cohTimeout => { s with coh := { s.coh with toValid := s.coh.toValid && !on 63 } }
  | .tckDenied => { s with tck := { s.tck with denValid := s.tck.denValid && !on 40 } }
  | .tckMisdeal => { s with tck := { s.tck with misValid := s.tck.misValid && !on 63 } }
  | .renegeLast => { s with tck := { s.tck with renValid := s.tck.renValid && !on 63 } }
  | _ => s

/-- Restarts a count where 0 is written to it (R176, R221, R258, R330, R377, R411, R571, R589 and the register tables). A 32-bit write
of 0 to either half of a 64-bit count restarts it whole (R608), and two counts in one register restart each by its half. -/
def regRestart (t : RegTouch) (s : State) : State :=
  let high : Bool := decide (t.mask / 2 ^ 32 ≠ 0 ∧ t.v / 2 ^ 32 = 0)
  let low : Bool := decide (t.mask % 2 ^ 32 ≠ 0 ∧ t.v % 2 ^ 32 = 0)
  let keep (on : Bool) (n : Nat) : Nat := if on then 0 else n
  let whole : Bool := decide (t.v = 0)
  match t.reg with
  | .migCnt => { s with trn := { s.trn with migToHost := keep high s.trn.migToHost, migToDevice := keep low s.trn.migToDevice } }
  | .memErrCnt => { s with mem := { s.mem with corrected := keep high s.mem.corrected, uncorrectable := keep low s.mem.uncorrectable } }
  | .lnkPortRetry => lnkPortMod t.block (fun p => { p with resent := keep high p.resent, crcErr := keep low p.crcErr }) s
  | .anteMaxWait => { s with sys := { s.sys with anteMaxWait := keep whole s.sys.anteMaxWait } }
  | .irqSrcCnt => if whole then irqSrcMod (t.index + 1) (fun x => { x with count := 0 }) s else s
  | .pwrCntDefer => { s with pwr := { s.pwr with cntDefer := keep whole s.pwr.cntDefer } }
  | .cntMiss => { s with trn := { s.trn with cntMiss := keep whole s.trn.cntMiss } }
  | .cntContig => { s with trn := { s.trn with cntContig := keep whole s.trn.cntContig } }
  | .trnDeniedCnt => { s with trn := { s.trn with denCnt := keep whole s.trn.denCnt } }
  | .faultCnt => { s with trn := { s.trn with faultCnt := keep whole s.trn.faultCnt } }
  | .attachCnt => { s with trn := { s.trn with attachCnt := keep whole s.trn.attachCnt } }
  | .lbOvfCnt => if whole then stackMod t.block (fun k => { k with ovfCnt := 0 }) s else s
  | .engCmdCnt => if whole then engineMod t.block (fun e => { e with cmdCnt := 0 }) s else s
  | .engKvBytes => if whole then engineMod t.block (fun e => { e with kvBytes := 0 }) s else s
  | .engMisplaced => if whole then engineMod t.block (fun e => { e with misplaced := 0 }) s else s
  | .dropCnt => { s with lnk := { s.lnk with dropCnt := keep whole s.lnk.dropCnt } }
  | .lnkDeniedCnt => { s with lnk := { s.lnk with denCnt := keep whole s.lnk.denCnt } }
  | .lnkPortDownCnt => if whole then lnkPortMod t.block (fun p => { p with downCnt := 0 }) s else s
  | .cntReq => { s with coh := { s.coh with cntReq := keep whole s.coh.cntReq } }
  | .cntSnoop => { s with coh := { s.coh with cntSnoop := keep whole s.coh.cntSnoop } }
  | .cntEvict => { s with coh := { s.coh with cntEvict := keep whole s.coh.cntEvict } }
  | .cntCross => { s with coh := { s.coh with cntCross := keep whole s.coh.cntCross } }
  | .cntNoCache => { s with coh := { s.coh with cntNoCache := keep whole s.coh.cntNoCache } }
  | .tckDeniedCnt => { s with tck := { s.tck with denCnt := keep whole s.tck.denCnt } }
  | .tckMisdealCnt => { s with tck := { s.tck with misCnt := keep whole s.tck.misCnt } }
  | .wakeCnt => { s with tck := { s.tck with wakeCnt := keep whole s.tck.wakeCnt } }
  | .tckErrCnt => { s with tck := { s.tck with errCnt := keep whole s.tck.errCnt } }
  | .staleCnt => { s with bnd := { s.bnd with staleCnt := keep whole s.bnd.staleCnt } }
  | _ => s

/-- Writes 4 bytes of a mailbox's request area (R512). -/
def areaWrite (m i v : Nat) (s : State) : State :=
  let put (a : FMap Byte) (k : Nat) : FMap Byte := mapPutD 0 a (m * 4096 + 0x100 + 4 * i + k) (BitVec.ofNat 8 (v / 256 ^ k))
  { s with mbx := { s.mbx with area := (List.range 4).foldl put s.mbx.area } }

/-- Writes the fields that a plain register lets the host write: MEM_LB_CFG, MEM_REFILL.SHARE and the request areas. The other plain
registers are read-only. -/
def regPlain (t : RegTouch) (s : State) : State :=
  match t.reg with
  | .lbCfg => stackMod t.block (fun k => { k with
      weightHigh := max 1 (bitsOf t.v 31 28), leakExp := bitsOf t.v 20 16, threshold := max 1 (bitsOf t.v 15 0) }) (leakSettle t.block s)
  | .refill => stackMod t.block (fun k => { k with share := max 1 (bitsOf t.v 2 0) }) s
  | .mbxRequest => areaWrite t.block t.index t.v s
  | _ => s

/-- Applies a write to the registers of one class that it reaches. -/
def regsApply (c : RegClass) (act : RegTouch → State → State) (ts : List RegTouch) (s : State) : State :=
  (ts.filter (fun t => regClass t.reg = c)).foldl (fun s t => rsvCheck t (act t s)) s

/-- REGISTER_WRITE (R6, R486, R608). -/
def execRegisterWrite (port : Fin 2) (offset : BitVec 25) (wide : Bool) (value : BitVec 64) (s : State) : Result :=
  bar port.val true (regsApply .plain regPlain (touches offset.toNat wide value.toNat)) s

/-- RW1C_CLEAR (R50). -/
def execRw1cClear (port : Fin 2) (offset : BitVec 25) (wide : Bool) (value : BitVec 64) (s : State) : Result :=
  bar port.val true (regsApply .clears regClear (touches offset.toNat wide value.toNat)) s

/-- COUNT_RESTART (R377, R608). -/
def execCountRestart (port : Fin 2) (offset : BitVec 25) (wide : Bool) (value : BitVec 64) (s : State) : Result :=
  bar port.val true (regsApply .count regRestart (touches offset.toNat wide value.toNat)) s

-- holes and bad accesses (R18, R19) -------------------------------------------------------------------------------------

/-- Whether a register lies at 4 bytes of a doorbell page: a bound slot (whose HIF_DB_STAT is a hole to a write, R457) or a bound
counter window (R357). -/
def pagePlaced (s : State) (off : Nat) (write : Bool) : Bool :=
  let page := (off - 0x1000000) / 0x1000
  let r := off % 0x1000
  if r < 0x800 then
    (mapGet s.obj.pages page).isSome && (mapGet s.obj.dbSlots (page * 128 + r / 16)).isSome
      && (if r % 16 < 4 then true else decide (8 ≤ r % 16) && !write)
  else (windowCounter s page ((r - 0x800) / 16)).isSome

/-- Whether a register lies at 4 bytes of BAR0. -/
def placedAt (s : State) (off : Nat) (write : Bool) : Bool :=
  if off < 0x1000000 then (regAt off).isSome else pagePlaced s off write

/-- Whether an aligned access is a hole access: none of its bytes lies in a register. -/
def isHole (s : State) (off : Nat) (wide write : Bool) : Bool :=
  decide (off % (if wide then 8 else 4) = 0) && !placedAt s off write && !(wide && placedAt s (off + 4) write)

/-- BAR0_HOLE_ACCESS (R18, R50, R457, R586, R595): a read returns 0 and a write is discarded, and HOLE is set. -/
def execBar0HoleAccess (port : Fin 2) (offset : BitVec 25) (wide write : Bool) (s : State) : Result :=
  bar port.val write (fun s =>
    if isHole s offset.toNat wide write then
      let s := swErrSet 1 offset.toNat s
      if write then s else emit (.bar0Read port.val 0) s
    else s) s

/-- BAR0_BAD_ACCESS (R19, R50, R487): UR and AER, and SIZE is set. -/
def execBar0BadAccess (port : Fin 2) (offset : BitVec 25) (size : Nat) (write : Bool) (s : State) : Result :=
  bar port.val write (fun s =>
    let allowed := (size = 4 ∧ offset.toNat % 4 = 0) ∨ (size = 8 ∧ offset.toNat % 8 = 0)
    if allowed then s else urDone port.val write (swErrSet 2 offset.toNat s)) s

-- the query table (R532, R533) ------------------------------------------------------------------------------------------

/-- An entry with its header (R532). -/
def queryEntry (id index : Nat) (fields : List Byte) : List Byte :=
  leBytes 2 id ++ leBytes 2 index ++ leBytes 2 (8 + fields.length) ++ leBytes 1 1 ++ leBytes 1 0 ++ fields

/-- IDENTITY. -/
def queryIdentity (s : State) : List Byte :=
  leBytes 4 sysIdValue ++ leBytes 2 s.sys.nodeId ++ leBytes 2 0 ++ leBytes 8 s.sys.fuse.serial ++ leBytes 4 (fwRunning s)
    ++ leBytes 4 Config.romVersion ++ leBytes 1 0x10 ++ leBytes 1 (b2n s.mbx.source)
    ++ leBytes 2 (if s.mbx.source then fieldAt s.mbx.image 12 2 else Config.romSvn)

/-- LIMITS (R533). -/
def queryLimits : List Byte :=
  ([4096, 65536, 262144, 16384, 256, 262144, 4096, 1024].map (leBytes 4)).flatten ++ leBytes 4 1024 ++ leBytes 4 65536
    ++ ([4096, 64, 16384, 4096, 1024, 1024].map (leBytes 2)).flatten ++ leBytes 4 0

/-- STACK. -/
def queryStack (n : Nat) (s : State) : List Byte :=
  let k := stackOf s n
  let data := k.slabs.filter (fun x => x.2.data)
  let used := (List.range (unitsOf k.chkSlabs)).filter (fun u => unitTaken k 48 u)
  let classes := ((List.range 48).map (fun j => (slabCfg s n j).cls % 4 * 4 ^ j)).sum
  leBytes 1 (stackCode k.state) ++ leBytes 1 k.chkSlabs ++ leBytes 1 data.length ++ leBytes 1 0 ++ leBytes 2 (4096 - k.spares.length)
    ++ leBytes 2 (unitsOf k.chkSlabs - used.length) ++ leBytes 12 classes

/-- ENGINE: every dimension of R4 with latent mode, and the formats 0x01 to 0x05 and 0x11 to 0x15 of R300. -/
def queryEngine (e : Nat) (s : State) : List Byte :=
  let shares := ((List.range 16).filter (fun j => decide ((bindAt s (1144 + 16 * e + j)).state = .bound))).length
  leBytes 1 (engineCode s (engineOf s e)) ++ leBytes 1 shares ++ leBytes 2 8192 ++ leBytes 1 8 ++ leBytes 1 0x1F ++ leBytes 2 0x1F1F

/-- LINK. The agreed version is 3 while the port is UP. -/
def queryLink (p : Nat) (s : State) : List Byte :=
  let x := lnkPort s p
  leBytes 1 (portCode x.state) ++ leBytes 1 (downCode x.cause) ++ leBytes 2 x.partner ++ leBytes 2 (min 65535 x.rtt)
    ++ leBytes 1 (if x.state = .up then 3 else 0) ++ leBytes 1 0

/-- HOST. -/
def queryHost (p : Nat) (s : State) : List Byte :=
  let h := portOf s p
  let up := decide (h.state = .up)
  leBytes 1 (hostCode (hostShown s h)) ++ leBytes 1 (b2n h.cxl) ++ leBytes 1 (if up then h.speed else 0) ++ leBytes 1 (if up then h.width else 0)
    ++ leBytes 2 h.resets ++ leBytes 2 0

/-- TABLE. -/
def queryTable (t : Nat) (s : State) : List Byte :=
  tableDescriptor s t ++ leBytes 2 (seatsBound s t 0 120) ++ leBytes 2 (seatsBound s t 120 888) ++ leBytes 2 (seatsBound s t 888 1144)
    ++ leBytes 2 (seatsBound s t 1144 1400)

/-- What a table mailbox is answered for the TABLE entry of a slot (R11, R532, R609). -/
def queryOwner (c : Caller) (slot : Nat) (s : State) : Status :=
  if isOperator c.mbx then .ok
  else match (boxOf s c.mbx.val).assigned with
    | none => .denied
    | some own =>
      if own = slot then .ok
      else
        let i := slotOf s 5 slot
        if i.gen ≠ 0 ∧ i.tenant ≠ (slotOf s 5 own).tenant then .denied else .gone

/-- QUERY (R532): an entry of the table, or RANGE. -/
def effQuery (c : Caller) (id index : Nat) (s : State) : Outcome :=
  let entry (limit : Nat) (f : List Byte) : Outcome := if index < limit then doneBody (queryEntry id index f) s else done .range s
  match id with
  | 1 => entry 1 (queryIdentity s)
  | 2 => entry 1 queryLimits
  | 3 => entry 16 (queryStack index s)
  | 4 => entry 16 (queryEngine index s)
  | 5 => entry 16 (queryLink index s)
  | 6 => entry 2 (queryHost index s)
  | 7 =>
    if index ≥ 256 then done .range s
    else match queryOwner c index s with
      | .ok => entry 256 (queryTable index s)
      | st => done st s
  | _ => done .range s

/-- QUERY. -/
def execQuery (c : Caller) (id index : Nat) (s : State) : Result := gararn 0x002 .ot c (effQuery c id index) s

end Sys2Proof.Machine
end

