-- ==== Sys2Proof/Machine/Requests.lean ====
section
/-! DEFINITION. REQUEST_EXECUTE: Snisol takes the request that a mailbox holds (R513 to R529, R595): its sequence number, its header,
its body's layout, and then the same effect as the request's own row. -/

namespace Sys2Proof.Machine

/-- A decoded request: who may send it (R520), and what it does. -/
structure ReqDecode where
  letter : Letter
  act : Caller → State → Outcome

/-- A request that acts on no table, or names its table itself. A body of the wrong length, or a field outside its stated range, is
RANGE (R522). -/
def reqPlain (l : Letter) (ok : Bool) (f : Caller → State → Outcome) : Option ReqDecode :=
  some ⟨l, fun c s => if ok then f c s else done .range s⟩

/-- A request on a table with a field outside its stated range: RANGE, after the failures of its handles (R16, R522). -/
def fieldBad (f : State → Outcome) (s : State) : Outcome := match (f s).reply with
  | some r => if r.st = .denied ∨ r.st = .gone ∨ r.st = .lost then done r.st s else done .range s
  | none => done .range s

/-- A request on a table whose body has its length, with fields that may lie outside their stated ranges. -/
def reqFields (l : Letter) (len ok : Bool) (f : Caller → Nat → State → Outcome) : Option ReqDecode :=
  some ⟨l, fun c s => withTable c (fun t s => if !len then done .range s else if ok then f c t s else fieldBad (f c t) s) s⟩

/-- A request on a table: the table's own failures come before RANGE (R16). -/
def reqTable (l : Letter) (ok : Bool) (f : Caller → Nat → State → Outcome) : Option ReqDecode :=
  some ⟨l, fun c s => withTable c (fun t s => if ok then f c t s else done .range s) s⟩

/-- An entry in the layout of LNK_ROUTE. -/
def routeEntry (v : Nat) : RouteEntry :=
  { valid := v.testBit 31, altValid := v.testBit 30, alt := bitsOf v 11 8, port := bitsOf v 3 0 }

/-- A one-byte flag that is 0 or 1. -/
def isFlag (v : Nat) : Bool := decide (v ≤ 1)

/-- Control, service, table and seat requests (R523, R524). -/
def reqControl (op : Nat) (b : List Byte) : Option ReqDecode :=
  let n := b.length
  let f (off size : Nat) : Nat := fieldAt b off size
  match op with
  | 0x002 => reqPlain .ot (n = 4) (fun c => effQuery c (f 0 2) (f 2 2))
  | 0x003 => reqPlain .o (n = 8) (fun _ => effMbxAssign (f 0 1) (f 4 4))
  | 0x004 => reqPlain .o (8 ≤ n && decide (8 + f 4 2 ≤ n)) (fun _ => effFwStage (f 0 4) ((b.drop 8).take (f 4 2)))
  | 0x005 => reqPlain .o (n = 0) (fun c s =>
      effFwActivate c.mbx (Config.keyHashOk s.mbx.staged) (Config.signatureOk s.mbx.staged) (Config.digestOk s.mbx.staged) s)
  | 0x006 => reqPlain .o (n = 12) (fun _ => effDumpRead (f 0 1) (f 4 4) (f 8 4))
  | 0x007 => reqPlain .o (n = 4 && isFlag (f 1 1)) (fun _ => if f 1 1 = 1 then effDumpTake (f 0 1) else effDumpClear (f 0 1))
  | 0x100 => reqPlain .o (n = 16) (fun c => effTableCreate c.mbx (f 0 4) (f 4 2) (f 6 1) (f 8 2 % 4096))
  | 0x101 => reqPlain .o (n = 24) (fun c => effReseat c.mbx
      { globalId := f 0 4, seat := f 4 2, kind := f 6 1, weight := f 7 1, newNode := f 8 2 % 4096, newBinding := f 10 2, t := f 16 8 })
  | 0x102 => reqTable .ot (n = 8) (fun _ => effAliasRelease (f 0 2))
  | 0x103 => reqTable .o (n = 8) (fun _ => effRenegeSet (f 0 4))
  | 0x104 => reqTable .o (n = 4) (fun _ => effWaitQuota (f 0 2))
  | 0x105 => reqTable .t (n = 8) (fun _ => effTableEventSet (f 0 4) (f 4 1))
  | _ => none

/-- Translation, fault, memory and link requests (R525, R526, R599, R601). -/
def reqMemory (op : Nat) (b : List Byte) : Option ReqDecode :=
  let n := b.length
  let f (off size : Nat) : Nat := fieldAt b off size
  match op with
  | 0x200 => reqTable .t (n = 16 && isFlag (f 8 1)) (fun c => effSetRoot c.mbx (f 0 8) (f 8 1 = 1))
  | 0x201 => reqTable .t (n = 16) (fun c => effGararnInvalidate c.mbx (f 0 8) (f 8 8))
  | 0x202 => reqTable .t (n = 16) (fun _ => effFaultRingSet (f 0 4) (f 4 4) (f 8 8))
  | 0x203 => reqTable .t (n = 8) (fun _ => effFaultResolve (f 0 4))
  | 0x204 => reqTable .t (n = 8) (fun _ => effFaultFail (f 0 4))
  | 0x205 =>
    let p := f 28 1
    reqFields .t (n = 48) (p < 8) (fun _ => effHostbackSet
      { va := f 0 8, length := f 8 8, hostIova := f 16 8, pool := f 24 4, permR := p.testBit 0, permW := p.testBit 1,
        permA := p.testBit 2, readers := (List.range (f 29 1)).map (fun i => f (32 + 2 * i) 2 % 4096) })
  | 0x206 => reqTable .t (n = 8) (fun c => effHostbackClear c.mbx (f 0 4))
  | 0x207 => reqPlain .o (n = 4) (fun _ => effWalkLimit (f 0 1))
  | 0x300 => reqPlain .o (n = 4) (fun _ => effRowMode (f 0 1) (f 1 1))
  | 0x301 => reqPlain .o (n = 4) (fun _ => effSlabClass (f 0 1) (f 1 1) (f 2 1))
  | 0x302 => reqPlain .o (n = 16 && isFlag (f 8 1)) (fun c => effScrub c.mbx
      { stackMask := BitVec.ofNat 16 (f 0 2), firstSlab := f 2 1, slabs := f 3 1, period := f 4 4, rewrite := f 8 1 = 1 })
  | 0x303 => reqPlain .o (n = 4) (fun c => effRetrain c.mbx (f 0 1) (f 1 1))
  | 0x304 => reqPlain .o (n = 4) (fun c => effNmeSelftest c.mbx (f 0 1))
  | 0x400 => reqPlain .o (8 ≤ n && decide (8 + 4 * f 2 2 ≤ n)) (fun _ =>
      effRouteSet (f 0 2) ((List.range (f 2 2)).map (fun i => routeEntry (f (8 + 4 * i) 4))))
  | 0x401 =>
    let a := f 1 1
    reqPlain .o (n = 4 && isFlag (f 2 1) && decide (1 ≤ a ∧ a ≤ 3)) (fun _ =>
      if a = 1 then effLinkDisable (f 0 1) else if a = 2 then effLinkEnable (f 0 1) (f 2 1 = 1) else effLinkRetrain (f 0 1) (f 2 1 = 1))
  | 0x402 => reqPlain .o (n = 8) (fun _ => effE2eCfg (f 0 1) (f 2 2))
  | _ => none

/-- Object requests (R527). -/
def reqObject (op : Nat) (b : List Byte) : Option ReqDecode :=
  let n := b.length
  let f (off size : Nat) : Nat := fieldAt b off size
  match op with
  | 0x500 => reqTable .t (n = 16) (fun _ => effCtxCreate (f 0 4) (f 8 8))
  | 0x501 => reqTable .t (n = 48) (fun _ => effQueueCreate
      { context := f 0 4, size := f 4 4, ringObject := f 8 4, cplObject := f 12 4, ringOffset := f 16 8, cplOffset := f 24 8,
        dbPage := f 32 2, dbSlot := f 34 1, event := f 36 4, cookie := f 40 8 })
  | 0x502 => reqTable .t (8 ≤ n && decide (8 + 16 * f 1 1 ≤ n)) (fun _ =>
      effMemCreate (f 0 1) ((List.range (f 1 1)).map (fun i => (f (8 + 16 * i) 8, f (16 + 16 * i) 8))))
  | 0x503 => reqTable .t (n = 24) (fun _ => effEventCreate
      { ringObject := f 0 4, size := f 4 4, ringOffset := f 8 8, vector := f 16 2, moderation := f 18 2, dbPage := f 20 2, dbSlot := f 22 1 })
  | 0x504 => reqTable .t (n = 16) (fun _ => effCounterCreate (f 0 4) (f 8 8))
  | 0x505 => reqTable .t (n = 8) (fun _ => effChannelCreate (f 0 4) (f 4 1) (f 5 1))
  | 0x506 => reqPlain .ot (n = 8) (fun c => effDestroy c (f 0 4))
  | 0x507 => reqPlain .ot (n = 8) (fun c => effObjInfo c (f 0 4))
  | 0x508 => reqFields .t (n = 16) (f 4 4 < 2 ^ 17) (fun c => effCmdAbort c.mbx (f 0 4) (f 4 4) (f 8 1))
  | 0x509 => reqFields .o (n = 4) (isFlag (f 2 1)) (fun _ => if f 2 1 = 1 then effDbPageRelease (f 0 2) else effDbPage (f 0 2))
  | 0x50A => reqTable .t (n = 8) (fun _ => effDbCounter (f 0 2) (f 2 1) (f 4 4))
  | 0x50B => reqFields .t (n = 40) (isFlag (f 32 1)) (fun _ =>
      if f 32 1 = 1 then effMirrorDetach (f 0 4)
      else effMirrorSet { counter := f 0 4, event := f 4 4, hostAddr := f 8 8, cookie := f 16 8, threshold := f 24 8 })
  | _ => none

/-- Host, serving and power requests (R528, R529, R544). -/
def reqServing (op : Nat) (b : List Byte) : Option ReqDecode :=
  let n := b.length
  let f (off size : Nat) : Nat := fieldAt b off size
  match op with
  | 0x600 => reqTable .o (n = 8) (fun _ => effAttach (f 0 1) (f 4 4))
  | 0x601 => reqTable .ot (n = 4) (fun _ => effHostPort (f 0 1))
  | 0x602 => reqTable .t (n = 16 && isFlag (f 1 1) && isFlag (f 2 1)) (fun c => effWindowSet c.mbx (f 0 1) (f 1 1 = 1) (f 2 1 = 1) (f 8 8))
  | 0x603 => reqTable .t (n = 16 && isFlag (f 1 1) && isFlag (f 2 1)) (fun _ => effHdmSet (f 0 1) (f 1 1 = 1) (f 2 1 = 1) (f 8 8))
  | 0x604 => reqPlain .o (n = 4) (fun _ => effPortCfg (f 0 1) (f 1 1) (f 2 1))
  | 0x700 => reqTable .t (32 ≤ n && decide (32 + 4 * f 16 1 ≤ n)) (fun _ => effStepOpen
      { step := f 0 4, commitCtr := f 4 4, commitValue := f 8 8, models := (List.range (f 16 1)).map (fun i => f (32 + 4 * i) 4) })
  | 0x701 => reqTable .ot (n = 8) (fun c => effStepKill c.mbx (f 0 4) (f 4 1))
  | 0x702 => reqTable .ot (n = 8) (fun _ => effStepStatus (f 0 4))
  | 0x703 => reqTable .o (n = 0) (fun c => effPreempt c.mbx)
  | 0x704 => reqTable .o (n = 0) (fun c => effResume c.mbx)
  | 0x705 => reqTable .t (n = 24) (fun c => effPublish c.mbx (f 0 8) (f 8 8) (f 16 1))
  | 0x710 => reqTable .t (n = 8) (fun _ => effHandSet (f 0 4))
  | 0x711 => reqTable .t (n = 40) (fun _ => effModelCreate
      { va := f 0 8, size := f 8 8, backingKind := f 16 1, backing := f 24 8, offset := f 32 8 })
  | 0x712 => reqTable .t (n = 8) (fun c => effModelLoad c.mbx (f 0 4))
  | 0x713 => reqTable .t (n = 8) (fun c => effModelDiscard c.mbx (f 0 4))
  | 0x714 => reqTable .t (n = 8) (fun _ => effModelPin (f 0 4))
  | 0x715 => reqTable .t (n = 8) (fun _ => effModelUnpin (f 0 4))
  | 0x720 => reqPlain .o (n = 4) (fun _ => effPowerCap (f 0 2))
  | 0x721 => reqPlain .o (n = 4) (fun _ => effPowerMode (f 0 1) (f 2 2))
  | 0x722 => reqPlain .o (n = 0) (fun _ => effPowerClear)
  | 0x723 => reqPlain .o (n = 8) (fun _ => effSensorCfg (f 0 1) (f 1 1) (f 2 2) (f 4 2))
  | 0x724 => reqPlain .o (n = 4) (fun _ => effPowerCore (f 0 1) (f 2 2))
  | _ => none

/-- The request that an opcode and a body spell (R520, R522); none for an opcode that is not in the table. -/
def reqDecode (op : Nat) (b : List Byte) : Option ReqDecode :=
  if op < 0x200 then reqControl op b else if op < 0x500 then reqMemory op b else if op < 0x600 then reqObject op b else reqServing op b

-- the doors and the control core ----------------------------------------------------------------------------------------

/-- MBX_GO (R486, R513, R542): a write of MBX_DOOR. -/
def execMbxGo (port : Fin 2) (mbx : Fin 64) (value : BitVec 32) (s : State) : Result :=
  bar port.val true (fun s => pageTake port.val (.go mbx.val value.toNat (goArea s mbx.val)) s) s

/-- A message of another hub that waited for the control core is taken (R507). -/
def ctrlTake (s : State) : CtrlHeld → State
  | .prepare n p => prepareTake n p s
  | .reseatFwd n b => reseatFwdTake n b s
  | .join n g t => joinTake n g t s
  | .resolve n g seat => resolveTake n g seat s
  | .faultForward n g va => faultForwardTake n g va s

/-- The messages of other hubs that waited for the control core are taken, in order. -/
def ctrlsTake (s : State) : State := s.mbx.ctrlHeld.foldl ctrlTake { s with mbx := { s.mbx with ctrlHeld := [] } }

/-- CORE_RESTART (R509, R536, R538): ends a restart with a CORE dump and an image chosen by the rules, or a handover with the new
image. The operands give whether the image's digest verifies and which persistent records fail their CRC. -/
def execCoreRestart (digestOk : Bool) (badTables badBoxes : List Nat) (s : State) : Result :=
  liveOn 11 s (fun s =>
    match s.mbx.core with
    | .restarting =>
      let s := irqRestart (dumpWrite 1 (CoreCause.code s.mbx.lastCause) s.mbx.since [1, 2, 4, 5, 6] s)
      let recent := (s.mbx.restartLog.filter (fun t => t + 60000000000 > now s)).length
      let keep := s.mbx.source && s.mbx.lastCause ≠ .handoverFail && digestOk && decide (recent < 2)
      ctrlsTake (irqRaise 58 (coreUp keep .aborted (persistCheck badTables badBoxes s)))
    | .handover =>
      if now s > s.mbx.since + 50000000 then s
      else
        ctrlsTake (coreUp true .ok (persistCheck badTables badBoxes
          { s with mbx := { s.mbx with image := s.mbx.staged.take 512, restartLog := [] } }))
    | _ => s)

/-- Answers without executing: RANGE to a SEQ that is neither the last nor the next (R516). LAST_SEQ and the stored response stay. -/
def seqRange (m op seq : Nat) (s : State) : State :=
  let r : Response := ⟨op, .range, 0, seq, 0, now s, []⟩
  irqRaise (96 + m) (boxMod m (fun b => { b with busy := false, done := true, early := false, resp := some r }) s)

/-- Writes the stored response again, for a replay (R516). -/
def replay (m : Nat) (r : Response) (s : State) : State :=
  irqRaise (96 + m) (boxMod m (fun b => { b with busy := false, done := true, early := false, resp := some r }) s)

/-- A HELLO whose body has the wrong length (R519, R522). -/
def helloBad (m : Fin 64) (s : State) : State :=
  answer m { st := if letterOk s m .ot then .range else .denied } (boxMod m (fun b => { b with opcode := 1 }) s)

/-- Executes a new request (R516, R517, R519, R520). -/
def requestNew (m : Fin 64) (req : List Byte) (s : State) : State :=
  let op := fieldAt req 0 2
  let body := (req.drop 32).take (fieldAt req 8 4)
  let c : Caller := { mbx := m, table := fieldAt req 12 4 }
  let s := boxMod m (fun b => { b with seq := fieldAt req 4 4, early := false }) s
  if op = 1 then
    if body.length = 4 then executeHello m (fieldAt body 0 1) s else helloBad m s
  else if fieldAt req 2 1 ≠ 4 then executeAny op m (fun s => done .version s) s
  else match reqDecode op body with
    | some r => execute op r.letter m (r.act c) s
    | none => executeAny op m (fun s => done (if (boxOf s m).version ≠ 4 then .version else .unsupported) s) s

/-- Whether a mailbox with a lower number holds a request from before Release (R595). -/
def earlierWaits (s : State) (m : Nat) : Bool :=
  (List.range m).any (fun k => (boxOf s k).busy && (boxOf s k).early && !(boxOf s k).executing)

/-- REQUEST_EXECUTE (R516). -/
def execRequestExecute (mbx : Fin 64) (s : State) : Result :=
  live s (fun s =>
    let b := boxOf s mbx
    let seq := fieldAt b.req 4 4
    if !coreRuns s || !b.busy || b.executing || (b.early && earlierWaits s mbx) then s
    else if seq = (b.lastSeq + 1) % 2 ^ 32 then requestNew mbx b.req s
    else match b.stored with
      | some r => if seq = b.lastSeq then replay mbx r s else seqRange mbx (fieldAt b.req 0 2) seq s
      | none => seqRange mbx (fieldAt b.req 0 2) seq s)

end Sys2Proof.Machine
end

