-- ==== Sys2Proof/Machine/Dispatch.lean ====
section
/-! DEFINITION. One arm per command: a direct call of its meaning. -/

namespace Sys2Proof.Machine

/-- The effect of a command on everything but the queue. -/
def exec (i : Instr) (s : State) : Host.Outcome State Fault Refusal :=
  match i with
  | .coldReset lowNs => Sys2Proof.Machine.execColdReset lowNs s
  | .fusesPhase words => Sys2Proof.Machine.execFusesPhase words s
  | .fuseRdyTimeout => Sys2Proof.Machine.execFuseRdyTimeout s
  | .clocksPhase locked => Sys2Proof.Machine.execClocksPhase locked s
  | .sramPhase => Sys2Proof.Machine.execSramPhase s
  | .controlCorePhase => Sys2Proof.Machine.execControlCorePhase s
  | .stacksPhase present trained spares => Sys2Proof.Machine.execStacksPhase present trained spares s
  | .checkersPhase pass => Sys2Proof.Machine.execCheckersPhase pass s
  | .fillPhase => Sys2Proof.Machine.execFillPhase s
  | .release => Sys2Proof.Machine.execRelease s
  | .refclkLoss => Sys2Proof.Machine.execRefclkLoss s
  | .pllLossOfLock pll => Sys2Proof.Machine.execPllLossOfLock pll s
  | .pllRelock pll => Sys2Proof.Machine.execPllRelock pll s
  | .pllRelockFail pll => Sys2Proof.Machine.execPllRelockFail pll s
  | .telemetryFrame frame => Sys2Proof.Machine.execTelemetryFrame frame s
  | .sensorStale sensor => Sys2Proof.Machine.execSensorStale sensor s
  | .bar0HoleAccess port offset wide write => Sys2Proof.Machine.execBar0HoleAccess port offset wide write s
  | .bar0BadAccess port offset size write => Sys2Proof.Machine.execBar0BadAccess port offset size write s
  | .registerWrite port offset wide value => Sys2Proof.Machine.execRegisterWrite port offset wide value s
  | .rw1cClear port offset wide value => Sys2Proof.Machine.execRw1cClear port offset wide value s
  | .countRestart port offset wide value => Sys2Proof.Machine.execCountRestart port offset wide value s
  | .sysTimeSrcWrite port value => Sys2Proof.Machine.execSysTimeSrcWrite port value s
  | .time lp tick sender => Sys2Proof.Machine.execTime lp tick sender s
  | .timeSourceSilence => Sys2Proof.Machine.execTimeSourceSilence s
  | .timeSend lp => Sys2Proof.Machine.execTimeSend lp s
  | .anteDrawRequest cls inst recovery => Sys2Proof.Machine.execAnteDrawRequest cls inst recovery s
  | .anteGrant => Sys2Proof.Machine.execAnteGrant s
  | .anteRelease cls inst => Sys2Proof.Machine.execAnteRelease cls inst s
  | .anteWithdraw cls inst => Sys2Proof.Machine.execAnteWithdraw cls inst s
  | .fabricAdmit src dst vc credit => Sys2Proof.Machine.execFabricAdmit src dst vc credit s
  | .reseat c b => Sys2Proof.Machine.execReseat c b s
  | .reseatFwd src b => Sys2Proof.Machine.execReseatFwd src b s
  | .prepare src p => Sys2Proof.Machine.execPrepare src p s
  | .prepareAnswer src globalId seat answer => Sys2Proof.Machine.execPrepareAnswer src globalId seat answer s
  | .reseatDecisionDeadline globalId seat => Sys2Proof.Machine.execReseatDecisionDeadline globalId seat s
  | .decision src globalId seat commit => Sys2Proof.Machine.execDecision src globalId seat commit s
  | .reseatStatusPoll k => Sys2Proof.Machine.execReseatStatusPoll k s
  | .status src globalId seat => Sys2Proof.Machine.execStatus src globalId seat s
  | .reseatSwitch k => Sys2Proof.Machine.execReseatSwitch k s
  | .clusterClearingEnd cluster => Sys2Proof.Machine.execClusterClearingEnd cluster s
  | .switched src globalId seat epoch binding => Sys2Proof.Machine.execSwitched src globalId seat epoch binding s
  | .cmd lp p sub => Sys2Proof.Machine.execCmd lp p sub s
  | .staleAnswer tag => Sys2Proof.Machine.execStaleAnswer tag s
  | .staleResendDelay tag => Sys2Proof.Machine.execStaleResendDelay tag s
  | .resolve m => Sys2Proof.Machine.execResolve m s
  | .channelMoveStart => Sys2Proof.Machine.execChannelMoveStart s
  | .granuleCopy binding decs => Sys2Proof.Machine.execGranuleCopy binding decs s
  | .aliasRelease c seat => Sys2Proof.Machine.execAliasRelease c seat s
  | .tile src table d data => Sys2Proof.Machine.execTile src table d data s
  | .pieceComplete src tag piece st data => Sys2Proof.Machine.execPieceComplete src tag piece st data s
  | .walkStart => Sys2Proof.Machine.execWalkStart s
  | .walkPteRead walker => Sys2Proof.Machine.execWalkPteRead walker s
  | .walkerGroupIdle group => Sys2Proof.Machine.execWalkerGroupIdle group s
  | .invalidate r => Sys2Proof.Machine.execInvalidate r s
  | .gararnInvalidate c va pages => Sys2Proof.Machine.execGararnInvalidate c va pages s
  | .shootdownStart => Sys2Proof.Machine.execShootdownStart s
  | .microTlbAck id cluster => Sys2Proof.Machine.execMicroTlbAck id cluster s
  | .shootdownDrainEnd id => Sys2Proof.Machine.execShootdownDrainEnd id s
  | .shootdownAckTimeout id cluster => Sys2Proof.Machine.execShootdownAckTimeout id cluster s
  | .setRoot c root ad => Sys2Proof.Machine.execSetRoot c root ad s
  | .faultCamLookup f => Sys2Proof.Machine.execFaultCamLookup f s
  | .faultRingSet c object event offset => Sys2Proof.Machine.execFaultRingSet c object event offset s
  | .faultResolve c record => Sys2Proof.Machine.execFaultResolve c record s
  | .faultFail c record => Sys2Proof.Machine.execFaultFail c record s
  | .waitRestoreRetry ctx => Sys2Proof.Machine.execWaitRestoreRetry ctx s
  | .hostbackSet c b => Sys2Proof.Machine.execHostbackSet c b s
  | .hostbackClear c object => Sys2Proof.Machine.execHostbackClear c object s
  | .advise r => Sys2Proof.Machine.execAdvise r s
  | .backgroundAction object => Sys2Proof.Machine.execBackgroundAction object s
  | .prefetch r => Sys2Proof.Machine.execPrefetch r s
  | .blockMoveStart => Sys2Proof.Machine.execBlockMoveStart s
  | .blockMoveCopyDone object block st hostData => Sys2Proof.Machine.execBlockMoveCopyDone object block st hostData s
  | .faultForward src globalId va => Sys2Proof.Machine.execFaultForward src globalId va s
  | .refresh stack hot retrainOk => Sys2Proof.Machine.execRefresh stack hot retrainOk s
  | .retrain c stack kind => Sys2Proof.Machine.execRetrain c stack kind s
  | .rowMode c row mode => Sys2Proof.Machine.execRowMode c row mode s
  | .slabClass c stack slab cls => Sys2Proof.Machine.execSlabClass c stack slab cls s
  | .memoryRead r dec => Sys2Proof.Machine.execMemoryRead r dec s
  | .memoryWrite r data => Sys2Proof.Machine.execMemoryWrite r data s
  | .memoryAtomic r atom data => Sys2Proof.Machine.execMemoryAtomic r atom data s
  | .mergeEntryTimeout stack codeblock dec => Sys2Proof.Machine.execMergeEntryTimeout stack codeblock dec s
  | .mergeFlush stack codeblock dec => Sys2Proof.Machine.execMergeFlush stack codeblock dec s
  | .bucketLeak stack => Sys2Proof.Machine.execBucketLeak stack s
  | .scrub c b => Sys2Proof.Machine.execScrub c b s
  | .scrubSlice decs => Sys2Proof.Machine.execScrubSlice decs s
  | .softSpare stack row dec => Sys2Proof.Machine.execSoftSpare stack row dec s
  | .slabRefillEnd stack => Sys2Proof.Machine.execSlabRefillEnd stack s
  | .refillHoldExpiry stack slab => Sys2Proof.Machine.execRefillHoldExpiry stack slab s
  | .keyEraseEnd slot => Sys2Proof.Machine.execKeyEraseEnd slot s
  | .lanesReady lp => Sys2Proof.Machine.execLanesReady lp s
  | .helloRepeat lp => Sys2Proof.Machine.execHelloRepeat lp s
  | .hello lp b => Sys2Proof.Machine.execHello lp b s
  | .echo lp seq => Sys2Proof.Machine.execEcho lp seq s
  | .echoReply lp seq => Sys2Proof.Machine.execEchoReply lp seq s
  | .echoRepeat lp => Sys2Proof.Machine.execEchoRepeat lp s
  | .flitTransmit lp => Sys2Proof.Machine.execFlitTransmit lp s
  | .flitReceive lp f packets => Sys2Proof.Machine.execFlitReceive lp f packets s
  | .nakRepeat lp => Sys2Proof.Machine.execNakRepeat lp s
  | .flitQueueTimeout lp => Sys2Proof.Machine.execFlitQueueTimeout lp s
  | .linkAnteIdle lp => Sys2Proof.Machine.execLinkAnteIdle lp s
  | .linkSilence lp => Sys2Proof.Machine.execLinkSilence lp s
  | .phyLaneLoss lp => Sys2Proof.Machine.execPhyLaneLoss lp s
  | .linkRetrainTimer lp => Sys2Proof.Machine.execLinkRetrainTimer lp s
  | .rd lp p => Sys2Proof.Machine.execRd lp p s
  | .atomic lp p => Sys2Proof.Machine.execAtomic lp p s
  | .wr lp p => Sys2Proof.Machine.execWr lp p s
  | .rdData p => Sys2Proof.Machine.execRdData p s
  | .cmpl p => Sys2Proof.Machine.execCmpl p s
  | .e2eAck src eseq => Sys2Proof.Machine.execE2eAck src eseq s
  | .e2eAckTimer src => Sys2Proof.Machine.execE2eAckTimer src s
  | .e2eReplayTimeout dst => Sys2Proof.Machine.execE2eReplayTimeout dst s
  | .e2eGiveup dst eseq => Sys2Proof.Machine.execE2eGiveup dst eseq s
  | .e2eSkip src eseq => Sys2Proof.Machine.execE2eSkip src eseq s
  | .sigApplyHeld src => Sys2Proof.Machine.execSigApplyHeld src s
  | .ctrl lp src globalId code seat st detail => Sys2Proof.Machine.execCtrl lp src globalId code seat st detail s
  | .join src globalId tenant => Sys2Proof.Machine.execJoin src globalId tenant s
  | .routeSet c first entries => Sys2Proof.Machine.execRouteSet c first entries s
  | .linkDisable c port timeFlag => Sys2Proof.Machine.execLinkDisable c port timeFlag s
  | .linkEnable c port timeFlag => Sys2Proof.Machine.execLinkEnable c port timeFlag s
  | .linkRetrain c port timeFlag => Sys2Proof.Machine.execLinkRetrain c port timeFlag s
  | .e2eCfg c timeout giveup => Sys2Proof.Machine.execE2eCfg c timeout giveup s
  | .attnDecode r => Sys2Proof.Machine.execAttnDecode r s
  | .attnPart lp p sub => Sys2Proof.Machine.execAttnPart lp p sub s
  | .queryPiece lp p sub => Sys2Proof.Machine.execQueryPiece lp p sub s
  | .attnCancel lp p sub => Sys2Proof.Machine.execAttnCancel lp p sub s
  | .subcmdResend tag => Sys2Proof.Machine.execSubcmdResend tag s
  | .foldSlotWait => Sys2Proof.Machine.execFoldSlotWait s
  | .engineSelect e => Sys2Proof.Machine.execEngineSelect e s
  | .engineCommandStart e => Sys2Proof.Machine.execEngineCommandStart e s
  | .engineTaskEnd e => Sys2Proof.Machine.execEngineTaskEnd e s
  | .foldPiece p => Sys2Proof.Machine.execFoldPiece p s
  | .partial_ lp p => Sys2Proof.Machine.execPartial lp p s
  | .kvAppend e => Sys2Proof.Machine.execKvAppend e s
  | .kvCopy e => Sys2Proof.Machine.execKvCopy e s
  | .kvCompact e => Sys2Proof.Machine.execKvCompact e s
  | .gather e => Sys2Proof.Machine.execGather e s
  | .scatterAdd e => Sys2Proof.Machine.execScatterAdd e s
  | .topk e => Sys2Proof.Machine.execTopk e s
  | .merge e => Sys2Proof.Machine.execMerge e s
  | .selftest e => Sys2Proof.Machine.execSelftest e s
  | .selftestDrainTimeout e => Sys2Proof.Machine.execSelftestDrainTimeout e s
  | .selftestStart e => Sys2Proof.Machine.execSelftestStart e s
  | .selftestEnd e pass => Sys2Proof.Machine.execSelftestEnd e pass s
  | .nmeSelftest c engine => Sys2Proof.Machine.execNmeSelftest c engine s
  | .signalAdd r => Sys2Proof.Machine.execSignalAdd r s
  | .signalMax r => Sys2Proof.Machine.execSignalMax r s
  | .read r => Sys2Proof.Machine.execRead r s
  | .waitGe r => Sys2Proof.Machine.execWaitGe r s
  | .queueWaitRetry queue => Sys2Proof.Machine.execQueueWaitRetry queue s
  | .signalRelease id => Sys2Proof.Machine.execSignalRelease id s
  | .sigAdd lp p => Sys2Proof.Machine.execSigAdd lp p s
  | .sigMax lp p => Sys2Proof.Machine.execSigMax lp p s
  | .sigRead lp p => Sys2Proof.Machine.execSigRead lp p s
  | .sigAns p value => Sys2Proof.Machine.execSigAns p value s
  | .wakeWindow => Sys2Proof.Machine.execWakeWindow s
  | .counterWindowAdd port page window value => Sys2Proof.Machine.execCounterWindowAdd port page window value s
  | .counterWindowMax port page window value => Sys2Proof.Machine.execCounterWindowMax port page window value s
  | .counterWindowRead port page window => Sys2Proof.Machine.execCounterWindowRead port page window s
  | .mirrorWrite index => Sys2Proof.Machine.execMirrorWrite index s
  | .contextSave ctx => Sys2Proof.Machine.execContextSave ctx s
  | .misdealScan => Sys2Proof.Machine.execMisdealScan s
  | .renege table => Sys2Proof.Machine.execRenege table s
  | .renegeReport src globalId => Sys2Proof.Machine.execRenegeReport src globalId s
  | .rdShared m => Sys2Proof.Machine.execRdShared m s
  | .rdOwn m => Sys2Proof.Machine.execRdOwn m s
  | .upgrade m => Sys2Proof.Machine.execUpgrade m s
  | .rdNa m => Sys2Proof.Machine.execRdNa m s
  | .wb m => Sys2Proof.Machine.execWb m s
  | .evictClean m => Sys2Proof.Machine.execEvictClean m s
  | .wrNa m => Sys2Proof.Machine.execWrNa m s
  | .atomH m => Sys2Proof.Machine.execAtomH m s
  | .snpData m => Sys2Proof.Machine.execSnpData m s
  | .snpInv m => Sys2Proof.Machine.execSnpInv m s
  | .snpCur m => Sys2Proof.Machine.execSnpCur m s
  | .snpRsp from_ m => Sys2Proof.Machine.execSnpRsp from_ m s
  | .data m => Sys2Proof.Machine.execData m s
  | .grant m => Sys2Proof.Machine.execGrant m s
  | .ack m => Sys2Proof.Machine.execAck m s
  | .wbAck m => Sys2Proof.Machine.execWbAck m s
  | .hdmDbMessage port offset m tag => Sys2Proof.Machine.execHdmDbMessage port offset m tag s
  | .snoopTimeout line agent => Sys2Proof.Machine.execSnoopTimeout line agent s
  | .sliceAnteIdle slice => Sys2Proof.Machine.execSliceAnteIdle slice s
  | .hostSnoop port addr => Sys2Proof.Machine.execHostSnoop port addr s
  | .tableCreate c globalId tenant keySource leadNode => Sys2Proof.Machine.execTableCreate c globalId tenant keySource leadNode s
  | .ctxCreate c saveObject saveOffset => Sys2Proof.Machine.execCtxCreate c saveObject saveOffset s
  | .queueCreate c b => Sys2Proof.Machine.execQueueCreate c b s
  | .memCreate c kind extents => Sys2Proof.Machine.execMemCreate c kind extents s
  | .eventCreate c b => Sys2Proof.Machine.execEventCreate c b s
  | .counterCreate c context initial => Sys2Proof.Machine.execCounterCreate c context initial s
  | .channelCreate c context kind port => Sys2Proof.Machine.execChannelCreate c context kind port s
  | .destroy c h => Sys2Proof.Machine.execDestroy c h s
  | .destroyComplete h => Sys2Proof.Machine.execDestroyComplete h s
  | .objInfo c h => Sys2Proof.Machine.execObjInfo c h s
  | .cmdAbort c queue pos seq => Sys2Proof.Machine.execCmdAbort c queue pos seq s
  | .dbPage c page => Sys2Proof.Machine.execDbPage c page s
  | .dbPageRelease c page => Sys2Proof.Machine.execDbPageRelease c page s
  | .dbCounter c page window counter => Sys2Proof.Machine.execDbCounter c page window counter s
  | .mirrorSet c b => Sys2Proof.Machine.execMirrorSet c b s
  | .mirrorDetach c counter => Sys2Proof.Machine.execMirrorDetach c counter s
  | .tableEventSet c event kinds => Sys2Proof.Machine.execTableEventSet c event kinds s
  | .doorbellWrite port page slot value => Sys2Proof.Machine.execDoorbellWrite port page slot value s
  | .eventConsumerWrite port page slot value => Sys2Proof.Machine.execEventConsumerWrite port page slot value s
  | .descriptorFetch queue r => Sys2Proof.Machine.execDescriptorFetch queue r s
  | .descriptorReread queue r => Sys2Proof.Machine.execDescriptorReread queue r s
  | .dispatch queue => Sys2Proof.Machine.execDispatch queue s
  | .nop r => Sys2Proof.Machine.execNop r s
  | .copy r => Sys2Proof.Machine.execCopy r s
  | .fill r => Sys2Proof.Machine.execFill r s
  | .launch r => Sys2Proof.Machine.execLaunch r s
  | .done cluster st tag cores => Sys2Proof.Machine.execDone cluster st tag cores s
  | .commandCommit r => Sys2Proof.Machine.execCommandCommit r s
  | .completionWrite r => Sys2Proof.Machine.execCompletionWrite r s
  | .msixModerationExpiry event => Sys2Proof.Machine.execMsixModerationExpiry event s
  | .copyBurst k => Sys2Proof.Machine.execCopyBurst k s
  | .copyBurstDone k hostData => Sys2Proof.Machine.execCopyBurstDone k hostData s
  | .bar2Request port offset write len data ep tag => Sys2Proof.Machine.execBar2Request port offset write len data ep tag s
  | .hdmRequest port offset write data tag => Sys2Proof.Machine.execHdmRequest port offset write data tag s
  | .unsupportedRequest port kind posted => Sys2Proof.Machine.execUnsupportedRequest port kind posted s
  | .protocolError port kind => Sys2Proof.Machine.execProtocolError port kind s
  | .commandRegisterWrite port value => Sys2Proof.Machine.execCommandRegisterWrite port value s
  | .powerStateWrite port d3hot => Sys2Proof.Machine.execPowerStateWrite port d3hot s
  | .hostReadCompletion port tag c => Sys2Proof.Machine.execHostReadCompletion port tag c s
  | .completionTimeout port tag => Sys2Proof.Machine.execCompletionTimeout port tag s
  | .translationCompletion port page c => Sys2Proof.Machine.execTranslationCompletion port page c s
  | .pageRequestResponse port page r => Sys2Proof.Machine.execPageRequestResponse port page r s
  | .atsInvalidate port page count itag => Sys2Proof.Machine.execAtsInvalidate port page count itag s
  | .endpointReset port => Sys2Proof.Machine.execEndpointReset port s
  | .confirmRead port => Sys2Proof.Machine.execConfirmRead port s
  | .ideCheckFailed port stream => Sys2Proof.Machine.execIdeCheckFailed port stream s
  | .ideKm port session stream => Sys2Proof.Machine.execIdeKm port session stream s
  | .getVersion port => Sys2Proof.Machine.execGetVersion port s
  | .getCapabilities port => Sys2Proof.Machine.execGetCapabilities port s
  | .negotiateAlgorithms port => Sys2Proof.Machine.execNegotiateAlgorithms port s
  | .getDigests port => Sys2Proof.Machine.execGetDigests port s
  | .getCertificate port slot => Sys2Proof.Machine.execGetCertificate port slot s
  | .challenge port => Sys2Proof.Machine.execChallenge port s
  | .getMeasurements port => Sys2Proof.Machine.execGetMeasurements port s
  | .keyExchange port => Sys2Proof.Machine.execKeyExchange port s
  | .finish port session => Sys2Proof.Machine.execFinish port session s
  | .keyUpdate port session => Sys2Proof.Machine.execKeyUpdate port session s
  | .heartbeat port session => Sys2Proof.Machine.execHeartbeat port session s
  | .endSession port session => Sys2Proof.Machine.execEndSession port session s
  | .tenantKey port session globalId dataKey tweakKey => Sys2Proof.Machine.execTenantKey port session globalId dataKey tweakKey s
  | .attach c port pasid => Sys2Proof.Machine.execAttach c port pasid s
  | .hostPort c port => Sys2Proof.Machine.execHostPort c port s
  | .windowSet c window write clear va => Sys2Proof.Machine.execWindowSet c window write clear va s
  | .hdmSet c port split clear va => Sys2Proof.Machine.execHdmSet c port split clear va s
  | .portCfg c port cxlAllow maxSpeed => Sys2Proof.Machine.execPortCfg c port cxlAllow maxSpeed s
  | .mbxGo port mbx value => Sys2Proof.Machine.execMbxGo port mbx value s
  | .requestExecute mbx => Sys2Proof.Machine.execRequestExecute mbx s
  | .gararnHello c versions => Sys2Proof.Machine.execGararnHello c versions s
  | .query c id index => Sys2Proof.Machine.execQuery c id index s
  | .mbxAssign c mailbox table => Sys2Proof.Machine.execMbxAssign c mailbox table s
  | .fwStage c offset bytes => Sys2Proof.Machine.execFwStage c offset bytes s
  | .fwActivate c keyHashOk signatureOk digestOk => Sys2Proof.Machine.execFwActivate c keyHashOk signatureOk digestOk s
  | .handoverTimeout => Sys2Proof.Machine.execHandoverTimeout s
  | .dumpRead c slot offset length => Sys2Proof.Machine.execDumpRead c slot offset length s
  | .dumpClear c slot => Sys2Proof.Machine.execDumpClear c slot s
  | .dumpTake c slot => Sys2Proof.Machine.execDumpTake c slot s
  | .renegeSet c ms => Sys2Proof.Machine.execRenegeSet c ms s
  | .waitQuota c quota => Sys2Proof.Machine.execWaitQuota c quota s
  | .walkLimit c limit => Sys2Proof.Machine.execWalkLimit c limit s
  | .watchdogExpiry => Sys2Proof.Machine.execWatchdogExpiry s
  | .coreFatalError ecc => Sys2Proof.Machine.execCoreFatalError ecc s
  | .coreRestart digestOk badTables badBoxes => Sys2Proof.Machine.execCoreRestart digestOk badTables badBoxes s
  | .coreGateEntry => Sys2Proof.Machine.execCoreGateEntry s
  | .coreGateWake => Sys2Proof.Machine.execCoreGateWake s
  | .stepOpen c b => Sys2Proof.Machine.execStepOpen c b s
  | .stepKill c step action => Sys2Proof.Machine.execStepKill c step action s
  | .stepAbort src globalId step action => Sys2Proof.Machine.execStepAbort src globalId step action s
  | .stepStatus c step => Sys2Proof.Machine.execStepStatus c step s
  | .preempt c => Sys2Proof.Machine.execPreempt c s
  | .resume c => Sys2Proof.Machine.execResume c s
  | .publish c va length p => Sys2Proof.Machine.execPublish c va length p s
  | .handSet c pool => Sys2Proof.Machine.execHandSet c pool s
  | .modelCreate c b => Sys2Proof.Machine.execModelCreate c b s
  | .modelLoad c model => Sys2Proof.Machine.execModelLoad c model s
  | .modelLoadDone model ok data => Sys2Proof.Machine.execModelLoadDone model ok data s
  | .modelDiscard c model => Sys2Proof.Machine.execModelDiscard c model s
  | .modelPin c model => Sys2Proof.Machine.execModelPin c model s
  | .modelUnpin c model => Sys2Proof.Machine.execModelUnpin c model s
  | .powerCap c watts => Sys2Proof.Machine.execPowerCap c watts s
  | .powerMode c mode periodUs => Sys2Proof.Machine.execPowerMode c mode periodUs s
  | .powerClear c => Sys2Proof.Machine.execPowerClear c s
  | .sensorCfg c sensor cls mv max => Sys2Proof.Machine.execSensorCfg c sensor cls mv max s
  | .powerCore c parkUs coreMw => Sys2Proof.Machine.execPowerCore c parkUs coreMw s
  | .powerWindow => Sys2Proof.Machine.execPowerWindow s
  | .phaseBoundary => Sys2Proof.Machine.execPhaseBoundary s
  | .coreIdlePark cluster core => Sys2Proof.Machine.execCoreIdlePark cluster core s
  | .coreOnRequest cluster mask => Sys2Proof.Machine.execCoreOnRequest cluster mask s
  | .coreOnAck cluster => Sys2Proof.Machine.execCoreOnAck cluster s
  | .irqClaim port target => Sys2Proof.Machine.execIrqClaim port target s
  | .irqComplete port target value => Sys2Proof.Machine.execIrqComplete port target value s
  | .irqSrcCfgWrite port source value => Sys2Proof.Machine.execIrqSrcCfgWrite port source value s
  | .irqTgtCfgWrite port target value => Sys2Proof.Machine.execIrqTgtCfgWrite port target value s
  | .hostLinkUp port cxl speed width => Sys2Proof.Machine.execHostLinkUp port cxl speed width s
  | .msixEnable port => Sys2Proof.Machine.execMsixEnable port s
  | .memoryObjectRefillEnd h => Sys2Proof.Machine.execMemoryObjectRefillEnd h s
  | .vddAonLoss => Sys2Proof.Machine.execVddAonLoss s
  | .doeDiscovery port index => Sys2Proof.Machine.execDoeDiscovery port index s

end Sys2Proof.Machine
end

