-- ==== Sys2Proof/Machine/Step.lean ====
section
/-! DEFINITION. One step of the hub: the command at the front of the queue, or one tick of table time when none waits. -/

namespace Sys2Proof.Machine

/-- One step. The front command runs with the rest of the queue in place. With no command waiting, table time advances by one
tick while it runs (R31); which clock edge falls between which commands is the choice of whoever sends them
(DESIGN CHOICE, notes/assumptions/1). -/
def step (s : State) : Host.Outcome State Fault Refusal :=
  match s.pending with
  | [] => .next (tick s)
  | c :: r => exec c { s with pending := r }

/-- The state with the command that a table word spells in front of its queue. No row of the table gives bits, so no word
spells a command, and the state stays as it is. -/
def State.withFetchWord (s : State) (nbits w : Nat) : State :=
  match decodeTableWord nbits w with
  | some c => { s with pending := c :: s.pending }
  | none => s

end Sys2Proof.Machine
end

