-- ==== Sys2Proof/Safety.lean ====
section
/-! DEFINITION. The terms in which claims about the hub are stated: the parts of its state, when two states agree but for some
parts, when the hub serves, and when a mailbox's request is taken and answered. -/

namespace Sys2Proof.Machine

/-- The parts of the state. The events (the rings' own positions), what stacks hold, the draws of the ante, and what link ports and host
ports have sent stand apart from the rest of their units, because telling the host something (an event entry, an interrupt) changes only
these. -/
inductive Part where
  | sys | ante | bnd | tables | trn | store | memory | lnk | sends | nme | tck | coh | events | objects | ports | host | mbx | pwr | irq | out
  | fresh
  deriving DecidableEq, Repr

/-- SYS but for the ante's draws. -/
def sysRest (x : SysSt) : SysSt := { x with anteHeld := [], anteWait := [], anteMaxWait := 0 }

/-- LNK but for the ports, the packets of the pairs and the open transactions. -/
def lnkRest (x : LnkSt) : LnkSt := { x with ports := [], dropCnt := 0, tx := [], txns := [], nextTag := 0 }

/-- Two states agree on a part. -/
def Part.same (s t : State) : Part → Prop
  | .sys => sysRest t.sys = sysRest s.sys
  | .ante => t.sys.anteHeld = s.sys.anteHeld ∧ t.sys.anteWait = s.sys.anteWait ∧ t.sys.anteMaxWait = s.sys.anteMaxWait
  | .bnd => t.bnd = s.bnd
  | .tables => t.tables = s.tables
  | .trn => t.trn = s.trn
  | .store => t.mem.stk = s.mem.stk ∧ t.mem.cells = s.mem.cells ∧ t.mem.keyOf = s.mem.keyOf ∧ t.mem.poison = s.mem.poison
      ∧ t.mem.poisonValid = s.mem.poisonValid ∧ t.mem.poisonTable = s.mem.poisonTable ∧ t.mem.poisonStack = s.mem.poisonStack
      ∧ t.mem.poisonRow = s.mem.poisonRow ∧ t.mem.uncorrectable = s.mem.uncorrectable
  | .memory => t.mem.rowLocal = s.mem.rowLocal ∧ t.mem.keys = s.mem.keys ∧ t.mem.corrected = s.mem.corrected
      ∧ t.mem.scrubs = s.mem.scrubs ∧ t.mem.refillHold = s.mem.refillHold ∧ t.mem.objRefill = s.mem.objRefill
      ∧ t.mem.lastLeak = s.mem.lastLeak
  | .lnk => lnkRest t.lnk = lnkRest s.lnk
  | .sends => t.lnk.ports = s.lnk.ports ∧ t.lnk.dropCnt = s.lnk.dropCnt ∧ t.lnk.tx = s.lnk.tx ∧ t.lnk.txns = s.lnk.txns
      ∧ t.lnk.nextTag = s.lnk.nextTag
  | .nme => t.nme = s.nme
  | .tck => t.tck = s.tck
  | .coh => t.coh = s.coh
  | .events => t.obj.events = s.obj.events
  | .objects => t.obj.slots = s.obj.slots ∧ t.obj.ctxs = s.obj.ctxs ∧ t.obj.queues = s.obj.queues ∧ t.obj.mems = s.obj.mems
      ∧ t.obj.channels = s.obj.channels ∧ t.obj.models = s.obj.models ∧ t.obj.dying = s.obj.dying ∧ t.obj.pages = s.obj.pages
      ∧ t.obj.dbSlots = s.obj.dbSlots ∧ t.obj.launched = s.obj.launched ∧ t.obj.nextLaunch = s.obj.nextLaunch
      ∧ t.obj.doneWaits = s.obj.doneWaits
  | .ports => t.hif.ports = s.hif.ports
  | .host => t.hif.tbl = s.hif.tbl ∧ t.hif.win = s.hif.win ∧ t.hif.hdm = s.hif.hdm ∧ t.hif.ce = s.hif.ce
      ∧ t.hif.errValid = s.hif.errValid ∧ t.hif.errPort = s.hif.errPort ∧ t.hif.errKind = s.hif.errKind
      ∧ t.hif.errTable = s.hif.errTable ∧ t.hif.errAddr = s.hif.errAddr ∧ t.hif.winWait = s.hif.winWait
      ∧ t.hif.lostWrites = s.hif.lostWrites ∧ t.hif.pageHeld = s.hif.pageHeld
  | .mbx => t.mbx = s.mbx
  | .pwr => t.pwr = s.pwr
  | .irq => t.irq = s.irq
  | .out => t.out = s.out
  | .fresh => t.fresh = s.fresh

/-- Two states agree on every part that a list does not name, and on the queue of waiting commands. -/
def SameBut (l : List Part) (s t : State) : Prop := t.pending = s.pending ∧ ∀ p, p ∉ l → p.same s t

/-- What telling the host something can change: interrupt targets, event rings, the bytes that an event entry is written over, what a
host port has sent and the draw it waits for, the packet that carries an entry whose ring has moved to another hub, and the record of what
is sent. -/
def tells : List Part := [.irq, .events, .store, .ports, .ante, .sends, .out]

/-- The hub serves: Release has been reached and the hub has not stopped. -/
def Serving (s : State) : Prop := running s = true

/-- The hub serves and the control core takes requests. -/
def CoreServes (s : State) : Prop := running s = true ∧ coreRuns s = true

/-- A message of another hub's firmware arrives at a hub that serves: v is the state once its pair has taken it as a new one (R245). What the
message does is said of v. -/
def Arrives (s : State) (src : CtrlFrom) (v : State) : Prop :=
  Serving s ∧ rxAccept 0 { src := src.node, tenant := 0, type := 0x53, eseq := src.eseq } s = (.fresh, v)

/-- A pair has room for a packet, and none waits before it: a sequenced packet to the node goes at once (R243). -/
def PairOpen (s : State) (dst : Nat) : Prop := (txOf s dst).kept.length < 4096 ∧ (txOf s dst).waiting = []

/-- An access to the registers of an interrupt target is made by one that reaches them: the control core for target 0, the host on a port
for any other (R586). -/
def ReachesTarget (s : State) (p : Fin 2) (t : Fin 9) : Prop :=
  if t = 0 then coreRuns s = true ∧ s.sys.stopped = false ∧ pllOn s 9 = true else barOpen s p.val = true

/-- A mailbox's request of a letter is taken: the core serves, version 4 is agreed, and the mailbox may send it (R510, R519, R520). -/
def Takes (s : State) (m : Fin 64) (l : Letter) : Prop :=
  CoreServes s ∧ (boxOf s m).version = 4 ∧ letterOk s m l = true

/-- An operator mailbox's request on a table that lives on this hub, or a table mailbox's on its own. -/
def OnTable (s : State) (c : Caller) (t : Nat) : Prop := callerTable s c = .ok t

/-- A mailbox shows an answer: STATE is DONE, and the response holds the status, the detail, the handle and the body (R513, R515). -/
def Answered (t : State) (m : Fin 64) (st : Status) (h : Handle) (body : List Byte) : Prop :=
  (boxOf t m).busy = false ∧ (boxOf t m).done = true
    ∧ ∃ r, (boxOf t m).resp = some r ∧ (boxOf t m).stored = some r ∧ r.status = st ∧ r.handle = h ∧ r.body = body

/-- The state in which a mailbox's request has just been taken: it is journalled and runs (R517). -/
def taken (op : Nat) (m : Fin 64) (s : State) : State :=
  boxMod m.val (fun b => { b with opcode := op, executing := true, journalled := true }) s

/-- A mailbox's request has been taken and waits for its answer. -/
def Unanswered (t : State) (m : Fin 64) : Prop := (boxOf t m).executing = true

/-- The coherence directory has nothing of its own to do: no request waits, and nothing is being recalled, flushed or copied. -/
def CohQuiet (s : State) : Prop :=
  s.coh.retry = [] ∧ s.coh.recalls = [] ∧ s.coh.flush = [] ∧ ∀ m ∈ s.bnd.moves, m.hold = false

/-- The memory's invariant: its list of cells is canonical. -/
def MemOk (s : State) : Prop := Memory.wf s.mem.cells = true

end Sys2Proof.Machine
end

