-- ==== Sys2Proof/Certificates/Slice0/Obligations.lean ====
section
/-! DEFINITION. The statements for the provers. Each says what its docstring says; a clause that completes a command gives, as its
conclusion, the next state that exec answers. -/

open Sys2Proof
open Sys2Proof.Machine

-- the frame of a step ---------------------------------------------------------------------------------------------------

/-- A step takes the command at the front of the queue and runs it on the state with the rest of the queue. The queue is the model's own
(notes/assumptions/1), and so is the tick as the step of an empty queue: there table time advances by one while it runs (R31), but for a
tick that a slew withholds (R34) and for the tick that HOLDOVER adds or withholds at the last slewed rate (notes/assumptions/130). Where it
advances, so does the renege timer of each table that has pending work (R374), unless the control core does not run (R508). Nothing else
changes. -/
def Obligations.StepRunsFront : Prop :=
  (∀ (c : Instr) (s : State), step { s with pending := c :: s.pending } = exec c s)
  ∧ (∀ s : State, s.pending = [] → step s = .next (tick s))
  ∧ (∀ s : State, s.pending = [] → ∃ t, step s = .next t
    ∧ t.sys.time = (if s.sys.timeRuns = false ∨ s.sys.withhold = true then s.sys.time
        else if rateDue s = true then (if s.sys.slewBack = true then s.sys.time else s.sys.time + 2) else s.sys.time + 1)
    ∧ t.sys.lastSlew = (if s.sys.timeRuns = true ∧ s.sys.withhold = false ∧ rateDue s = true then s.sys.time else s.sys.lastSlew)
    ∧ (∀ k, tableAt t k = (tableAt s k).map (fun tb =>
        if s.sys.timeRuns && !s.sys.withhold && !(rateDue s && s.sys.slewBack) && decide (s.mbx.core = .running) && pendingWork s k then
          { tb with renegeTicks := tb.renegeTicks + 1 }
        else tb))
    ∧ t = { s with
        sys := { s.sys with time := t.sys.time, withhold := s.sys.withhold && !s.sys.timeRuns, lastSlew := t.sys.lastSlew }
        tables := t.tables })

/-- R49: SYS_ID reads 0x584D_03B0 in every state, and so never all ones. -/
def Obligations.SysIdReads : Prop :=
  ∀ s : State, wordShown 0 s = 0x584D03B0 ∧ wordShown 0 s ≠ 0xFFFFFFFF

/-- What the register tables give for reset: the registers with a value other than 0, read through the register map right after a cold
reset; its memory is in canonical form, its queue is empty, and no interrupt is pending. -/
def Obligations.ResetState : Prop :=
  wordShown 0x210 State.reset = 0xFFFFFFFF ∧ wordShown 0x300 State.reset = 1520 ∧ wordShown 0x308 State.reset = 150
  ∧ wordShown 0x100 State.reset = 0 ∧ wordShown 0x104 State.reset = 0 ∧ wordShown 0x110 State.reset = 0
  ∧ wordShown 0x400010 State.reset = 32 ∧ wordShown 0x700010 State.reset = 100 * 256 + 20
  ∧ (∀ k : Fin 16, wordShown (0x580200 + 0x8000 * k.val) State.reset = 8 * 2 ^ 28 + 20 * 2 ^ 16 + 256)
  ∧ (∀ k : Fin 16, wordShown (0x580218 + 0x8000 * k.val) State.reset = 2)
  ∧ (∀ p : Fin 2, wordShown (0x800108 + 0x40 * p.val) State.reset = 2 ^ 31 + 7)
  ∧ wordShown 0x300000 State.reset = 400 ∧ wordShown 0x300008 State.reset = 0xF * 2 ^ 24
  ∧ wordShown 0x300010 State.reset = 16000 ∧ wordShown 0x300020 State.reset = 10 * 2 ^ 16 + 140
  ∧ MemOk State.reset ∧ State.reset.pending = [] ∧ State.reset.sys.stopped = false ∧ ∀ i, irqPending State.reset i = false

-- cold start ------------------------------------------------------------------------------------------------------------

/-- Each phase of the cold start ends in the next one (R593), with what the phase leaves: the fixed words latched; the locked PLLs, the
running time base and the link ports whose PLL did not lock FAILED; the node ID, the check slabs of R591, priority 8 of the fixed sources
(R576), the always-on record as a dump (R605) and the ports in training; the stacks' states (R182); a working stack FAILED whose checkers
fail or whose fused rows are too many (R213, R216, R592); the filled memory; and at Release open CF ports and a RUNNING control core. A
missing PLL9, PLL10 or PLL11 stops the hub with its cause. A FUSE_RDY that does not come keeps it in the Fuses phase, and is recorded in the
Stacks phase. -/
def Obligations.StartupPhases : Prop :=
  (∀ (s : State) (w : FuseWords), s.sys.phase = .fuses → s.sys.stopped = false → s.sys.fuseStuck = false →
    exec (.fusesPhase w) s = .next (irqSettle { s with sys := { s.sys with phase := .clocks, fuse := w } }))
  ∧ (∀ s : State, s.sys.phase = .fuses → s.sys.stopped = false →
    exec .fuseRdyTimeout s = .next { s with sys := { s.sys with fuseStuck := true } }
    ∧ ∀ w, ∃ t, exec (.fusesPhase w) { s with sys := { s.sys with fuseStuck := true } } = .next t ∧ t.sys.phase = .fuses)
  ∧ (∀ s : State, s.sys.phase = .stacks → s.sys.stopped = false →
    exec .fuseRdyTimeout s = .next { s with sys := { s.sys with fuseStuck := true } })
  ∧ (∀ (s : State) (locked : BitVec 12), s.sys.phase = .clocks → s.sys.stopped = false →
    ∃ u, exec (.clocksPhase locked) s = .next (irqSettle u)
      ∧ u.sys.pllLock = locked
      ∧ (locked.getLsbD 9 = true ∧ locked.getLsbD 10 = true ∧ locked.getLsbD 11 = true →
          u.sys.phase = .sram ∧ u.sys.timeRuns = true ∧ u.sys.stopped = false ∧ u.sys.pllFailed = ~~~locked
          ∧ ∀ p : Fin 16, locked.getLsbD (4 + p.val / 4) = false → (lnkPort u p.val).state = .failed ∧ (lnkPort u p.val).cause = .pll)
      ∧ (∀ k : Nat, (k = 9 ∨ (k = 10 ∧ locked.getLsbD 9 = true) ∨ (k = 11 ∧ locked.getLsbD 9 = true ∧ locked.getLsbD 10 = true)) →
          locked.getLsbD k = false → u.sys.stopped = true ∧ u.sys.aonValid = true ∧ u.sys.aonCause = k - 8))
  ∧ (∀ s : State, s.sys.phase = .sram → s.sys.stopped = false →
    exec .sramPhase s = .next (irqSettle { s with sys := { s.sys with phase := .controlCore } }))
  ∧ (∀ s : State, s.sys.phase = .controlCore → s.sys.stopped = false →
    ∃ u, exec .controlCorePhase s = .next (irqSettle u) ∧ u.sys.phase = .stacks ∧ u.sys.nodeId = s.sys.fuse.nodeId % 4096
      ∧ (∀ k : Fin 16, (stackOf u k.val).chkSlabs = fusedChk s.sys.fuse)
      ∧ (∀ i, irqFixed i = true → (irqSrcOf u i).prio = 8)
      ∧ u.sys.aonValid = false
      ∧ (s.sys.aonValid = true → ∃ d, mapGet u.mbx.dumps 0 = some d ∧ d.kind = 2 ∧ d.cause = s.sys.aonCause ∧ d.time = s.sys.aonTime)
      ∧ (s.sys.pllLock.getLsbD 8 = true → ∀ p : Fin 2, (portOf u p.val).state = .training)
      ∧ ∀ p : Fin 16, (lnkPort s p.val).state ≠ .failed → (lnkPort u p.val).state = .training)
  ∧ (∀ (s : State) (present trained : BitVec 16) (spares : List SpareEntry), s.sys.phase = .stacks → s.sys.stopped = false →
    ∃ u, exec (.stacksPhase present trained spares) s = .next (irqSettle u) ∧ u.sys.phase = .checkers
      ∧ ∀ k : Fin 16, (stackOf u k.val).state =
          (if present.getLsbD k.val = false then .absent
           else if trained.getLsbD k.val = true ∧ s.sys.pllLock.getLsbD (k.val / 4) = true then .working else .failed))
  ∧ (∀ (s : State) (pass : BitVec 16), s.sys.phase = .checkers → s.sys.stopped = false →
    ∃ u, exec (.checkersPhase pass) s = .next (irqSettle u) ∧ u.sys.phase = .fill
      ∧ ∀ k : Fin 16, (stackOf s k.val).state = .working → (stackOf u k.val).state =
          (if s.sys.fuseStuck = true ∨ (stackOf s k.val).fuseRows.length > 4096 ∨ pass.getLsbD k.val = false then .failed else .working))
  ∧ (∀ s : State, s.sys.phase = .fill → s.sys.stopped = false →
    exec .fillPhase s = .next (irqSettle { s with
      sys := { s.sys with phase := .release }, mem := { s.mem with cells := [], keyOf := [], poison := [] } }))
  ∧ (∀ s : State, s.sys.phase = .release → s.sys.stopped = false →
    exec .release s = .next (irqSettle { s with
      sys := { s.sys with phase := .released, cfOpen := true, coresOff := false }
      mbx := { s.mbx with core := .running, source := false } }))

/-- R24: a low pulse on XH_COLD_N shorter than 100 ns is ignored; one of 100 ns or longer is a cold reset of the whole hub, and the
cold-start sequence begins. Only the always-on record outlives it (R604). -/
def Obligations.ColdResetPulse : Prop :=
  (∀ (s : State) (n : Nat), n < 100 → exec (.coldReset n) s = .next s)
  ∧ (∀ (s : State) (n : Nat), n ≥ 100 → ∃ t, exec (.coldReset n) s = .next t ∧ t.sys.phase = .fuses ∧ t.sys.stopped = false
    ∧ t.sys = { State.reset.sys with aonValid := s.sys.aonValid, aonCause := s.sys.aonCause, aonTime := s.sys.aonTime }
    ∧ ∀ p, p ∉ [Part.sys, .out, .fresh] → p.same State.reset t)

/-- R604 and R57: the loss of VDD_AON erases the always-on record, and the loss of the reference clock stops the hub with the record
written. PLLs after the cold start (R27 to R30): a loss of lock latches LOST, clears LOCK and holds table time with PLL11; a relock of
PLL9 sets LOCK again, one of a link PLL trains the ports that its loss took down, and one of PLL11 sets LOCK, lets table time run and
restarts the control core; none of them clears LOST; and a PLL9, PLL10 or PLL11 that does not relock stops the hub with its record. -/
def Obligations.StopsAndRelocks : Prop :=
  (∀ s : State, exec .vddAonLoss s = .next { s with sys := { s.sys with aonValid := false, aonCause := 0, aonTime := 0 } })
  ∧ (∀ s : State, s.sys.stopped = false → exec .refclkLoss s = .next { s with sys := { s.sys with
      stopped := true, timeRuns := false, aonValid := true, aonCause := 4, aonTime := s.sys.time } })
  ∧ (∀ (s : State) (k : Fin 12), s.sys.stopped = false → s.sys.pllLock.getLsbD k.val = true →
    ∃ t, exec (.pllLossOfLock k) s = .next t
      ∧ t.sys.pllLost = s.sys.pllLost ||| BitVec.ofNat 12 (2 ^ k.val)
      ∧ t.sys.pllLock = s.sys.pllLock &&& ~~~(BitVec.ofNat 12 (2 ^ k.val))
      ∧ t.sys.timeRuns = (s.sys.timeRuns && k.val ≠ 11))
  ∧ (∀ s : State, s.sys.stopped = false → s.sys.pllOut.getLsbD 9 = true →
    ∃ t, exec (.pllRelock 9) s = .next t ∧ t.sys.pllLost = s.sys.pllLost ∧ t.sys.pllLock.getLsbD 9 = true ∧ t.sys.pllOut.getLsbD 9 = false)
  ∧ (∀ (s : State) (k : Fin 12), s.sys.stopped = false → s.sys.pllOut.getLsbD k.val = true → 4 ≤ k.val → k.val < 8 →
    ∃ u, exec (.pllRelock k) s = .next (irqSettle u) ∧ u.sys.pllLost = s.sys.pllLost ∧ u.sys.pllOut.getLsbD k.val = false
      ∧ ∀ p : Fin 16, 4 + p.val / 4 = k.val → (lnkPort s p.val).state = .down → (lnkPort s p.val).cause = .pll →
          (lnkPort u p.val).state = .training)
  ∧ (∀ s : State, s.sys.stopped = false → s.sys.pllOut.getLsbD 11 = true → s.mbx.core ≠ .romBoot →
    ∃ t, exec (.pllRelock 11) s = .next t ∧ t.sys.pllLost = s.sys.pllLost ∧ t.sys.pllLock.getLsbD 11 = true ∧ t.sys.timeRuns = true
      ∧ t.mbx.core = .restarting ∧ t.mbx.lastCause = .pll)
  ∧ (∀ (s : State) (k : Fin 12), s.sys.stopped = false → s.sys.pllOut.getLsbD k.val = true → 9 ≤ k.val →
    ∃ t, exec (.pllRelockFail k) s = .next t ∧ t.sys.stopped = true ∧ t.sys.timeRuns = false ∧ t.sys.aonValid = true
      ∧ t.sys.aonCause = k.val - 8 ∧ t.sys.aonTime = s.sys.time)

/-- Telemetry and the fabric (R20 to R23): a frame with good parity and bits [2:1] zero gives its sensor's reading and clears its stale
mark, and any other is discarded; a sensor without a frame for 10 microseconds is marked stale. A transfer with a credit at its
destination is admitted and no longer held; without one its source holds it and nothing is sent. -/
def Obligations.TelemetryAndFabric : Prop :=
  (∀ (s : State) (f : BitVec 24), s.sys.stopped = false → f.toNat / 2 % 4 = 0 → parity 24 f.toNat = 0 →
    ∃ t, exec (.telemetryFrame f) s = .next t
      ∧ mapGet t.sys.telNow (f.toNat / 2 ^ 19) = some (f.toNat / 8 % 2 ^ 16)
      ∧ mapGet t.sys.telLast (f.toNat / 2 ^ 19) = some s.sys.time
      ∧ t.sys.telStale.getLsbD (f.toNat / 2 ^ 19) = false
      ∧ (∀ i, i ≠ f.toNat / 2 ^ 19 → t.sys.telStale.getLsbD i = s.sys.telStale.getLsbD i)
      ∧ SameBut (.sys :: tells) s t)
  ∧ (∀ (s : State) (f : BitVec 24), f.toNat / 2 % 4 ≠ 0 ∨ parity 24 f.toNat ≠ 0 → exec (.telemetryFrame f) s = .next s)
  ∧ (∀ (s : State) (i : Fin 32) (last : Tick), s.sys.stopped = false → mapGet s.sys.telLast i.val = some last →
      last + 10000 ≤ s.sys.time →
    ∃ t, exec (.sensorStale i) s = .next t ∧ t.sys.telStale.getLsbD i.val = true
      ∧ (∀ j, j ≠ i.val → t.sys.telStale.getLsbD j = s.sys.telStale.getLsbD j) ∧ SameBut (.sys :: tells) s t)
  ∧ (∀ (s : State) (src dst vc : Nat), s.sys.stopped = false → pllOn s 9 = true → directPath src dst = false →
    ∃ t, exec (.fabricAdmit src dst vc true) s = .next t ∧ t.sys.fabricSent = s.sys.fabricSent + 1
      ∧ (∀ h ∈ t.sys.fabricHeld, ¬ (h.src = src ∧ h.dst = dst ∧ h.vc = vc)) ∧ SameBut (.sys :: tells) s t)
  ∧ (∀ (s : State) (src dst vc : Nat), s.sys.stopped = false → pllOn s 9 = true → directPath src dst = false →
      (∀ h ∈ s.sys.fabricHeld, ¬ (h.src = src ∧ h.dst = dst ∧ h.vc = vc)) → mapGet s.sys.escape dst = none →
    exec (.fabricAdmit src dst vc false) s = .next (irqSettle { s with sys := { s.sys with
      fabricHeld := s.sys.fabricHeld ++ [⟨src, dst, vc, s.sys.time⟩] } }))

/-- Every command of the hub completes: whatever waits at the front of the queue, and in whatever state, the step answers a next state. The
hub has no fault and refuses nothing. -/
def Obligations.EveryStepAnswers : Prop :=
  ∀ s : State, ∃ t, step s = .next t

/-- A hub that has stopped stays stopped until a cold reset (R30, R57: only XH_COLD_N restarts it): whatever other command is at the front
of the queue, the step leaves every part of the state but the always-on record as it is, and sends nothing. -/
def Obligations.StoppedUntilColdReset : Prop :=
  ∀ (s : State) (c : Instr), s.sys.stopped = true → (∀ n, c ≠ .coldReset n) →
    ∃ t, step { s with pending := c :: s.pending } = .next t ∧ t.sys.stopped = true
      ∧ t = { s with sys := { s.sys with aonValid := t.sys.aonValid, aonCause := t.sys.aonCause, aonTime := t.sys.aonTime } }

-- table time, the ante and the fabric -----------------------------------------------------------------------------------

/-- TIME (R33 to R35): a code on the active source from a sender in FREE or LOCKED is measured as local minus source, less half the round
trip (the halving is the model's choice, notes/assumptions/40). The fourth code locks, and steps forward where the hub is behind; a
LOCKED hub slews by one tick at most once in 1,000, and past 1,000 ticks sets FAULT, raises source 2, steps forward where it is behind and
slews where it is ahead. Sources of table time (R36, R52, R253): 10 microseconds of silence enter HOLDOVER with SRC_LOST and take the
second source where there is one; a write of SYS_TIME_SRC with ENABLE 0 enters FREE, and one that enables or changes PORT or ALT_PORT
acquires afresh; and a port that announced time codes sends one in each 1,000 ticks, with the port's draw and a credit. None of these last
moves SYS_TIME. -/
def Obligations.TimeFollowsSources : Prop :=
  (∀ s : State, linksOn s = true → s.sys.srcEnable = true → s.sys.timeState = .acquire ∨ s.sys.timeState = .locked →
      s.sys.time ≥ s.sys.lastCode + 10000 →
    ∃ t, exec .timeSourceSilence s = .next t ∧ t.sys.timeState = .holdover ∧ t.sys.srcLost = true ∧ t.sys.codes = 0
      ∧ t.sys.activePort = (if s.sys.srcAltValid then s.sys.srcAltPort else s.sys.srcPort) ∧ t.sys.time = s.sys.time
      ∧ SameBut (.sys :: tells) s t)
  ∧ (∀ (s : State) (p : Fin 2) (v : BitVec 32), barOpen s p.val = true → bitsOf v.toNat 31 31 = 0 →
    ∃ t, exec (.sysTimeSrcWrite p v) s = .next t ∧ t.sys.srcEnable = false ∧ t.sys.timeState = .free ∧ t.sys.time = s.sys.time
      ∧ t.sys.srcPort = bitsOf v.toNat 3 0 ∧ t.sys.srcAltPort = bitsOf v.toNat 11 8 ∧ t.sys.srcAltValid = decide (bitsOf v.toNat 12 12 = 1)
      ∧ SameBut (.sys :: tells) s t)
  ∧ (∀ (s : State) (p : Fin 2) (v : BitVec 32), barOpen s p.val = true → bitsOf v.toNat 31 31 = 1 →
      s.sys.srcEnable = false ∨ bitsOf v.toNat 3 0 ≠ s.sys.srcPort →
    ∃ t, exec (.sysTimeSrcWrite p v) s = .next t ∧ t.sys.srcEnable = true ∧ t.sys.timeState = .acquire ∧ t.sys.codes = 0
      ∧ t.sys.activePort = bitsOf v.toNat 3 0 ∧ t.sys.time = s.sys.time ∧ SameBut (.sys :: tells) s t)
  ∧ (∀ (s : State) (p : Fin 2) (v : BitVec 32), barOpen s p.val = true → bitsOf v.toNat 31 31 = 1 → s.sys.srcEnable = true →
      bitsOf v.toNat 3 0 = s.sys.srcPort → bitsOf v.toNat 11 8 ≠ s.sys.srcAltPort →
    ∃ t, exec (.sysTimeSrcWrite p v) s = .next t ∧ t.sys.timeState = .acquire ∧ t.sys.codes = 0 ∧ t.sys.time = s.sys.time
      ∧ t.sys.srcAltPort = bitsOf v.toNat 11 8 ∧ SameBut (.sys :: tells) s t)
  ∧ (∀ (s : State) (lp : Fin 16), linksOn s = true → (lnkPort s lp.val).state = .up → (lnkPort s lp.val).timeOut = true →
      s.sys.time ≥ (lnkPort s lp.val).timeAt + 1000 → anteHas s 3 lp.val = true → (creditFor (lnkPort s lp.val) 5).isSome = true →
    ∃ u, exec (.timeSend lp) s = .next (irqSettle u) ∧ (lnkPort u lp.val).timeAt = s.sys.time
      ∧ Out.link lp.val "TIME" (s.sys.time * 4 + TimeState.code s.sys.timeState) ∈ u.out ∧ SameBut [.sends, .out] s u)
  ∧ (∀ (s : State) (lp : Fin 16) (tick : Tick) (sender : TimeState) (off : Int),
    linksOn s = true → (lnkPort s lp.val).state = .up → s.sys.srcEnable = true → s.sys.activePort = lp.val →
    sender = .free ∨ sender = .locked → off = (s.sys.time : Int) - tick - ((lnkPort s lp.val).rtt / 2 : Nat) →
    ∃ t, exec (.time lp tick sender) s = .next (irqSettle t) ∧ t.sys.lastCode = s.sys.time
      ∧ t.sys.offset = max (-32767) (min 32767 off)
      ∧ (lnkPort t lp.val).lastGood = s.sys.time ∧ SameBut [.sys, .sends, .irq] s t
      ∧ (s.sys.timeState ≠ .locked → s.sys.codes < 3 →
          t.sys.timeState = .acquire ∧ t.sys.codes = s.sys.codes + 1 ∧ t.sys.time = s.sys.time)
      ∧ (s.sys.timeState ≠ .locked → s.sys.codes ≥ 3 →
          t.sys.timeState = .locked ∧ (t.sys.time : Int) = s.sys.time + max 0 (-off))
      ∧ (s.sys.timeState = .locked → off.natAbs > 1000 →
          t.sys.timeFault = true ∧ (irqSrcOf t 2).count = sat32 ((irqSrcOf s 2).count + 1)
            ∧ (t.sys.time : Int) = s.sys.time + max 0 (-off)
            ∧ (off > 0 → s.sys.time ≥ s.sys.lastSlew + 1000 → t.sys.withhold = true))
      ∧ (s.sys.timeState = .locked → off.natAbs ≤ 1000 →
          t.sys.timeFault = s.sys.timeFault
            ∧ (s.sys.time < s.sys.lastSlew + 1000 → t.sys.time = s.sys.time ∧ t.sys.withhold = s.sys.withhold)
            ∧ (s.sys.time ≥ s.sys.lastSlew + 1000 → off < 0 → t.sys.time = s.sys.time + 1)
            ∧ (s.sys.time ≥ s.sys.lastSlew + 1000 → off > 0 → t.sys.time = s.sys.time ∧ t.sys.withhold = true)))

/-- Ante draws (R38, R40, R42, R45): an operation's request waits with the units of its class; the first waiting draw is granted where it
is NORMAL and fits the ordinary pool, whole from that pool, and what waited for it goes on; a release and a withdrawal leave no draw of the
operation. -/
def Obligations.AnteDraws : Prop :=
  (∀ (s : State) (cls inst : Nat) (r : Bool), s.sys.stopped = false → pllOn s 11 = true → inst < anteMost cls →
      anteHas s cls inst = false → anteWaits s cls inst = false →
    ∃ u, exec (.anteDrawRequest cls inst r) s = .next (irqSettle u) ∧ anteWaits u cls inst = true ∧ anteUsed u = anteUsed s
      ∧ (∃ d ∈ u.sys.anteWait, d = ⟨cls, inst, r, anteUnits cls, s.sys.time⟩)
      ∧ u.sys.anteHeld = s.sys.anteHeld ∧ SameBut [.ante] s u)
  ∧ (∀ (s : State) (d : AnteDraw) (rest : List AnteDraw), s.sys.stopped = false → pllOn s 11 = true → s.sys.anteWait = d :: rest →
      d.recovery = false → d.units ≤ anteFree s →
    ∃ u, exec .anteGrant s = .next (irqSettle (cohSettle (grantGo d u))) ∧ u.sys.anteWait = rest ∧ anteHas u d.cls d.inst = true
      ∧ anteUsed u = anteUsed s + d.units ∧ anteKitty u = anteKitty s ∧ SameBut [.ante] s u)
  ∧ (∀ (s : State) (cls inst : Nat), s.sys.stopped = false → pllOn s 11 = true →
    ∃ u, exec (.anteRelease cls inst) s = .next (irqSettle u) ∧ anteHas u cls inst = false ∧ u.sys.anteWait = s.sys.anteWait
      ∧ anteUsed u ≤ anteUsed s ∧ SameBut [.ante] s u)
  ∧ (∀ (s : State) (cls inst : Nat), s.sys.stopped = false → pllOn s 11 = true →
    ∃ u, exec (.anteWithdraw cls inst) s = .next (irqSettle u) ∧ anteHas u cls inst = false ∧ anteWaits u cls inst = false
      ∧ (anteHas s cls inst = false → anteUsed u = anteUsed s) ∧ SameBut [.ante] s u)

/-- The grant of a draw never takes more than the free ordinary pool and, for a RECOVERY draw alone, the free kitty of 64 AU (R40, R43,
R44); so the draws together stay within the limit while the ordinary ones leave the kitty and the standing draw free. -/
def Obligations.AnteGrantFits : Prop :=
  ∀ (s : State), anteKitty s ≤ 64 →
    anteKitty (anteGrantHead s) ≤ 64
    ∧ (anteOrdinary s + 214 ≤ s.sys.anteLimit →
        anteOrdinary (anteGrantHead s) + 214 ≤ s.sys.anteLimit ∧ anteUsed (anteGrantHead s) ≤ s.sys.anteLimit)
    ∧ (∀ d rest, s.sys.anteWait = d :: rest → d.recovery = false → anteKitty (anteGrantHead s) = anteKitty s)
    ∧ anteOrdinary (anteGrantHead s) ≤ anteOrdinary s + anteFree s

-- BAR0 ------------------------------------------------------------------------------------------------------------------

/-- Writes of registers that have no row of their own (R6, R50, R608), on a port that takes them: a read-only register keeps its value;
MEM_LB_CFG takes its fields with a WEIGHT_HIGH or THRESHOLD of 0 held at 1, once the buckets have leaked at the old rate; the 4 bytes of a request area are stored, least significant
first; a reserved bit written 1 sets RSV_WRITE and captures the offset where no bit was set; SYS_SW_ERR clears the bits written 1; a 0
restarts a count, and a 0 in one half of TRN_MIG_CNT only that half. -/
def Obligations.RegisterWrites : Prop :=
  (∀ (s : State) (p : Fin 2) (v : BitVec 64), barOpen s p.val = true →
    exec (.registerWrite p 0x0 false v) s = .next (irqSettle s))
  ∧ (∀ (s : State) (p : Fin 2) (v : BitVec 64) (k : Fin 16), barOpen s p.val = true → bitsOf v.toNat 27 21 = 0 →
    exec (.registerWrite p (BitVec.ofNat 25 (0x580200 + 0x8000 * k.val)) false v) s
      = .next (irqSettle (stackMod k.val (fun x => { x with
          weightHigh := max 1 (bitsOf v.toNat 31 28), leakExp := bitsOf v.toNat 20 16, threshold := max 1 (bitsOf v.toNat 15 0) })
            (leakSettle k.val s))))
  ∧ (∀ (s : State) (p : Fin 2) (v : BitVec 64) (m : Fin 64) (i : Fin 448) (b : Fin 4), barOpen s p.val = true →
    ∃ t, exec (.registerWrite p (BitVec.ofNat 25 (0x110100 + 0x1000 * m.val + 4 * i.val)) false v) s = .next t
      ∧ mapGetD t.mbx.area (m.val * 4096 + 0x100 + 4 * i.val + b.val) 0 = BitVec.ofNat 8 (v.toNat / 256 ^ b.val)
      ∧ SameBut (.mbx :: tells) s t)
  ∧ (∀ (s : State) (p : Fin 2) (v : BitVec 64), barOpen s p.val = true → bitsOf v.toNat 31 11 ≠ 0 →
    ∃ t, exec (.registerWrite p 0x300 false v) s = .next t
      ∧ t = irqSettle (swErrSet 0 0x300 s) ∧ t.sys.swErr = s.sys.swErr ||| 1
      ∧ t.sys.swErrAddr = (if s.sys.swErr = 0 then 0x300 else s.sys.swErrAddr))
  ∧ (∀ (s : State) (p : Fin 2) (v : BitVec 64), barOpen s p.val = true → v.toNat < 8 →
    exec (.rw1cClear p 0x10 false v) s
      = .next (irqSettle { s with sys := { s.sys with swErr := s.sys.swErr &&& ~~~(v.setWidth 3) } }))
  ∧ (∀ (s : State) (p : Fin 2), barOpen s p.val = true →
    exec (.countRestart p 0x318 false 0) s = .next (irqSettle { s with sys := { s.sys with anteMaxWait := 0 } }))
  ∧ (∀ (s : State) (p : Fin 2), barOpen s p.val = true →
    exec (.countRestart p 0x400118 false 0) s = .next (irqSettle { s with trn := { s.trn with migToDevice := 0 } })
    ∧ exec (.countRestart p 0x40011C false 0) s = .next (irqSettle { s with trn := { s.trn with migToHost := 0 } })
    ∧ exec (.countRestart p 0x400118 true 0) s = .next (irqSettle { s with trn := { s.trn with migToHost := 0, migToDevice := 0 } }))

/-- Accesses that BAR0 does not take (R18, R19, R50, R464, R487): a read of a hole returns 0 and sets HOLE, a write of one is discarded and
sets HOLE; an access of another size or alignment than R19 allows is answered UR, logged in AER, and sets SIZE, and the first of them
while SYS_SW_ERR is 0 captures its offset. A port whose link is up and that takes no memory request (Memory Space Enable 0, or D3hot)
answers a read of BAR0 with UR and discards a write, and logs either in AER; the register it names keeps its state. -/
def Obligations.BadAccesses : Prop :=
  (∀ (s : State) (p : Fin 2) (off : BitVec 25) (wide write : Bool), barOpen s p.val = true → isHole s off.toNat wide write = true →
    ∃ t, exec (.bar0HoleAccess p off wide write) s = .next t ∧ t.sys.swErr = s.sys.swErr ||| 2
      ∧ t.sys.swErrAddr = (if s.sys.swErr = 0 then off else s.sys.swErrAddr)
      ∧ (write = false → Out.bar0Read p.val 0 ∈ t.out) ∧ SameBut (.sys :: tells) s t)
  ∧ (∀ (s : State) (p : Fin 2) (off : BitVec 25) (size : Nat) (write : Bool), barOpen s p.val = true →
      ¬ (size = 4 ∧ off.toNat % 4 = 0) → ¬ (size = 8 ∧ off.toNat % 8 = 0) →
    ∃ t, exec (.bar0BadAccess p off size write) s = .next t ∧ t.sys.swErr = s.sys.swErr ||| 4
      ∧ t.sys.swErrAddr = (if s.sys.swErr = 0 then off else s.sys.swErrAddr)
      ∧ (write = false → Out.ur p.val ∈ t.out) ∧ Out.aer p.val "UNSUPPORTED_REQUEST" ∈ t.out ∧ SameBut (.sys :: tells) s t)
  ∧ (∀ (s : State) (p : Fin 2), barOpen s p.val = false → portLinked s p.val = true →
    (∀ off wide v, exec (.registerWrite p off wide v) s = .next (irqSettle (aerLog p.val "UNSUPPORTED_REQUEST" s))
      ∧ exec (.rw1cClear p off wide v) s = .next (irqSettle (aerLog p.val "UNSUPPORTED_REQUEST" s))
      ∧ exec (.countRestart p off wide v) s = .next (irqSettle (aerLog p.val "UNSUPPORTED_REQUEST" s)))
    ∧ (∀ off wide, exec (.bar0HoleAccess p off wide false) s
        = .next (irqSettle (aerLog p.val "UNSUPPORTED_REQUEST" (emit (.ur p.val) s))))
    ∧ (∀ m v, exec (.mbxGo p m v) s = .next (irqSettle (aerLog p.val "UNSUPPORTED_REQUEST" s)))
    ∧ (∀ page slot v, exec (.doorbellWrite p page slot v) s = .next (irqSettle (aerLog p.val "UNSUPPORTED_REQUEST" s)))
    ∧ ∀ t : Fin 9, t ≠ 0 → exec (.irqClaim p t) s = .next (irqSettle (aerLog p.val "UNSUPPORTED_REQUEST" (emit (.ur p.val) s))))

-- interrupts ------------------------------------------------------------------------------------------------------------

/-- Claims and completions (R579, R580): a claim returns the best eligible source, puts it in service and disarms the target; one at a
target armed for a source no longer eligible returns 1023; one at an idle target returns 0 and changes nothing. A completion of a source
in service at the target ends it, and any other sets COMPLETE; a reserved bit written 1 sets RSV_WRITE first (R6). Target 0 is claimed and
completed by the control core, and answers no host. The source that a claim returns is eligible, and no eligible source has a
higher priority, or the same priority and a lower ID (R577, R579). -/
def Obligations.ClaimAndComplete : Prop :=
  (∀ (s : State) (p : Fin 2) (t : Fin 9), ReachesTarget s p t → irqTop s t.val ≠ 0 →
    ∃ u, exec (.irqClaim p t) s = .next (irqSettle u) ∧ (irqSrcOf u (irqTop s t.val)).insvc = some t.val
      ∧ (irqTgtOf u t.val).armed = false ∧ u.out = (if t = 0 then s.out else s.out ++ [.bar0Read p.val (irqTop s t.val)])
      ∧ SameBut [.irq, .out] s u ∧ ∀ id, id ≠ irqTop s t.val → irqSrcOf u id = irqSrcOf s id)
  ∧ (∀ (s : State) (p : Fin 2) (t : Fin 9), ReachesTarget s p t → irqTop s t.val = 0 →
    ∃ u, exec (.irqClaim p t) s = .next (irqSettle u) ∧ (irqTgtOf u t.val).armed = false
      ∧ u.out = (if t = 0 then s.out else s.out ++ [.bar0Read p.val (if (irqTgtOf s t.val).armed then 1023 else 0)])
      ∧ u.irq.srcs = s.irq.srcs ∧ SameBut [.irq, .out] s u)
  ∧ (∀ (s : State) (p : Fin 2) (t : Fin 9) (v : BitVec 32) (id : Nat), ReachesTarget s p t → v.toNat < 1024 → id = v.toNat → id ≠ 0 →
      id ≠ 1023 → (irqSrcOf s id).insvc = some t.val →
    ∃ u, exec (.irqComplete p t v) s = .next (irqSettle u) ∧ (irqSrcOf u id).insvc = none ∧ SameBut [.irq] s u
      ∧ ∀ i, i ≠ id → irqSrcOf u i = irqSrcOf s i)
  ∧ (∀ (s : State) (p : Fin 2) (t : Fin 9) (v : BitVec 32), ReachesTarget s p t → v.toNat < 1024 →
      v.toNat = 0 ∨ v.toNat = 1023 ∨ (irqSrcOf s v.toNat).insvc ≠ some t.val →
    exec (.irqComplete p t v) s = .next (irqSettle { s with irq := { s.irq with errComplete := true } }))
  ∧ (∀ (s : State) (p : Fin 2) (t : Fin 9) (v : BitVec 32), ReachesTarget s p t → v.toNat ≥ 1024 →
    ∃ u, exec (.irqComplete p t v) s = .next (irqSettle u) ∧ u.sys.swErr = s.sys.swErr ||| 1
      ∧ u.sys.swErrAddr = (if s.sys.swErr = 0 then BitVec.ofNat 25 (0x204008 + 0x20 * t.val) else s.sys.swErrAddr)
      ∧ u = complete t.val (v.toNat % 1024) (swErrSet 0 (0x204008 + 0x20 * t.val) s))
  ∧ (∀ (s : State) (t : Nat), (s.irq.srcs.map (fun x => x.1)).Pairwise (· < ·) → irqTop s t ≠ 0 →
    irqEligible s t (irqTop s t) = true
    ∧ ∀ id, (mapGet s.irq.srcs id).isSome → irqEligible s t id = true →
        (irqSrcOf s id).prio < (irqSrcOf s (irqTop s t)).prio
        ∨ ((irqSrcOf s id).prio = (irqSrcOf s (irqTop s t)).prio ∧ irqTop s t ≤ id))

/-- Configuration of sources and targets (R576, R582, R584): a source takes its priority and target, a target above 8 keeps the field and
sets TARGET, and a fixed source keeps its configuration; a write of the whole of a host target's configuration, or of one half over what
the other reads (R608), with VALID 1 binds it to a live event, with its threshold, and is disarmed unless that binding stood before (the
model's reading, notes/assumptions/26), while a dead event leaves it not valid and sets EVENT; one with VALID 0 leaves it not valid; and the
control core sets the threshold of target 0. The gated control core and MSI-X (R475, R587): the core is gated
only while no source is eligible at target 0, its target-0 context goes into the retention registers, and the first eligible source
wakes it with that context; enabling MSI-X sends the messages whose pending bits are set. -/
def Obligations.InterruptSetup : Prop :=
  (∀ (s : State) (p : Fin 2) (i : Fin 1023) (v : BitVec 32), barOpen s p.val = true → i ≠ 0 → irqFixed i.val = false →
      bitsOf v.toNat 30 8 = 0 →
    ∃ u, exec (.irqSrcCfgWrite p i v) s = .next (irqSettle u) ∧ (irqSrcOf u i.val).prio = bitsOf v.toNat 3 0
      ∧ (irqSrcOf u i.val).target = (if bitsOf v.toNat 7 4 ≤ 8 then bitsOf v.toNat 7 4 else (irqSrcOf s i.val).target)
      ∧ (u.irq.errTarget = (s.irq.errTarget || decide (bitsOf v.toNat 7 4 > 8)))
      ∧ (∀ j, j ≠ i.val → irqSrcOf u j = irqSrcOf s j) ∧ SameBut [.irq] s u)
  ∧ (∀ (s : State) (p : Fin 2) (i : Fin 1023) (v : BitVec 32), barOpen s p.val = true → irqFixed i.val = true →
      bitsOf v.toNat 30 8 = 0 → exec (.irqSrcCfgWrite p i v) s = .next (irqSettle s))
  ∧ (∀ (s : State) (p : Fin 2) (t : Fin 9) (part : RegPart) (v : BitVec 64) (w h : Nat), barOpen s p.val = true → t ≠ 0 →
      bitsOf (part.put v.toNat) 62 36 = 0 → w = part.merge (tgtCfg (irqTgtOf s t.val)) v.toNat → h = bitsOf w 31 0 →
    ∃ u, exec (.irqTgtCfgWrite p t ⟨part, v⟩) s = .next (irqSettle u) ∧ SameBut [.irq] s u
      ∧ (irqTgtOf u t.val).threshold = bitsOf w 35 32 ∧ (irqTgtOf u t.val).event = h
      ∧ (bitsOf w 63 63 = 1 → (irqTgtOf u t.val).valid = eventLive s h
          ∧ u.irq.errEvent = (s.irq.errEvent || !eventLive s h)
          ∧ (eventLive s h = true → (irqTgtOf u t.val).armed =
              ((irqTgtOf s t.val).armed && (irqTgtOf s t.val).valid && decide ((irqTgtOf s t.val).event = h))))
      ∧ (bitsOf w 63 63 = 0 → (irqTgtOf u t.val).valid = false ∧ u.irq.errEvent = s.irq.errEvent))
  ∧ (∀ (s : State) (p : Fin 2) (part : RegPart) (v : BitVec 64), ReachesTarget s p 0 → bitsOf (part.put v.toNat) 62 36 = 0 →
      bitsOf (part.put v.toNat) 31 0 = 0 →
    ∃ u, exec (.irqTgtCfgWrite p 0 ⟨part, v⟩) s = .next (irqSettle u) ∧ SameBut [.irq] s u
      ∧ (irqTgtOf u 0).threshold = bitsOf (part.merge (tgtCfg (irqTgtOf s 0)) v.toNat) 35 32 ∧ (irqTgtOf u 0).valid = true)
  ∧ (∀ s : State, CoreServes s → irqTop s 0 = 0 →
    ∃ t, exec .coreGateEntry s = .next t ∧ t.mbx.gated = true ∧ t.mbx.core = .running
      ∧ ∃ u : State, t = irqSettle u ∧ u.irq.retThreshold = (irqTgtOf s 0).threshold ∧ u.irq.retArmed = (irqTgtOf s 0).armed
        ∧ (∀ id, id ∈ u.irq.retInsvc ↔ ∃ x ∈ s.irq.srcs, x.1 = id ∧ x.2.insvc = some 0) ∧ SameBut [.mbx, .irq] s u)
  ∧ (∀ s : State, running s = true → s.mbx.gated = true → irqTop s 0 ≠ 0 →
    ∃ t, exec .coreGateWake s = .next t ∧ t.mbx.gated = false
      ∧ ∃ u : State, t = irqSettle u ∧ (irqTgtOf u 0).threshold = s.irq.retThreshold
        ∧ (irqTgtOf u 0).armed = ((irqTgtOf s 0).armed || s.irq.retArmed)
        ∧ (∀ id ∈ s.irq.retInsvc, (irqSrcOf u id).insvc = some 0) ∧ SameBut [.mbx, .irq] s u)
  ∧ (∀ (s : State) (p : Fin 2), hostOn s = true → (portOf s p.val).state = .up →
    ∃ u, exec (.msixEnable p) s = .next (irqSettle u) ∧ (portOf u p.val).msix = true ∧ (portOf u p.val).msixPend = []
      ∧ (∀ v ∈ (portOf s p.val).msixPend, Out.msix p.val v ∈ u.out) ∧ SameBut [.ports, .out] s u)

-- reseating -------------------------------------------------------------------------------------------------------------

/-- RESEAT (R81, R521, R524): a table unknown to the hub is GONE; a hub that does not lead the table answers a field outside its range RANGE,
and otherwise passes the request to the lead hub and answers later; the lead hub answers a refusal of R81 at once, and T less than 50,000
ticks ahead is one; otherwise it notes the reseat with the next epoch (R72) and sends PREPARE to every other hub that takes part. A request
that another hub passed on is taken alike, and a refusal goes back; while the control core does not run it waits (R507). -/
def Obligations.ReseatRequests : Prop :=
  (∀ (s : State) (c : Caller) (b : ReseatBody), Takes s c.mbx .o → slotOfGlobal s b.globalId = none →
    ∃ t, exec (.reseat c b) s = .next t ∧ Answered t c.mbx .gone 0 [] ∧ SameBut (.mbx :: tells) s t)
  ∧ (∀ (s : State) (c : Caller) (b : ReseatBody) (k : Nat) (tb : Table), Takes s c.mbx .o → slotOfGlobal s b.globalId = some k →
      tableAt s k = some tb → tb.lead ≠ s.sys.nodeId → tb.destroying = false → reseatBad b = true →
    ∃ t, exec (.reseat c b) s = .next t ∧ Answered t c.mbx .range 0 [] ∧ SameBut (.mbx :: tells) s t)
  ∧ (∀ (s : State) (c : Caller) (b : ReseatBody) (k : Nat) (tb : Table), Takes s c.mbx .o → slotOfGlobal s b.globalId = some k →
      tableAt s k = some tb → tb.lead ≠ s.sys.nodeId → tb.destroying = false → reseatBad b = false →
    ∃ t, exec (.reseat c b) s = .next t ∧ Unanswered t c.mbx ∧ Out.reseatFwd tb.lead b ∈ t.out
      ∧ SameBut (([.mbx, .bnd] : List Part) ++ tells) s t)
  ∧ (∀ (s : State) (c : Caller) (b : ReseatBody) (k : Nat) (tb : Table), Takes s c.mbx .o → slotOfGlobal s b.globalId = some k →
      tableAt s k = some tb → tb.lead = s.sys.nodeId →
      (leadStatus s k tb b ≠ .ok →
        ∃ t, exec (.reseat c b) s = .next t ∧ Answered t c.mbx (leadStatus s k tb b) 0 [] ∧ SameBut (.mbx :: tells) s t)
      ∧ (b.t < s.sys.time + 50000 → tb.destroying = false → ¬ (b.newBinding = 0xFFFF ∧ (mapGetD tb.dir b.seat {}).epoch = 0) →
          leadStatus s k tb b = .range)
      ∧ (leadStatus s k tb b = .ok →
          ∃ u, leadTake b (some c.mbx) none k tb (taken 0x101 c.mbx s) = .ok u ∧ exec (.reseat c b) s = .next (irqSettle u)
            ∧ (∃ r ∈ u.bnd.lead, r.req = b ∧ r.newEpoch = epochNext (mapGetD tb.dir b.seat {}).lastEpoch)
            ∧ ∀ n ∈ reseatNodes tb b, n ≠ s.sys.nodeId → ∃ p : PrepareBody, p.req = b
                ∧ p.newEpoch = epochNext (mapGetD tb.dir b.seat {}).lastEpoch ∧ Out.prepare n p ∈ u.out))
  ∧ (∀ (s v : State) (src : CtrlFrom) (k : Nat) (b : ReseatBody) (tb : Table), Arrives s src v → coreAnswers v = true →
      slotOfGlobal v b.globalId = some k → tableAt v k = some tb → src.node ∈ membersOf tb → tb.lead = v.sys.nodeId →
      (leadStatus v k tb b ≠ .ok → ∃ u, exec (.reseatFwd src b) s = .next (irqSettle u)
        ∧ Out.ctrl src.node 0x800 b.globalId b.seat (leadStatus v k tb b) 0 ∈ u.out ∧ SameBut tells v u)
      ∧ (leadStatus v k tb b = .ok → ∃ u, leadTake b none (some src.node) k tb (irqRaise 11 v) = .ok u
        ∧ exec (.reseatFwd src b) s = .next (irqSettle u)))
  ∧ (∀ (s v : State) (src : CtrlFrom) (b : ReseatBody), Arrives s src v → coreAnswers v = false →
    exec (.reseatFwd src b) s = .next (irqSettle { v with mbx := { v.mbx with ctrlHeld := v.mbx.ctrlHeld ++ [.reseatFwd src.node b] } }))

/-- The agreement at a member (R82, R83, R87): PREPARE from the lead hub arms a slot and the new binding, and is answered; a refusal arms
nothing; COMMIT before T is recorded and waits; and a member without a decision from T − 10,000 ticks asks the lead hub. What a member sends
about the seat carries its number and the new epoch (R75). -/
def Obligations.ReseatAtMember : Prop :=
  (∀ (s v : State) (src : CtrlFrom) (p : PrepareBody) (k j : Nat) (tb : Table), Arrives s src v → coreAnswers v = true →
      slotOfGlobal v p.req.globalId = some k → tableAt v k = some tb → src.node = tb.lead → tb.lead ≠ v.sys.nodeId →
      prepareStatus v k p = .ok → mapFree v.bnd.slots 64 = some j →
    ∃ u, exec (.prepare src p) s = .next (irqSettle u) ∧ (mapGetD u.bnd.slots j {}).phase = .accepted
      ∧ (mapGetD u.bnd.slots j {}).t = p.req.t ∧ (mapGetD u.bnd.slots j {}).newEpoch = p.newEpoch
      ∧ (p.req.newBinding ≠ 0xFFFF → p.req.newNode = v.sys.nodeId →
          (bindAt u p.req.newBinding).state = .armed ∧ (bindAt u p.req.newBinding).armT = p.req.t)
      ∧ (∀ i, i ≠ p.req.newBinding → bindAt u i = bindAt v i)
      ∧ Out.seatMsg tb.lead 0x802 p.req.globalId p.req.seat p.newEpoch .ok 0 ∈ u.out ∧ SameBut (.bnd :: tells) v u)
  ∧ (∀ (s v : State) (src : CtrlFrom) (p : PrepareBody) (k : Nat) (tb : Table), Arrives s src v → coreAnswers v = true →
      slotOfGlobal v p.req.globalId = some k → tableAt v k = some tb → src.node = tb.lead → tb.lead ≠ v.sys.nodeId →
      prepareStatus v k p ≠ .ok →
    ∃ u, exec (.prepare src p) s = .next (irqSettle u)
      ∧ Out.seatMsg tb.lead 0x802 p.req.globalId p.req.seat p.newEpoch (prepareStatus v k p) 0 ∈ u.out ∧ SameBut tells v u)
  ∧ (∀ (s v : State) (src : CtrlFrom) (g seat epoch k j : Nat) (tb : Table) (x : ReseatSlot), Arrives s src v → slotOfGlobal v g = some k →
      tableAt v k = some tb → src.node = tb.lead → reseatSlotOf v k seat epoch = some (j, x) → v.sys.time < x.t →
      (bindAt v x.old).state ≠ .suspended →
    ∃ u, exec (.decision src g ⟨seat, epoch⟩ true) s = .next (irqSettle u) ∧ mapGet u.bnd.slots j = some { x with phase := .committed }
      ∧ (∀ i, bindAt u i = bindAt v i) ∧ SameBut [.bnd, .irq] v u)
  ∧ (∀ (s : State) (j : Fin 64) (tb : Table) (x : ReseatSlot), Serving s → mapGet s.bnd.slots j.val = some x → tableAt s x.table = some tb →
      tb.lead ≠ s.sys.nodeId → x.phase = .accepted ∨ x.phase = .noDecision → s.sys.time + 10000 ≥ x.t →
      x.polled = 0 ∨ s.sys.time ≥ x.polled + 2000 →
    ∃ u, exec (.reseatStatusPoll j) s = .next (irqSettle u) ∧ Out.seatMsg tb.lead 0x804 tb.globalId x.seat x.newEpoch .ok 0 ∈ u.out
      ∧ mapGet u.bnd.slots j.val = some { x with polled := s.sys.time } ∧ SameBut [.bnd, .sends, .out] s u)

/-- The agreement at the lead hub (R83, R89, R614): an acceptance from a hub that takes part counts up to T − 25,000 ticks, and the last one
commits; a refusal by then cancels; an answer after it changes nothing but source 11; the deadline cancels what is open; STATUS is answered
with the decision on record; and a decision is recorded and sent to every other hub that takes part. -/
def Obligations.ReseatAtLead : Prop :=
  (∀ (s v : State) (src : CtrlFrom) (g seat epoch k : Nat) (tb : Table) (r : LeadReseat) (st : Status), Arrives s src v →
      slotOfGlobal v g = some k → tableAt v k = some tb → leadOpen v g seat = some r → r.newEpoch = epoch →
      src.node ∈ reseatNodes tb r.req → src.node ∉ r.accepted → r.firstRefusal = none →
      (v.sys.time + 25000 ≤ r.req.t → st = .ok → (∃ n ∈ reseatNodes tb r.req, n ∉ r.accepted ∧ n ≠ src.node) →
        ∃ u, exec (.prepareAnswer src g ⟨seat, epoch⟩ st) s = .next (irqSettle u)
          ∧ leadOpen u g seat = some { r with accepted := r.accepted ++ [src.node] } ∧ SameBut [.bnd, .irq] v u)
      ∧ (v.sys.time + 25000 ≤ r.req.t → st = .ok → (∀ n ∈ reseatNodes tb r.req, n ∈ r.accepted ∨ n = src.node) →
        ∃ u, exec (.prepareAnswer src g ⟨seat, epoch⟩ st) s
            = .next (irqSettle (leadDecide k { r with accepted := r.accepted ++ [src.node] } true u)) ∧ SameBut [.bnd, .irq] v u)
      ∧ (v.sys.time + 25000 ≤ r.req.t → st ≠ .ok →
        ∃ u, exec (.prepareAnswer src g ⟨seat, epoch⟩ st) s = .next (irqSettle (leadDecide k { r with firstRefusal := some st } false u))
          ∧ SameBut [.bnd, .irq] v u)
      ∧ (v.sys.time + 25000 > r.req.t → exec (.prepareAnswer src g ⟨seat, epoch⟩ st) s = .next (irqSettle (irqRaise 11 v))))
  ∧ (∀ (s : State) (g seat k : Nat) (r : LeadReseat), Serving s → slotOfGlobal s g = some k → leadOpen s g seat = some r →
      s.sys.time + 20000 ≥ r.req.t →
    exec (.reseatDecisionDeadline g seat) s = .next (irqSettle (leadDecide k r false s)))
  ∧ (∀ (s v : State) (src : CtrlFrom) (g seat epoch k : Nat) (tb : Table) (r : LeadReseat) (d : Bool), Arrives s src v →
      slotOfGlobal v g = some k → tableAt v k = some tb → src.node ∈ membersOf tb →
      v.bnd.lead.find? (fun r => r.req.globalId = g && r.req.seat = seat && r.newEpoch = epoch) = some r → r.decided = some d →
    ∃ u, exec (.status src g ⟨seat, epoch⟩) s = .next (irqSettle u) ∧ Out.seatMsg src.node 0x803 g seat epoch .ok (b2n d) ∈ u.out
      ∧ SameBut tells v u)
  ∧ (∀ (s : State) (t : Nat) (tb : Table) (r : LeadReseat) (d : Bool), tableAt s t = some tb → r ∈ s.bnd.lead →
      ∃ u, leadDecide t r d s = decisionHere t r.req.seat r.newEpoch d u ∧ { r with decided := some d } ∈ u.bnd.lead
        ∧ (∀ n ∈ reseatNodes tb r.req, n ≠ s.sys.nodeId →
            Out.seatMsg n 0x803 r.req.globalId r.req.seat r.newEpoch .ok (b2n d) ∈ u.out))

/-- The switch (R70, R72, R83 to R85, R87): at T a committed slot of a link seat switches, the directory takes the new epoch and binding,
the new binding is BOUND under it, the old one FREE, and the renege timer restarts (R373); a slot without a decision suspends its old
binding; an unseated cluster that holds no line any more becomes FREE and is reported to the lead hub with its seat and epoch; and the
second report answers the request OK. -/
def Obligations.ReseatSwitches : Prop :=
  (∀ (s : State) (j : Fin 64) (x : ReseatSlot) (tb : Table), Serving s → mapGet s.bnd.slots j.val = some x → tableAt s x.table = some tb →
      x.phase = .committed → s.sys.time ≥ x.t → x.kind = .link → s.bnd.held = [] → (∀ r ∈ s.bnd.lead, r.newFailed = false) →
      (s.bnd.seats.map (fun y => y.1)).Pairwise (· < ·) → (s.bnd.slots.map (fun y => y.1)).Pairwise (· < ·) →
      (bindAt s x.new).state ≠ .failed → (bindAt s x.old).state ≠ .failed → x.old ≠ x.new →
    ∃ u, exec (.reseatSwitch j) s = .next (irqSettle (waitersRecheck u)) ∧ mapGet u.bnd.slots j.val = none
      ∧ dirEntry u x.table x.seat = seatAfter x
      ∧ (∃ tb', tableAt u x.table = some tb' ∧ tb'.renegeTicks = 0 ∧ tb'.renegedOnce = false)
      ∧ (x.newHere = true → bindAt u x.new = { epoch := x.newEpoch, seat := x.seat, table := x.table, state := .bound })
      ∧ (x.oldHere = true → bindAt u x.old = {})
      ∧ SameBut (([.bnd, .tables, .mbx] : List Part) ++ tells) s u)
  ∧ (∀ (s : State) (j : Fin 64) (x : ReseatSlot), Serving s → mapGet s.bnd.slots j.val = some x → x.phase = .accepted →
      s.sys.time ≥ x.t → x.oldHere = true → (bindAt s x.old).state = .bound → s.bnd.held = [] →
    ∃ u, exec (.reseatSwitch j) s = .next (irqSettle u) ∧ mapGet u.bnd.slots j.val = some { x with phase := .noDecision }
      ∧ bindAt u x.old = { bindAt s x.old with state := .suspended } ∧ (∀ i, i ≠ x.old → bindAt u i = bindAt s i)
      ∧ SameBut [.bnd, .nme, .ante] s u)
  ∧ (∀ (s : State) (cl : Fin 120) (c : Clearing) (k : Nat), Serving s → mapGet s.bnd.clearing cl.val = some c →
      clusterHolds s cl.val = false → (∀ x ∈ s.trn.shoot, x.clusters.contains cl.val = false) → slotOfGlobal s c.globalId = some k →
      c.newNode = 4096 → c.lead ≠ s.sys.nodeId → s.sys.nodeId < 4096 → (bindAt s cl.val).state = .refill →
      (s.bnd.seats.map (fun y => y.1)).Pairwise (· < ·) →
    ∃ u, exec (.clusterClearingEnd cl) s = .next (irqSettle u) ∧ bindAt u cl.val = {}
      ∧ Out.seatMsg c.lead 0x809 c.globalId c.seat c.epoch .ok cl.val ∈ u.out ∧ SameBut [.bnd, .pwr, .sends, .out] s u)
  ∧ (∀ (s v : State) (src : CtrlFrom) (g seat epoch k : Nat) (tb : Table) (r : LeadReseat) (m : Fin 64), Arrives s src v →
      coreAnswers v = true → slotOfGlobal v g = some k → tableAt v k = some tb → tb.lead = v.sys.nodeId → src.node ∈ membersOf tb →
      r.req.newNode = src.node → v.bnd.lead = [r] → r.req.globalId = g → r.req.seat = seat → r.newEpoch = epoch → r.decided = some true →
      r.unanswered = true → r.caller = some m → r.fwdFrom = none → r.oldReported = true → (∀ x ∈ v.bnd.seats, x.2.held = false) →
    ∃ u, exec (.switched src g seat epoch r.req.newBinding) s = .next (irqSettle u) ∧ Answered u m .ok 0 []
      ∧ SameBut [.bnd, .mbx, .irq] v u)

/-- Moves of channel seats (R91 to R97): of the waiting moves one with the earliest effective tick starts while fewer than 8 run; a granule
whose lines are recalled and entries fenced is decoded and copied under its draw, within the hub at once and to another hub packet by
packet; and ALIAS_RELEASE is GONE without an alias, BUSY while the copy runs, and otherwise puts the old slab into REFILL with the contexts
saved in it LOST (R448), or, where it moved because of a failing row, leaves it FAILED (R215). -/
def Obligations.ChannelMoves : Prop :=
  (∀ (s : State), Serving s → (∃ m ∈ s.bnd.moves, m.running = false ∧ m.done = false) →
      (s.bnd.moves.filter (fun x => x.running && !x.done)).length < 8 →
    ∃ m ∈ s.bnd.moves, m.running = false ∧ m.done = false ∧ (∀ x ∈ s.bnd.moves, x.running = false → x.done = false → m.t ≤ x.t)
      ∧ exec .channelMoveStart s = .next (irqSettle (aliasMod m.old (fun x => { x with running := true }) s)))
  ∧ (∀ (s u v w : State) (b row : Nat) (decs : List (Nat × Decoded)) (m : ChannelMove) (a : Loc), Serving s → aliasMove s b = some m →
      m.running = true → m.done = false → m.left = 0 → a = granuleLoc b m.granules 0 → pllOn s (a.stack / 4) = true →
      row = a.local_ / 1024 → u = fenceRows a.stack row (row + 64) (cohSettle (aliasMod b (fun x => { x with hold := true }) s)) →
      u.coh.dir.any (fun x => !x.2.proxy && lineHeld u x.1) = false →
      copyTake (moveInst b) (mapGet u.bnd.spareMoves b).isSome u = (true, v) → w = granuleDecode b m.granules decs v →
      (m.node = w.sys.nodeId → exec (.granuleCopy b decs) s = .next (irqSettle (granuleDone b ((List.range 64).foldl (fun v i =>
        cbCopy (tableKey w m.table) (granuleLoc b m.granules i) (granuleLoc m.new m.granules i) v) w))))
      ∧ (m.node ≠ w.sys.nodeId → exec (.granuleCopy b decs) s = .next (irqSettle (granuleSend m w))))
  ∧ (∀ (s : State) (c : Caller) (k seat : Nat), Takes s c.mbx .ot → OnTable s c k →
      (∀ m ∈ s.bnd.moves, ¬ (m.table = k ∧ m.seat = seat)) →
    ∃ t, exec (.aliasRelease c seat) s = .next t ∧ Answered t c.mbx .gone 0 [] ∧ SameBut (.mbx :: tells) s t)
  ∧ (∀ (s : State) (c : Caller) (k seat : Nat) (m : ChannelMove), Takes s c.mbx .ot → OnTable s c k →
      s.bnd.moves.find? (fun x => x.table = k && x.seat = seat) = some m →
      (m.done = false → ∃ t, exec (.aliasRelease c seat) s = .next t ∧ Answered t c.mbx .busy 0 [] ∧ SameBut (.mbx :: tells) s t)
      ∧ (m.done = true → ∀ (u : State) (i j : Nat), i = (m.old - 120) / 48 → j = (m.old - 120) % 48 → u = { taken 0x102 c.mbx s with
            bnd := { s.bnd with moves := s.bnd.moves.filter (fun x => x.old ≠ m.old), spareMoves := mapDel s.bnd.spareMoves m.old } } →
          (mapGet s.bnd.spareMoves m.old = none → mapDel s.bnd.spareMoves m.old = s.bnd.spareMoves →
            exec (.aliasRelease c seat) s = .next (irqSettle (answer c.mbx.val { st := .ok }
              (waitersRecheck (savedLose i j (refillEnter i j (recallSlab i j u)))))))
          ∧ ((mapGet s.bnd.spareMoves m.old).isSome = true → exec (.aliasRelease c seat) s = .next (irqSettle (answer c.mbx.val { st := .ok }
              (waitersRecheck (bindPut m.old { state := .failed } (recallSlab i j u))))))))

-- messages to seats and near-memory attention -----------------------------------------------------------------------------

/-- A command message that arrives (R76 to R78, R250, R284, R285, R287, R434): a seat that holds the message's epoch acts on it, one that
is ARMED for it holds it, and any other counts it and answers STALE with the seat and the epoch that it rejects. A LAUNCH is dispatched; a
part with no room among the 64 sub-commands is answered BUSY; a query piece and a cancel are answered OK, and after a cancel the sub-command
is gone. Answers at the issuing hub (R71, R79, R80, R285): the eighth STALE in a row ends the command STALE; before it a message whose
directory entry has changed is sent again, and one whose entry has not asks the lead hub, where the own copy at the lead hub is its answer
(10 microseconds' wait for a SUSPENDED or FAILED seat, else another send); the waits of 10 and 1 microseconds end in another send, which goes
out under the directory's entry; a hub that asks is answered by the lead hub; and an answer that is due goes into the directory copy, and the
messages that asked for it are sent again or wait. -/
def Obligations.SeatMessages : Prop :=
  (∀ (s u : State) (lp : Fin 16) (p : Packet) (m e i : Nat) (a : List Byte), Serving s → p.type = 3 → rxAccept lp.val p s = (.fresh, u) →
      seatTake u p.tenant p.addr p.epoch true = .takes i →
    exec (.cmd lp p (.launch m e a)) s
      = .next (irqSettle (launchHere i (bindAt u i).table (.launch m e a) p.rerun none (some (p.src, p.tag)) u)))
  ∧ (∀ (s u : State) (lp : Fin 16) (p : Packet) (sub : SubCmd) (i : Nat), Serving s → p.type = 3 → rxAccept lp.val p s = (.fresh, u) →
      seatTake u p.tenant p.addr p.epoch (isLaunch sub) = .holds i →
    ∃ t, exec (.cmd lp p sub) s = .next (irqSettle t) ∧ t.bnd.held = u.bnd.held ++ [⟨i, p.epoch, p, sub⟩] ∧ SameBut [.bnd] u t)
  ∧ (∀ (s u : State) (lp : Fin 16) (p : Packet) (sub : SubCmd), Serving s → p.type = 3 → rxAccept lp.val p s = (.fresh, u) →
      seatTake u p.tenant p.addr p.epoch (isLaunch sub) = .stale → seatOther u p sub = false →
    ∃ t, exec (.cmd lp p sub) s = .next (irqSettle (packetSend p.src
        { src := 0, tenant := p.tenant, type := 0x20, status := .stale, tag := p.tag, addr := p.addr, epoch := p.epoch } t))
      ∧ t.bnd.staleCnt = sat32 (u.bnd.staleCnt + 1) ∧ SameBut [.bnd] u t)
  ∧ (∀ (s u : State) (lp : Fin 16) (p : Packet) (f g : Nat) (pool : PoolDesc) (a b c d e h : Nat) (es : List SplitEntry) (i : Nat),
      Serving s → p.type = 3 → rxAccept lp.val p s = (.fresh, u) → seatTake u p.tenant p.addr p.epoch false = .takes i →
      (subRoom p.src f (bindAt u i).table u = none →
        exec (.attnPart lp p (.attnPart f g pool a b c d e h es)) s = .next (irqSettle (packetReply p 0x20 .busy [] u)))
      ∧ ∀ v, subRoom p.src f (bindAt u i).table u = some v →
        exec (.attnPart lp p (.attnPart f g pool a b c d e h es)) s
          = .next (irqSettle (subStart p.src f (subMod p.src f (fun x =>
              { x with tag := p.tag, part := some (.attnPart f g pool a b c d e h es), table := (bindAt u i).table,
                       seat := p.addr, epoch := p.epoch }) v))))
  ∧ (∀ (s u v : State) (lp : Fin 16) (p : Packet) (f n i : Nat) (bs : List Byte), Serving s → p.type = 3 →
      rxAccept lp.val p s = (.fresh, u) → seatTake u p.tenant p.addr p.epoch false = .takes i →
      subRoom p.src f (bindAt u i).table u = some v →
    ∃ w, exec (.queryPiece lp p (.queryPiece f n bs)) s = .next (irqSettle (packetReply p 0x20 .ok [] (subStart p.src f w)))
      ∧ (∀ x ∈ w.nme.subs, x.src = p.src → x.fold = f → x.started = false → mapGet x.pieces n = some bs))
  ∧ (∀ (s u : State) (lp : Fin 16) (p : Packet) (f g i : Nat), Serving s → p.type = 3 → rxAccept lp.val p s = (.fresh, u) →
      seatTake u p.tenant p.addr p.epoch false = .takes i →
    ∃ w, exec (.attnCancel lp p (.attnCancel f g)) s = .next (irqSettle (packetReply p 0x20 .ok [] w))
      ∧ (∀ x ∈ w.nme.subs, ¬ (x.src = p.src ∧ x.fold = f)) ∧ SameBut [.nme, .ante] u w)
  ∧ (∀ (s u : State) (tag own : Nat) (tx : Txn) (x : StaleTx) (r : CmdRef) (tb : Table), Serving s → txnOf s tag = some tx →
      tx.what = .subcmd own → staleOf s own = some x → x.cmd = some r → tableAt s x.table = some tb →
      u = staleMod own (fun y => { y with count := y.count + 1 }) (txnClose tag s) →
      (x.count ≥ 7 → exec (.staleAnswer tag) s = .next (irqSettle (failCmd r .stale 0 (staleDel own u))))
      ∧ (x.count < 7 → (dirEntry s x.table x.seat).epoch ≠ x.epoch →
          exec (.staleAnswer tag) s = .next (irqSettle (cmdAgain own u)))
      ∧ (x.count < 7 → (dirEntry s x.table x.seat).epoch = x.epoch → tb.lead ≠ s.sys.nodeId →
          exec (.staleAnswer tag) s = .next (irqSettle (seatSend tb.lead 0x805 tb.globalId x.seat x.epoch .ok 0
            (staleMod own (fun y => { y with resolving := true }) u))))
      ∧ (x.count < 7 → (dirEntry s x.table x.seat).epoch = x.epoch → tb.lead = s.sys.nodeId →
          exec (.staleAnswer tag) s = .next (irqSettle (resolvedFor own (dirEntry s x.table x.seat) u))))
  ∧ (∀ (s : State) (tag : Nat) (e : SeatEntry),
      (e.state = .suspended ∨ e.state = .failed → ∃ t, resolvedFor tag e s = t ∧ (tag, s.sys.time + 10000) ∈ t.nme.busyResend
        ∧ (∀ x ∈ t.bnd.stale, x.tag = tag → x.waiting = true) ∧ SameBut [.bnd, .nme] s t)
      ∧ (e.state ≠ .suspended → e.state ≠ .failed → resolvedFor tag e s = cmdAgain tag s))
  ∧ (∀ (s : State) (tag : Nat) (x : StaleTx), Serving s → staleOf s tag = some x → resendDue s tag = true →
      (x.waiting = true → exec (.staleResendDelay tag) s = .next (irqSettle (cmdAgain tag (resendTake tag s))))
      ∧ (x.waiting = false → exec (.subcmdResend tag) s = .next (irqSettle (cmdOut x (resendTake tag s)))))
  ∧ (∀ (s : State) (tag : Nat) (x : StaleTx) (c : SubCmd), staleOf s tag = some x → x.msg = .sub c → x.rest = [] →
      cmdFar s x (dirEntry s x.table x.seat) = true →
      ∃ v : State, SameBut [.bnd] s v
        ∧ cmdAgain tag s = cmdOut { x with epoch := (dirEntry s x.table x.seat).epoch, waiting := false, resolving := false } v)
  ∧ (∀ (s : State) (x : StaleTx) (c : SubCmd), x.msg = .sub c →
      ∃ p, Out.subcmd (dirEntry s x.table x.seat).node x.seat (dirEntry s x.table x.seat).epoch s.lnk.nextTag p c ∈ (cmdOut x s).out)
  ∧ (∀ (s v : State) (src : CtrlFrom) (g seat epoch k : Nat) (tb : Table), Arrives s src v → coreAnswers v = true →
      slotOfGlobal v g = some k → tableAt v k = some tb → src.node ∈ membersOf tb → tb.lead = v.sys.nodeId →
    ∃ t, exec (.resolve (.ask src g ⟨seat, epoch⟩)) s = .next (irqSettle t) ∧ Out.seatEntry src.node g seat (mapGetD tb.dir seat {}) ∈ t.out
      ∧ SameBut tells v t)
  ∧ (∀ (s v : State) (src : CtrlFrom) (g seat k : Nat) (tb : Table) (e : SeatEntry), Arrives s src v → slotOfGlobal v g = some k →
      tableAt v k = some tb → src.node = tb.lead → tb.lead ∈ membersOf tb → entryDue v k seat tb = true →
      ∃ u, dirEntry u k seat = e ∧ SameBut [.tables, .irq] v u
        ∧ (∀ mine, mine = v.bnd.stale.filter (fun x => x.table = k && x.seat = seat && x.resolving) →
            (mine = [] → exec (.resolve (.answer src g seat e)) s = .next (irqSettle u))
            ∧ (mine ≠ [] → exec (.resolve (.answer src g seat e)) s = .next (irqSettle (mine.foldl (fun w x => resolvedFor x.tag e w) u)))))

/-- ATTN_DECODE and its folds (R143, R270, R273, R278 to R283, R286): the command's three reads are made and, all good and within range, it
starts; a field out of range ends it with the status that R16 chooses; an engine task whose pass is done, or that has a failure, sends its
records and ends; the commands and sub-commands that wait for a fold slot try again, the oldest first; a fold port takes the piece of the
lowest engine, and a piece waits while its port has one of a lower engine; a PARTIAL is taken for an open fold of its tenant that awaits the
record and DENIED otherwise. -/
def Obligations.AttentionCommands : Prop :=
  (∀ (s s1 s2 s3 : State) (r : CmdRef) (q : Queue) (x : QEntry) (c : NmeCmd) (raw : List Byte) (cx : Ctx) (b : AttnBody)
      (u : Accessor) (pb sb qb : List Byte) (es : List SplitEntry), Serving s → queueOf s r.queue = some q → entryOf s r = some x →
      x.state = .dispatched → x.d.body = .nme c raw →
      c.body = .attnDecode b.poolVa b.splitVa b.qVa b.outVa b.btOffset b.qpos b.window b.scale b.splitCount b.qHeads b.qFormat b.outMode
        b.outFormat →
      ctxOf s q.ctx = some cx → cx.state = .active → (∀ f ∈ s.trn.faultQ, f.cmd ≠ some r) →
      u = { src := cmdSource r, table := q.table, rerun := inStep s r, host := true } →
      runPass (accRead u b.poolVa 32) s = (.ok pb, s1) → runPass (accRead u b.splitVa (16 * min b.splitCount 4096)) s1 = (.ok sb, s2) →
      es = (chunks 16 (min b.splitCount 4096) sb).map splitOf →
      runPass (accRead u b.qVa (if attnPoolBad b (poolOf pb) then 64 else queryLen (poolOf pb) b.qHeads)) s2 = (.ok qb, s3) →
      (attnFieldsBad b = false → attnPoolBad b (poolOf pb) = false → attnSplitBad s3 q.table es = false →
        (∃ e < 16, shareFind s3 e q.table ≠ .lacking) →
        exec (.attnDecode r) s = .next (irqSettle (attnStart r q x.d c b (poolOf pb) qb es (issueForget r s3))))
      ∧ (attnFieldsBad b = true → exec (.attnDecode r) s
          = .next (irqSettle (failUnit r .range (entryMod r (fun e => { e with state := .running }) (issueForget r s3))))))
  ∧ (∀ (s : State) (e : Fin 16) (t : NmeTask) (st : Status) (f : Nat) (fin : Bool) (pool : PoolDesc) (q : List Byte)
      (a b c d g h : Nat) (es : List SplitEntry), Serving s → pllOn s 10 = true → (engineOf s e.val).running = some t → t.ended = false →
      t.effect = some st → t.cmd.body = .attnTask f fin pool q a b c d g h es →
    ∃ u, exec (.engineTaskEnd e) s = .next (irqSettle (taskFinish e t st u)) ∧ SameBut [.nme] s u
      ∧ (∀ x ∈ recordPieces (precBytes (precEmpty t.cmd.tag 0 (min (groupSize pool d) 16) pool.vdim s.sys.nodeId e.val st)),
          poolHeads pool ≥ 1 → groupSize pool d ≥ 1 →
          (⟨e.val, e.val, f, 0, x.1, x.2⟩ : PortPiece) ∈ u.nme.portQ))
  ∧ (∀ (s s' : State) (e : Fin 16) (t : NmeTask) (f : Nat) (fin : Bool) (pool : PoolDesc) (q : List Byte)
      (a b c d g h : Nat) (es : List SplitEntry) (rs : List PRecord) (kv away : Nat), Serving s → pllOn s 10 = true →
      (engineOf s e.val).running = some t → t.ended = false → t.effect = none → t.cmd.body = .attnTask f fin pool q a b c d g h es →
      runPass (attnPass (taskAccessor s e t) e.val t.cmd.tag pool q a b c d g h es) s = (.ok (rs, kv, away), s') →
    ∃ u, exec (.engineTaskEnd e) s = .next (irqSettle (taskFinish e t .ok u)) ∧ SameBut [.nme] s' u
      ∧ (engineOf u e.val).kvBytes = sat64 ((engineOf s' e.val).kvBytes + kv)
      ∧ ∀ r ∈ rs, ∀ x ∈ recordPieces (precBytes r), (⟨e.val, e.val, f, r.record, x.1, x.2⟩ : PortPiece) ∈ u.nme.portQ)
  ∧ (∀ (s u : State), Serving s → u = s.nme.waiting.foldl (fun v r => attnIssue r v) s →
      exec .foldSlotWait s = .next (irqSettle (u.nme.subs.foldl (fun v a => subStart a.src a.fold v) u)))
  ∧ (∀ (s : State) (i : FoldPieceIn) (x : PortPiece), Serving s → x ∈ s.nme.portQ → x.engine < 32 → x.fold = i.fold → x.record = i.record →
      x.offset = i.offset →
    ∃ y ∈ s.nme.portQ, y.fold = i.fold ∧ y.record = i.record ∧ y.offset = i.offset
      ∧ (∀ z ∈ s.nme.portQ, z.engine < 32 → z.fold = i.fold → z.record = i.record → z.offset = i.offset → y.engine ≤ z.engine)
      ∧ ((∀ z ∈ s.nme.portQ, z.engine < y.engine → foldEngine s z ≠ foldEngine s y) →
          exec (.foldPiece i) s = .next (irqSettle (foldTake y { s with nme := { s.nme with portQ := s.nme.portQ.erase y } })))
      ∧ ((∃ z ∈ s.nme.portQ, z.engine < y.engine ∧ foldEngine s z = foldEngine s y) →
          exec (.foldPiece i) s = .next (irqSettle (foldsSettle s))))
  ∧ (∀ (s u : State) (lp : Fin 16) (p : Packet) (k : Nat), Serving s → p.type = 0x12 → rxAccept lp.val p s = (.fresh, u) →
      foldNamed u (bitsOf p.addr 63 48) = some k → (foldOf u k).await.getD (bitsOf p.addr 39 32) 0 > 0 →
      tenantOf u (foldOf u k).table = some p.tenant →
    ∃ v, exec (.partial_ lp p) s = .next (irqSettle (packetReply p 0x20 .ok [] v)) ∧ SameBut [.nme] u v
      ∧ v.nme.portQ = u.nme.portQ ++ [⟨16 + lp.val, 16 + p.src, bitsOf p.addr 63 48, bitsOf p.addr 39 32, bitsOf p.addr 15 0, p.payload⟩])
  ∧ (∀ (s u : State) (lp : Fin 16) (p : Packet), Serving s → p.type = 0x12 → rxAccept lp.val p s = (.fresh, u) →
      foldNamed u (bitsOf p.addr 63 48) = none →
    exec (.partial_ lp p) s = .next (irqSettle (packetReply p 0x20 .denied [] (lnkDenied lp.val p u))))

-- near-memory engines ---------------------------------------------------------------------------------------------------

/-- Engine turns and the self-test (R297 to R299, R323 to R325, R601, R602): a free engine takes the first task of the share whose turn it
is and asks for its draw; a selected task starts once the draw is granted, and not before. A self-test request begins the drain of an
engine when none is tested; the drain turns late after 10 ms; at a step boundary the command asks for its draw and, with it, the engine
leaves service; the end records the result, frees the draw and answers; a failed test fails the engine and empties its queue. An unknown
or failed engine is RANGE and one that drains or is being tested BUSY. -/
def Obligations.EnginesAndSelfTest : Prop :=
  (∀ (s : State) (e : Fin 16) (j n : Nat) (t : NmeTask), Serving s → engineFree (engineOf s e.val) = true →
      (engineOf s e.val).drainFor = none → shareTurn s e.val (engineOf s e.val) = some (j, n) → shareHead (engineOf s e.val) j = some t →
    ∃ u, exec (.engineSelect e) s = .next (irqSettle u) ∧ (engineOf u e.val).selected = some t ∧ (engineOf u e.val).turn = j
      ∧ (engineOf u e.val).queue = (engineOf s e.val).queue.erase t ∧ (engineOf u e.val).state = .waitAnte
      ∧ (anteWaits u 2 e.val || anteHas u 2 e.val) = true ∧ (∀ k, k ≠ e.val → engineOf u k = engineOf s k)
      ∧ SameBut [.nme, .ante] s u)
  ∧ (∀ (s : State) (e : Fin 16) (t : NmeTask), Serving s → pllOn s 10 = true → (engineOf s e.val).selected = some t →
      anteHas s 2 e.val = true → (engineOf s e.val).drainFor = none →
    ∃ u, exec (.engineCommandStart e) s = .next (irqSettle u) ∧ (engineOf u e.val).running = some t ∧ (engineOf u e.val).selected = none
      ∧ (engineOf u e.val).state = .running ∧ (∀ k, k ≠ e.val → engineOf u k = engineOf s k) ∧ SameBut [.nme] s u)
  ∧ (∀ (s : State) (e : Fin 16) (t : NmeTask), Serving s → (engineOf s e.val).selected = some t → anteHas s 2 e.val = false →
      exec (.engineCommandStart e) s = .next (irqSettle s))
  ∧ (∀ (s : State) (n j k : Nat) (x : Engine), shareTurn s n x = some (j, k) → k ≥ 1 ∧ (j = x.turn ∨ j < 16) ∧ shareReady s n x j = true)
  ∧ (∀ (s : State) (c : Caller) (e : Nat), Takes s c.mbx .o → e > 15 ∨ (engineOf s e).state = .failed →
    ∃ t, exec (.nmeSelftest c e) s = .next t ∧ Answered t c.mbx .range 0 [] ∧ SameBut (.mbx :: tells) s t)
  ∧ (∀ (s : State) (c : Caller) (e : Nat), Takes s c.mbx .o → e ≤ 15 → (engineOf s e).state ≠ .failed → testing (engineOf s e) = true →
    ∃ t, exec (.nmeSelftest c e) s = .next t ∧ Answered t c.mbx .busy 0 [] ∧ SameBut (.mbx :: tells) s t)
  ∧ (∀ (s : State) (c : Caller) (e : Nat), Takes s c.mbx .o → e ≤ 15 → (engineOf s e).state ≠ .failed →
      s.nme.testQ = [] → (∀ x ∈ s.nme.engines, testing x.2 = false) →
    ∃ t, exec (.nmeSelftest c e) s = .next t ∧ Unanswered t c.mbx ∧ (engineOf t e).drainFor = some (some c.mbx)
      ∧ (engineOf t e).state = .draining ∧ (engineOf t e).drainAt = s.sys.time ∧ SameBut (([.mbx, .nme] : List Part) ++ tells) s t)
  ∧ (∀ (s : State) (e : Fin 16), Serving s → (engineOf s e.val).drainFor ≠ none → (engineOf s e.val).state = .draining →
      (s.sys.time ≥ (engineOf s e.val).drainAt + 10000000 →
        ∃ t, exec (.selftestDrainTimeout e) s = .next t ∧ (engineOf t e.val).drainLate = true ∧ SameBut (.nme :: tells) s t)
      ∧ (atBoundary (engineOf s e.val) = true →
        exec (.selftest e) s = .next (irqSettle (anteRequest 2 e.val false s)))
      ∧ (pllOn s 10 = true → atBoundary (engineOf s e.val) = true → anteHas s 2 e.val = true →
        ∃ t, exec (.selftestStart e) s = .next t ∧ (engineOf t e.val).state = .selftest ∧ SameBut (.nme :: tells) s t))
  ∧ (∀ (s : State) (e : Fin 16) (m : Fin 64), Serving s → pllOn s 10 = true → coreAnswers s = true → (engineOf s e.val).state = .selftest →
      (engineOf s e.val).drainFor = some (some m) → s.nme.testQ = [] →
    ∃ u, exec (.selftestEnd e true) s = .next (irqSettle u) ∧ Answered u m .ok 0 [] ∧ (engineOf u e.val).state = .idle
      ∧ (engineOf u e.val).testResult = 1 ∧ (engineOf u e.val).testEnd = s.sys.time ∧ anteHas u 2 e.val = false
      ∧ SameBut (([.mbx, .nme] : List Part) ++ tells) s u)
  ∧ (∀ (s : State) (e : Fin 16), Serving s → pllOn s 10 = true → (engineOf s e.val).state = .selftest →
    ∃ u v, exec (.selftestEnd e false) s = .next v ∧ v = irqSettle (testNext u) ∧ (engineOf u e.val).testResult = 2
      ∧ (engineOf u e.val).state = .failed ∧ (engineOf u e.val).queue = [])

/-- Engine commands (R292, R298, R328): a command whose accesses are all made and answered ends with the status that R16 chooses, and the
engine and its draw are released; a status met on the way ends it with that status; one that waits stays; one that faults goes back to its
queue with its fault presented; and one that was aborted only releases the engine. -/
def Obligations.EngineCommandsRun : Prop :=
  (∀ (e : Fin 16) (p : Nat × Instr), p ∈ [(0x02, Instr.kvAppend e), (0x03, .kvCopy e), (0x04, .kvCompact e), (0x05, .gather e),
      (0x06, .scatterAdd e), (0x07, .topk e), (0x08, .merge e)] →
    ∀ (s₀ s s' : State) (t : NmeTask), Serving s₀ → pllOn s₀ 10 = true → s = engineMod e.val (fun x => { x with dirtyTask := true }) s₀ →
      (engineOf s₀ e.val).running = some t → nmeOpcode t.cmd.body = p.1 → t.ended = false → t.effect = none → (∀ f g po q a b c d g' h es, t.cmd.body ≠ .attnTask f g po q a b c d g' h es) →
      (∀ st x, runPass (nmePass (taskAccessor s e t) e.val t.cmd) s = (.ok (st, none), s') →
        accEnd (runningSet e.val { t with effect := some st, last := none } s') (.engine e) = some x →
        exec p.2 s₀ = .next (irqSettle (cmdTaskFinish e { t with effect := some st, last := none } (worse st x)
          (runningSet e.val { t with effect := some st, last := none } s'))))
      ∧ (∀ st va bs code u s2 y, runPass (nmePass (taskAccessor s e t) e.val t.cmd) s = (.ok (st, some (va, bs, code)), s') →
        accEnd (runningSet e.val { t with effect := some st, last := some (va, bs, code) } s') (.engine e) = some .ok →
        u = { t with effect := some st, last := none } →
        runPass (if code = 0 then accWrite (taskAccessor (runningSet e.val { t with effect := some st, last := some (va, bs, code) } s') e
            { t with effect := some st, last := some (va, bs, code) }) va bs
          else accAtomic (taskAccessor (runningSet e.val { t with effect := some st, last := some (va, bs, code) } s') e
            { t with effect := some st, last := some (va, bs, code) }) va code bs)
          (runningSet e.val u (runningSet e.val { t with effect := some st, last := some (va, bs, code) } s')) = (.ok (), s2) →
        accEnd s2 (.engine e) = some y → exec p.2 s₀ = .next (irqSettle (cmdTaskFinish e u (worse st y) s2)))
      ∧ (∀ st, runPass (nmePass (taskAccessor s e t) e.val t.cmd) s = (.error (.status st), s') →
        exec p.2 s₀ = .next (irqSettle (cmdTaskFinish e t st s')))
      ∧ (runPass (nmePass (taskAccessor s e t) e.val t.cmd) s = (.error .wait, s') → exec p.2 s₀ = .next (irqSettle s'))
      ∧ (∀ op va c en lv pa, runPass (nmePass (taskAccessor s e t) e.val t.cmd) s = (.error (.fault op va c en lv pa), s') →
        exec p.2 s₀ = .next (irqSettle (taskFault e t op va c en lv pa (taskRerun s t) s'))))
  ∧ (∀ (e : Fin 16) (p : Nat × Instr), p ∈ [(0x02, Instr.kvAppend e), (0x03, .kvCopy e), (0x04, .kvCompact e), (0x05, .gather e),
      (0x06, .scatterAdd e), (0x07, .topk e), (0x08, .merge e)] →
    ∀ (s₀ : State) (t : NmeTask), Serving s₀ → pllOn s₀ 10 = true → (engineOf s₀ e.val).running = some t → nmeOpcode t.cmd.body = p.1 →
      t.ended = true → (∀ f g po q a b c d g' h es, t.cmd.body ≠ .attnTask f g po q a b c d g' h es) →
    ∃ u, exec p.2 s₀ = .next (irqSettle (engineRelease e u)))
  ∧ (∀ (s : State) (e : Fin 16), (engineOf (engineRelease e s) e.val).running = none ∧ anteHas (engineRelease e s) 2 e.val = false)
  ∧ (∀ (s : State) (e : Fin 16) (t : NmeTask) (st : Status), t.ref = none →
      (engineOf (cmdTaskFinish e t st s) e.val).running = none ∧ anteHas (cmdTaskFinish e t st s) 2 e.val = false
      ∧ (engineOf (cmdTaskFinish e t st s) e.val).cmdCnt = sat64 ((engineOf s e.val).cmdCnt + 1)
      ∧ (st ≠ .ok → (engineOf s e.val).errValid = false →
          (engineOf (cmdTaskFinish e t st s) e.val).errValid = true ∧ (engineOf (cmdTaskFinish e t st s) e.val).errStatus = st
          ∧ (engineOf (cmdTaskFinish e t st s) e.val).errTag = t.cmd.tag)
      ∧ (∀ k, k ≠ e.val → engineOf (cmdTaskFinish e t st s) k = engineOf s k))

/-- TOPK's selection (R320): K pairs in order; whatever the order in which the candidates of a row or of several shards are listed, the
selection is the same where their indices differ. -/
def Obligations.TopkSelection : Prop :=
  (∀ (k : Nat) (cs : List Candidate), (candTop k cs).length = k)
  ∧ (∀ (k : Nat) (cs ds : List Candidate), cs.Perm ds → (cs.map (fun c => c.2)).Nodup → candTop k cs = candTop k ds)
  ∧ (∀ (k : Nat) (cs : List Candidate), (∀ c ∈ cs, c.2 < 2 ^ 32) → (candTop k cs).Pairwise (fun a b => candBefore b a = false))

/-- Partial records combine (R275, R276, R289): whatever values the numerics leave open, the token counts add, the positions widen, the
status is R16's, a head that is NaN in either stays NaN, and a record without a token leaves m as it is. -/
def Obligations.RecordsCombine : Prop :=
  (∀ a b : PRecord, (precCombine a b).tokens = sat32 (a.tokens + b.tokens) ∧ (precCombine a b).firstPos = min a.firstPos b.firstPos
    ∧ (precCombine a b).lastPos = max a.lastPos b.lastPos ∧ (precCombine a b).status = worse a.status b.status
    ∧ (precCombine a b).empty = (a.empty && b.empty) ∧ (precCombine a b).m.length = a.heads)
  ∧ (∀ (a b : PRecord) (h : Nat), h < a.heads →
      numIsNan (f32Num (a.m.getD h 0).toNat) = true ∨ numIsNan (f32Num (b.m.getD h 0).toNat) = true →
      (precCombine a b).m.getD h 0 = headNaN ∧ (precCombine a b).l.getD h 0 = headNaN
      ∧ (precCombine a b).o.getD h [] = List.replicate a.dim headNaN)
  ∧ (∀ (a b : PRecord) (h : Nat), h < a.heads → numIsNan (f32Num (a.m.getD h 0).toNat) = false → b.m.getD h 0 = headEmpty →
      (precCombine a b).m.getD h 0 = a.m.getD h 0)
  ∧ (∀ a b c : Status, worse (worse a b) c = worse a (worse b c) ∧ worse a b = worse b a)

-- trick counters --------------------------------------------------------------------------------------------------------

/-- A counter's value never decreases, never becomes all ones, and its state and owner stay, under every operation of R334 (R333); an
operation that is not OK changes no counter (R335, R364). -/
def Obligations.CountersOnlyGrow : Prop :=
  ∀ (s : State) (tenant : Option Nat) (source op : Nat) (rerun : Bool) (h : Handle) (x i : Nat),
    (counterOf s i).value ≤ (counterOf (counterOp tenant source op rerun h x s).2 i).value
    ∧ ((counterOf s i).value ≠ 2 ^ 64 - 1 → (counterOf (counterOp tenant source op rerun h x s).2 i).value ≠ 2 ^ 64 - 1)
    ∧ (counterOf (counterOp tenant source op rerun h x s).2 i).state = (counterOf s i).state
    ∧ (counterOf (counterOp tenant source op rerun h x s).2 i).table = (counterOf s i).table
    ∧ ((counterOp tenant source op rerun h x s).1.1 ≠ .ok → (counterOp tenant source op rerun h x s).2.tck.counters = s.tck.counters)
    ∧ (i ≠ hIdx h → counterOf (counterOp tenant source op rerun h x s).2 i = counterOf s i)

/-- The operations of a core on a counter of this hub (R334, R335, R338, R339): ADD adds 1 to 65,535, MAX raises, READ answers the value,
and WAIT_GE is answered at once when its target is reached and takes a slot otherwise; a value that R335 excludes is answered RANGE and
changes no counter; and a core of an unbound cluster is DENIED. -/
def Obligations.CoreCounterOperations : Prop :=
  (∀ (s : State) (r : CtrReq), Serving s → pllOn s 11 = true → (bindAt s r.cluster.val).state = .bound →
      r.counter / 2 ^ 32 = s.sys.nodeId → r.counter < 2 ^ 44 → r.fence = false → coreRerun s r = false →
      counterCheck s (some ((tenantOf s (bindAt s r.cluster.val).table).getD 0)) (r.counter % 2 ^ 32) = .ok →
      (counterOf s (hIdx (r.counter % 2 ^ 32))).state = .live →
      (0 < r.value → r.value < 65536 → (counterOf s (hIdx (r.counter % 2 ^ 32))).value + r.value < 2 ^ 64 - 1 →
        ∃ t : State, exec (.signalAdd r) s = .next t
          ∧ (counterOf t (hIdx (r.counter % 2 ^ 32))).value = (counterOf s (hIdx (r.counter % 2 ^ 32))).value + r.value
          ∧ Out.cfResponse r.cluster.val r.core.val r.tag .ok ((counterOf s (hIdx (r.counter % 2 ^ 32))).value + r.value) ∈ t.out
          ∧ (∀ j, j ≠ hIdx (r.counter % 2 ^ 32) → counterOf t j = counterOf s j)
          ∧ SameBut (([.tck, .tables, .objects] : List Part) ++ tells) s t)
      ∧ (r.value < 2 ^ 64 - 1 → r.value ≤ (counterOf s (hIdx (r.counter % 2 ^ 32))).value + 2 ^ 62 →
        ∃ t : State, exec (.signalMax r) s = .next t
          ∧ (counterOf t (hIdx (r.counter % 2 ^ 32))).value = max (counterOf s (hIdx (r.counter % 2 ^ 32))).value r.value
          ∧ Out.cfResponse r.cluster.val r.core.val r.tag .ok (max (counterOf s (hIdx (r.counter % 2 ^ 32))).value r.value) ∈ t.out
          ∧ SameBut (([.tck, .tables, .objects] : List Part) ++ tells) s t)
      ∧ (∃ t : State, exec (.read r) s = .next t ∧ t.tck.counters = s.tck.counters
          ∧ Out.cfResponse r.cluster.val r.core.val r.tag .ok (counterOf s (hIdx (r.counter % 2 ^ 32))).value ∈ t.out ∧ SameBut tells s t)
      ∧ (r.value ≤ (counterOf s (hIdx (r.counter % 2 ^ 32))).value →
        ∃ t : State, exec (.waitGe r) s = .next t ∧ SameBut tells s t
          ∧ Out.cfResponse r.cluster.val r.core.val r.tag .ok (counterOf s (hIdx (r.counter % 2 ^ 32))).value ∈ t.out)
      ∧ ((counterOf s (hIdx (r.counter % 2 ^ 32))).value < r.value →
          r.value ≤ (counterOf s (hIdx (r.counter % 2 ^ 32))).value + 2 ^ 62 → s.tck.waiters.length < 16384 →
          (∃ tb, tableAt s (bindAt s r.cluster.val).table = some tb ∧ waitersOf s (bindAt s r.cluster.val).table < tb.quota) →
        ∃ (t : State) (w : Waiter), exec (.waitGe r) s = .next t ∧ t.tck.waiters = s.tck.waiters ++ [w] ∧ w.counter = hIdx (r.counter % 2 ^ 32)
          ∧ w.target = r.value ∧ w.kind = .core r.cluster.val r.core.val r.tag ∧ t.tck.counters = s.tck.counters
          ∧ SameBut (.tck :: tells) s t)
      ∧ (r.value = 0 ∨ r.value ≥ 65536 →
        ∃ t : State, exec (.signalAdd r) s = .next t ∧ t.tck.counters = s.tck.counters
          ∧ Out.cfResponse r.cluster.val r.core.val r.tag .range 0 ∈ t.out ∧ SameBut (.tck :: tells) s t))
  ∧ (∀ (s : State) (r : CtrReq) (i : Instr), Serving s → pllOn s 11 = true → (bindAt s r.cluster.val).state ≠ .bound →
      i ∈ [Instr.signalAdd r, .signalMax r, .read r, .waitGe r] →
    ∃ t : State, exec i s = .next t ∧ Out.cfResponse r.cluster.val r.core.val r.tag .denied 0 ∈ t.out ∧ SameBut (.trn :: tells) s t)

/-- Signals over the links, held signals and their answers (R341, R343 to R347, R364): a signal or read for a counter of this hub is applied
under its tenant and answered with the status and value; one for another node's counter is GONE; an answer ends the core's request; and
a held signal goes when none of its guards stands. Counter windows and mirrors (R355 to R362): a window's ADD and MAX act on its
counter where nothing that the host has posted before it is pending, a failed one only counts; a read shows the value, and all ones of a LOST counter; an unbound window is a hole; a due mirror
with none in flight posts the value and, when the threshold is reached, writes its event. -/
def Obligations.SignalsWindowsMirrors : Prop :=
  (∀ (s u w : State) (lp : Fin 16) (p p' : Packet) (i : Instr) (st : Status) (v : Nat), Serving s → pllOn s 11 = true →
      (p', i) ∈ [({ p with type := 0x40, hasSig := true }, Instr.sigAdd lp p), ({ p with type := 0x41, hasSig := true }, .sigMax lp p),
        ({ p with type := 0x42, hasSig := false }, .sigRead lp p)] →
      rxAccept lp.val p' s = (.fresh, u) → p.addr < 2 ^ 44 →
      (p.addr / 2 ^ 32 = u.sys.nodeId →
        counterOp (some p.tenant) 6 (sigCode (packetOp p')) p.rerun (p.addr % 2 ^ 32) (sigArg (packetOp p')) u = ((st, v), w) → st ≠ .denied →
        exec i s = .next (irqSettle (packetReply p' 0x43 st (leBytes 8 v) w)))
      ∧ (p.addr / 2 ^ 32 ≠ u.sys.nodeId → exec i s = .next (irqSettle (packetReply p' 0x43 .gone (leBytes 8 0) u))))
  ∧ (∀ (s u : State) (p : Packet) (value cl co tag : Nat) (tx : Txn), Serving s →
      rxAccept 0 { p with type := 0x43, hasSig := false } s = (.fresh, u) → txnOf u p.tag = some tx → tx.what = .signal none (some (cl, co, tag)) →
    ∃ t, exec (.sigAns p value) s = .next t ∧ Out.cfResponse cl co tag p.status (if p.status = .ok then value else 0) ∈ t.out
      ∧ (∀ x ∈ t.lnk.txns, x.tag ≠ p.tag) ∧ SameBut (.lnk :: tells) s t)
  ∧ (∀ (s : State) (id : Nat) (h : HeldSignal), Serving s → pllOn s 11 = true → s.tck.held.find? (fun h => h.id = id) = some h →
      (h.guards.any (guardStands s) = false → exec (.signalRelease id) s = .next (irqSettle (signalGo h s)))
      ∧ (h.guards.any (guardStands s) = true → exec (.signalRelease id) s = .next (irqSettle s)))
  ∧ (∀ (s : State) (p : Fin 2) (page : Fin 4096) (w : Fin 128) (v : BitVec 64) (t i : Nat), barOpen s p.val = true →
      postedGuards s p.val = [] → windowCounter s page.val w.val = some (t, i) → counterCheck s (tenantOf s t) (liveHandle s 6 i) = .ok → (counterOf s i).state = .live →
      hIdx (liveHandle s 6 i) = i →
      (0 < v.toNat → v.toNat < 65536 → (counterOf s i).value + v.toNat < 2 ^ 64 - 1 →
        ∃ u, exec (.counterWindowAdd p page w v) s = .next u ∧ (counterOf u i).value = (counterOf s i).value + v.toNat
          ∧ (∀ j, j ≠ i → counterOf u j = counterOf s j) ∧ SameBut (([.tck, .tables, .objects] : List Part) ++ tells) s u)
      ∧ (v.toNat < 2 ^ 64 - 1 → v.toNat ≤ (counterOf s i).value + 2 ^ 62 →
        ∃ u, exec (.counterWindowMax p page w v) s = .next u ∧ (counterOf u i).value = max (counterOf s i).value v.toNat
          ∧ SameBut (([.tck, .tables, .objects] : List Part) ++ tells) s u)
      ∧ (v.toNat = 0 ∨ v.toNat ≥ 65536 →
        ∃ u, exec (.counterWindowAdd p page w v) s = .next u ∧ u.tck.errCnt = sat32 (s.tck.errCnt + 1) ∧ u.tck.counters = s.tck.counters
          ∧ SameBut (.tck :: tells) s u))
  ∧ (∀ (s : State) (p : Fin 2) (page : Fin 4096) (w : Fin 128) (t i : Nat), barOpen s p.val = true →
      windowCounter s page.val w.val = some (t, i) →
    ∃ u, exec (.counterWindowRead p page w) s = .next u ∧ SameBut tells s u
      ∧ Out.bar0Read p.val (if (counterOf s i).state = .lost then 2 ^ 64 - 1 else (counterOf s i).value) ∈ u.out)
  ∧ (∀ (s : State) (p : Fin 2) (page : Fin 4096) (w : Fin 128), barOpen s p.val = true → windowCounter s page.val w.val = none →
    ∃ u, exec (.counterWindowRead p page w) s = .next u ∧ u.sys.swErr = s.sys.swErr ||| 2 ∧ Out.bar0Read p.val 0 ∈ u.out
      ∧ SameBut (.sys :: tells) s u)
  ∧ (∀ (s u : State) (i : Nat) (m : Mirror), Serving s → pllOn s 11 = true → mapGet s.tck.mirrors i = some m → m.due = true → m.inFlight = false →
      hostWrite m.table m.addr (leBytes 8 (counterShown s m.counter)) (fenceKey (tableKey s m.table) s) = some u →
    ∃ v, exec (.mirrorWrite i) s = .next v ∧ mapGet v.tck.mirrors i = some { m with
        due := false, inFlight := true, heldEvent := false
        armed := m.armed && !(m.heldEvent || (m.armed && decide (m.threshold ≤ counterShown s m.counter))) }
      ∧ v.tck.counters = s.tck.counters
      ∧ ∃ w : State, SameBut [.tck] u w ∧ v = irqSettle (if m.heldEvent = true ∨ (m.armed = true ∧ m.threshold ≤ counterShown s m.counter)
          then mirrorEvent m (counterShown s m.counter) w else w))

/-- Wakes, misdeals, reneges and waits (R351 to R354, R369, R371 to R376): a window wakes at most eight clusters with PWR's grant, and one
with nothing to wake returns its draw; a chain of blocked transfers is resolved by the free escape slot; a table whose timer has run out
is captured, counted and told to its lead hub; a saved context holds no slot; and a queue's wait for a slot ends at its tick. -/
def Obligations.WakesMisdealsReneges : Prop :=
  (∀ (s : State) (ws : Nat), Serving s → pllOn s 11 = true → ws = s.sys.time / 8 * 8 → s.tck.windowAt < ws → anteHas s 9 0 = true →
      s.tck.ramp = [] →
    exec .wakeWindow s = .next (irqSettle (anteFreeDraw 9 0 { s with tck := { s.tck with windowAt := ws, rampActive := false } })))
  ∧ (∀ (s u : State) (ws : Nat) (w : List RampEntry), Serving s → pllOn s 11 = true → ws = s.sys.time / 8 * 8 → s.tck.windowAt < ws →
      anteHas s 9 0 = true → w = (s.tck.ramp.filter (fun e => e.since < ws)).take 8 → w ≠ [] →
      u = pwrAskWindow ((w.map (fun e => maskCount e.mask)).sum) { s with tck := { s.tck with windowAt := ws, rampActive := true } } →
      u.pwr.windowGranted = true →
    w.length ≤ 8 ∧ exec .wakeWindow s = .next (irqSettle (w.foldl wakeDeliver
      { u with pwr := { u.pwr with windowGranted := false }, tck := { u.tck with ramp := u.tck.ramp.filter (fun e => e ∉ w) } })))
  ∧ (∀ (s : State) (a : Nat), Serving s → pllOn s 11 = true → a = s.sys.time / 128 * 128 → s.tck.scanAt < a →
    exec .misdealScan s = .next (irqSettle ((List.range 64).foldl misdealOne { s with tck := { s.tck with scanAt := a } })))
  ∧ (∀ (s : State) (src vc : Nat) (chain : List Nat) (h : HeldTransfer), chainFrom s 64 src [] = some (chain, vc) →
      blockedAt s (chain.foldl min (chain.headD src)) = some h → mapGet s.sys.escape h.dst = none →
      mapGet (misdealOne s src).sys.escape h.dst = some (chain.foldl min (chain.headD src)) ∧ h ∉ (misdealOne s src).sys.fabricHeld
      ∧ (misdealOne s src).tck.misCnt = sat32 (s.tck.misCnt + 1) ∧ (misdealOne s src).tck.misValid = true)
  ∧ (∀ (s : State) (t : Fin 256) (tb : Table), Serving s → pllOn s 11 = true → tableAt s t.val = some tb → s.mbx.core = .running → pendingWork s t.val = true →
      tb.renegeTicks ≥ tb.renegeMs * 1000000 → tb.step.isOpen = false → tb.renegedOnce = false → tb.lead ≠ s.sys.nodeId →
    ∃ u, exec (.renege t) s = .next u ∧ u.tck.renValid = true ∧ (s.tck.renValid = false → u.tck.renTable = t.val ∧ u.tck.renOutcome = 1)
      ∧ (∃ tb', tableAt u t.val = some tb' ∧ tb'.reneges = min 255 (tb.reneges + 1) ∧ tb'.renegeTicks = 0)
      ∧ Out.ctrl tb.lead 0x807 tb.globalId tb.step.last .ok 0 ∈ u.out ∧ SameBut (([.tck, .tables, .objects, .nme, .trn] : List Part) ++ tells) s u)
  ∧ (∀ (s v : State) (src : CtrlFrom) (g k : Nat) (tb : Table), Arrives s src v → slotOfGlobal v g = some k → tableAt v k = some tb →
      src.node ∈ membersOf tb → tb.lead = v.sys.nodeId →
    exec (.renegeReport src g) s = .next (irqSettle (renegeLead k (irqRaise 11 v))))
  ∧ (∀ (s : State) (c : Handle) (x : Ctx), Serving s → ctxOf s c = some x → liveHandle s 1 (hIdx c) = c → x.state = .parked →
      (∃ w ∈ s.tck.waiters, w.ctx = c) → exec (.contextSave c) s = .next (irqSettle (ctxSave c s))
      ∧ ∀ w ∈ (ctxSave c s).tck.waiters, w.ctx ≠ c)
  ∧ (∀ (s : State) (h : Handle) (q : Queue) (t : Tick), Serving s → queueOf s h = some q → q.retryAt = some t → t ≤ s.sys.time →
    ∃ u, exec (.queueWaitRetry h) s = .next u ∧ queueOf u h = some { q with retryAt := none } ∧ SameBut (.objects :: tells) s u)

-- translation and shootdowns --------------------------------------------------------------------------------------------

/-- What the check of a piece lets through (R119, R123): the leaf permits the access, a write of a rerunnable piece never reaches a
published page, and local device memory is reached only in slabs that are bound to the table, one for each granule of the piece (R183); so
no table's tile touches another table's slab. -/
def Obligations.PiecesStayInTheirTable : Prop :=
  ∀ (s : State) (t op : Nat) (rerun : Bool) (e : TlbEntry) (va len pa : Nat) (tg : Target), checkPiece s t op rerun e va len = .go tg pa →
    (op = 1 → pteBit (e.leafAt va) 3 = true) ∧ (op = 2 → pteBit (e.leafAt va) 4 = true)
    ∧ (op ≠ 1 → op ≠ 2 → pteBit (e.leafAt va) 5 = true)
    ∧ (op ≠ 1 → rerun = true → pteBit (e.leafAt va) 10 = false)
    ∧ (localDevice s pa = true → ∀ a ∈ granulesOf pa len,
        (bindAt s (slabIndex (locate s a).stack (locate s a).slab)).table = t
        ∧ (bindAt s (slabIndex (locate s a).stack (locate s a).slab)).state ∈ [BindState.bound, .migrating, .aliased])
    ∧ (∀ a, pa ≤ a → a < pa + len → ∃ b ∈ granulesOf pa len, b ≤ a ∧ (b / 65536 = a / 65536))
    ∧ pa = e.paAt va ∧ tg = targetOf s pa (pteBit (e.leafAt va) 9)

/-- Tiles (R121, R122, R126 to R129): one out of range is answered RANGE before any translation, one of an unbound cluster DENIED; one whose
first page has no translation queues a miss and waits; and the last piece's answer ends a tile with its bytes. -/
def Obligations.TilesRun : Prop :=
  (∀ (s : State) (k : Fin 40) (t : Fin 256) (d : TileDesc) (bs : List Byte) (n : Nat), Serving s → tileBad d = true →
      sourceTable s (.copyEngine k) t.val d.tag = some n →
    ∃ u, exec (.tile (.copyEngine k) t d bs) s = .next u ∧ Out.tileDone (.copyEngine k) d.tag .range [] ∈ u.out ∧ SameBut tells s u)
  ∧ (∀ (s : State) (cl : Fin 120) (co : Fin 64) (t : Fin 256) (d : TileDesc) (bs : List Byte), Serving s →
      (bindAt s cl.val).state ≠ .bound →
    ∃ u, exec (.tile (.cf cl co) t d bs) s = .next u ∧ Out.tileDone (.cf cl co) d.tag .denied [] ∈ u.out ∧ SameBut (.trn :: tells) s u)
  ∧ (∀ (s : State) (cl : Fin 120) (co : Fin 64) (t : Fin 256) (d : TileDesc) (bs : List Byte), Serving s →
      (bindAt s cl.val).state = .bound → tileBad d = false → tileOf s (.cf cl co) d.tag = none →
      tlbHit s (bindAt s cl.val).table d.va = none → s.trn.missQ.length < 1024 →
      (∀ m ∈ s.trn.missQ, m ≠ ((bindAt s cl.val).table, d.va / 4096)) →
      (∀ w ∈ s.trn.walks, ¬ (w.2.table = (bindAt s cl.val).table ∧ w.2.page = d.va / 4096)) →
    ∃ u, exec (.tile (.cf cl co) t d bs) s = .next u ∧ u.trn.missQ = s.trn.missQ ++ [((bindAt s cl.val).table, d.va / 4096)]
      ∧ (∃ x, tileOf u (.cf cl co) d.tag = some x ∧ x.waitPage = some (d.va / 4096) ∧ x.data = bs ∧ x.table = (bindAt s cl.val).table)
      ∧ SameBut (.trn :: tells) s u)
  ∧ (∀ (s : State) (cl : Fin 120) (co : Fin 64) (tag i : Nat) (t : TileRec) (p : Piece) (st : Status) (bs : List Byte), Serving s →
      tileOf s (.cf cl co) tag = some t → t.issued = [p] → p.idx = i → p.open_ = 1 → p.st = .ok → p.target = .device → p.data ≠ [] →
      t.fault = none → t.failed = none → t.allChecked = true → (∀ x ∈ s.nme.pieces, x.src ≠ .cf cl co) → s.obj.doneWaits = [] →
      (∀ k ∈ rangeStacks s p.pa p.len, pllOn s (k / 4) = true) →
    ∃ u, exec (.pieceComplete (.cf cl co) tag i st bs) s = .next (irqSettle u) ∧ Out.tileDone (.cf cl co) tag .ok p.data ∈ u.out
      ∧ tileOf u (.cf cl co) tag = none ∧ SameBut [.trn, .tables, .out] s u)

/-- Walks (R90, R91, R107, R112, R115 to R118, R135): a free walker takes the next miss in turn; one read of a walk, made once the channel
block of its page has its draw and its clock, goes a level down, ends it at a leaf, or fails it; a page-table page that has moved to another
hub is read there; a walk that a shootdown marked starts again; an idle group gives back its draw after 256 ticks. -/
def Obligations.WalksRun : Prop :=
  (∀ (s u : State) (t g w : Nat) (ws : List Nat) (m : Nat × Nat) (x : Walk), Serving s → missTable s = some t → groupFor s = some g →
      s.trn.missQ.find? (fun m => m.1 = t) = some m → groupFree s g = w :: ws →
      u = anteRequest 6 g false (trnMod (fun r => { r with missQ := r.missQ.erase m, lastTable := t }) s) →
      walkBegin u t m.2 = some x →
    exec .walkStart s = .next (irqSettle (tilesRecheck (trnMod (fun r => { r with walks := mapPut r.walks w x }) (walkCacheUse t m.2 u)))))
  ∧ (∀ (s v u : State) (w : Fin 96) (x z : Walk) (near : Bool) (r : Status × List Byte), Serving s → mapGet s.trn.walks w.val = some x →
      anteHas s 6 (w.val / 8) = true → x.discard = false → x.away = none → walkFar s x = none → near = walkAllowed s x →
      blocksTake (if near then rangeStacks s (walkAddr x / 128 * 128) 128 else []) s = (none, v) → r = walkBlock v x →
      u = (if near && r.1 = .ok then readFill (tableKey v x.table) (walkAddr x / 128 * 128) 128 v else v) → z = { x with wants := none } →
      (∀ y, walkStep u z r = .more y → exec (.walkPteRead w) s = .next (irqSettle (trnMod (fun r => { r with walks := mapPut r.walks w.val y })
        (walkCacheFill x.table x.level (x.page * 4096) (y.tablePa / 4096) u))))
      ∧ (∀ c e l pa, walkStep u z r = .fault c e l pa →
        exec (.walkPteRead w) s = .next (irqSettle (walkDone w.val z (some (.fault c e l pa)) u)))
      ∧ (walkStep u z r = .poisoned → exec (.walkPteRead w) s = .next (irqSettle (walkDone w.val z (some .poisoned) u)))
      ∧ (∀ e l a es u', walkStep u z r = .leaf e l a es → walkLeaf x.table x.page e l a es u = .ok u' →
        exec (.walkPteRead w) s = .next (irqSettle (walkDone w.val z none u')))
      ∧ (∀ e l a es c e' l' pa, walkStep u z r = .leaf e l a es → walkLeaf x.table x.page e l a es u = .error (c, e', l', pa) →
        exec (.walkPteRead w) s = .next (irqSettle (walkDone w.val z (some (.fault c e' l' pa)) u))))
  ∧ (∀ (s : State) (w : Fin 96) (x : Walk) (n a : Nat), Serving s → mapGet s.trn.walks w.val = some x → anteHas s 6 (w.val / 8) = true →
      x.discard = false → x.away = none → walkFar s x = some (n, a) →
    ∃ u, exec (.walkPteRead w) s = .next (irqSettle u) ∧ mapGet u.trn.walks w.val = some { x with away := some s.lnk.nextTag }
      ∧ (∃ y ∈ u.lnk.txns, y.tag = s.lnk.nextTag ∧ y.dst = n ∧ y.what = .walk w.val) ∧ SameBut [.trn, .sends, .ante, .out] s u)
  ∧ (∀ (s : State) (w : Fin 96) (x y : Walk), Serving s → mapGet s.trn.walks w.val = some x → anteHas s 6 (w.val / 8) = true →
      x.discard = true → x.away = none → walkBegin s x.table x.page = some y →
    ∃ u, exec (.walkPteRead w) s = .next u ∧ mapGet u.trn.walks w.val = some y ∧ SameBut (.trn :: tells) s u)
  ∧ (∀ (s : State) (g : Fin 12), Serving s → anteHas s 6 g.val = true → (∀ w ∈ s.trn.walks, w.1 / 8 ≠ g.val) →
      s.sys.time ≥ mapGetD s.trn.groupIdle g.val 0 + 256 →
    ∃ u, exec (.walkerGroupIdle g) s = .next (irqSettle u) ∧ anteHas u 6 g.val = false ∧ SameBut [.ante] s u)

/-- Shootdowns (R133 to R139): while fewer than 16 run a request starts at once, no translation of its range stays in the TLB, and every
cluster of the table is sent an invalidate; with 256 waiting it is BUSY; the oldest waiting one starts when there is room; the last acknowledgement and the end of the drain answer it; and a cluster silent for 100 microseconds counts as acknowledged with
its binding FAILED. A root outside the table's own memory is RANGE; a new one is answered by its whole-table shootdown (R140). -/
def Obligations.ShootdownsRun : Prop :=
  (∀ (s : State) (c : Caller) (k va n : Nat), Takes s c.mbx .t → OnTable s c k → va % 4096 = 0 → va < 2 ^ 57 → n ≤ 2 ^ 45 →
      s.trn.shoot.length < 16 → s.trn.shootQ = [] →
    ∃ u x, exec (.gararnInvalidate c va n) s = .next u ∧ Unanswered u c.mbx ∧ x ∈ u.trn.shoot ∧ x.table = k ∧ x.va = va ∧ x.pages = n
      ∧ x.who = .mailbox c.mbx ∧ x.clusters = clustersOf s k ∧ x.drain = true
      ∧ (∀ e ∈ u.trn.tlb, e.table = k → pagesMeet (va / 4096) n (e.base / 4096) (e.span / 4096) = false)
      ∧ (∀ cl ∈ clustersOf s k, Out.utlbInval cl x.id va n ∈ u.out) ∧ SameBut (([.mbx, .trn] : List Part) ++ tells) s u)
  ∧ (∀ (s : State) (c : Caller) (k va n : Nat), Takes s c.mbx .t → OnTable s c k →
      (va % 4096 ≠ 0 ∨ va ≥ 2 ^ 57 ∨ n > 2 ^ 45 →
        ∃ u, exec (.gararnInvalidate c va n) s = .next u ∧ Answered u c.mbx .range 0 [] ∧ SameBut (.mbx :: tells) s u)
      ∧ (va % 4096 = 0 → va < 2 ^ 57 → n ≤ 2 ^ 45 → s.trn.shootQ.length ≥ 256 →
        ∃ u, exec (.gararnInvalidate c va n) s = .next u ∧ Answered u c.mbx .busy 0 [] ∧ SameBut (.mbx :: tells) s u))
  ∧ (∀ (s : State) (r : CmdRef) (q : Queue) (e : QEntry) (va n : Nat), Serving s → queueOf s r.queue = some q → entryOf s r = some e →
      e.state = .dispatched → e.d.body = .invalidate va n → va % 4096 = 0 → va < 2 ^ 57 → n ≤ 2 ^ 45 → s.trn.shoot.length < 16 →
      s.trn.shootQ = [] →
    ∃ u x, exec (.invalidate r) s = .next u ∧ x ∈ u.trn.shoot ∧ x.table = q.table ∧ x.va = va ∧ x.pages = n ∧ x.who = .queue r
      ∧ (∀ e ∈ u.trn.tlb, e.table = q.table → pagesMeet (va / 4096) n (e.base / 4096) (e.span / 4096) = false)
      ∧ SameBut (([.trn, .objects] : List Part) ++ tells) s u)
  ∧ (∀ (s : State) (x : Shootdown) (r : List Shootdown), Serving s → s.trn.shootQ = x :: r → s.trn.shoot.length < 16 →
    exec .shootdownStart s = .next (irqSettle (shootRun x (trnMod (fun k =>
      { k with shootQ := r ++ k.shootHold.take 1, shootHold := k.shootHold.drop 1 }) s))))
  ∧ (∀ (s : State) (id : Nat) (x : Shootdown) (m : Fin 64), Serving s → coreAnswers s = true → s.trn.shoot.find? (fun x => x.id = id) = some x →
      x.who = .mailbox m →
      (∀ c : Fin 120, x.drain = false → (∀ k ∈ x.clusters, k = c.val) →
        ∃ u, exec (.microTlbAck id c) s = .next u ∧ Answered u m .ok 0 [] ∧ SameBut (([.mbx, .trn] : List Part) ++ tells) s u)
      ∧ (drainOpen s x = false → x.clusters = [] →
        ∃ u, exec (.shootdownDrainEnd id) s = .next u ∧ Answered u m .ok 0 [] ∧ SameBut (([.mbx, .trn] : List Part) ++ tells) s u)
      ∧ (∀ c : Fin 120, c.val ∈ x.clusters → s.sys.time ≥ x.started + 100000 →
        ∃ u, exec (.shootdownAckTimeout id c) s = .next u ∧ u.trn.shootTimeout = true ∧ (bindAt u c.val).state = .failed))
  ∧ (∀ (s : State) (c : Caller) (k root : Nat) (ad : Bool), Takes s c.mbx .t → OnTable s c k →
      (root % 4096 ≠ 0 ∨ root ≥ 2 ^ 60 ∨ localDevice s root = false ∨ slabOwner s root ≠ some k →
        ∃ u, exec (.setRoot c root ad) s = .next u ∧ Answered u c.mbx .range 0 [] ∧ SameBut (.mbx :: tells) s u)
      ∧ (root % 4096 = 0 → root < 2 ^ 60 → localDevice s root = true → slabOwner s root = some k → s.trn.shoot.length < 16 →
          s.trn.shootQ = [] →
        ∃ u tb, exec (.setRoot c root ad) s = .next u ∧ Unanswered u c.mbx ∧ tableAt u k = some tb ∧ tb.root = some (root / 4096, ad)
          ∧ (∀ e ∈ u.trn.tlb, e.table ≠ k) ∧ SameBut (([.mbx, .trn, .tables] : List Part) ++ tells) s u))

-- faults and migration --------------------------------------------------------------------------------------------------

/-- Faults (R144 to R159): a fault with no entry takes the lowest free one, parks its context and goes to the driver under the table's next
serial; FAULT_RESOLVE and FAULT_FAIL act on the entry that a record names and are GONE for any other; FAULT_RING_SET takes a region of
the table's memory aligned to 4,096 and an event, and is RANGE otherwise; a parked context tries again to get its slots back. -/
def Obligations.FaultsReachTheDriver : Prop :=
  (∀ (s : State) (f : FaultReq) (i : Nat) (tb : Table) (x : Ctx) (r : Handle × Handle × Nat), Serving s → f ∈ s.trn.faultQ →
      faultFirst s f = true → isWindow f = false → inHostback s f.table f.va = false → modelAt s f.table f.va = none →
      (∀ e ∈ s.trn.cam, ¬ (e.2.table = f.table ∧ e.2.page = f.va / 4096 * 4096)) →
      (s.trn.cam.filter (fun e => e.2.table = f.table)).length < 256 → mapFree s.trn.cam 512 = some i →
      tableAt s f.table = some tb → tb.ring = some r → ctxOf s f.ctx = some x → x.state = .active →
    ∃ u e, exec (.faultCamLookup f) s = .next u ∧ mapGet u.trn.cam i = some e ∧ e.serial = some tb.serial ∧ e.fault = f
      ∧ e.page = f.va / 4096 * 4096 ∧ e.waiters = [⟨f.ctx, f.source, f.cmd, f.tag, false, false⟩] ∧ e.resolved = false
      ∧ (∃ y, ctxOf u f.ctx = some y ∧ y.state = .parked) ∧ (∃ y, tableAt u f.table = some y ∧ y.serial = (tb.serial + 1) % 2 ^ 23)
      ∧ SameBut (([.trn, .tables, .objects, .host] : List Part) ++ tells) s u)
  ∧ (∀ (s : State) (c : Caller) (k rec_ : Nat), Takes s c.mbx .t → OnTable s c k →
      (recordEntry s k rec_ = none →
        (∃ u, exec (.faultResolve c rec_) s = .next u ∧ Answered u c.mbx .gone 0 [] ∧ SameBut (.mbx :: tells) s u)
        ∧ ∃ u, exec (.faultFail c rec_) s = .next u ∧ Answered u c.mbx .gone 0 [] ∧ SameBut (.mbx :: tells) s u)
      ∧ ∀ i, recordEntry s k rec_ = some i →
        exec (.faultResolve c rec_) s = .next (irqSettle (answer c.mbx.val { st := .ok } (camResolve i (taken 0x203 c.mbx s))))
        ∧ exec (.faultFail c rec_) s = .next (irqSettle (answer c.mbx.val { st := .ok } (camFail i (taken 0x204 c.mbx s)))))
  ∧ (∀ (s : State) (c : Caller) (k off : Nat) (o e : Handle), Takes s c.mbx .t → OnTable s c k → regionStatus s k o off 32768 = .ok →
      checkOwned s ((tenantOf s k).getD 0) k 4 e = .ok →
      (off % 4096 ≠ 0 → ∃ u, exec (.faultRingSet c o e off) s = .next u ∧ Answered u c.mbx .range 0 [] ∧ SameBut (.mbx :: tells) s u)
      ∧ (off % 4096 = 0 → ∃ u tb, exec (.faultRingSet c o e off) s = .next u ∧ Answered u c.mbx .ok 0 [] ∧ tableAt u k = some tb
          ∧ tb.ring = some (o, e, off)))
  ∧ (∀ (s : State) (h : Handle), Serving s → liveHandle s 1 (hIdx h) = h →
      exec (.waitRestoreRetry h) s = .next (irqSettle (camSweep (ctxResume h s))))

/-- Host-backed ranges (R162 to R174): a registration out of range is RANGE, and a good one makes an object with every block HOST; a range
with no running move is released at once, and one with running moves when they end; ADVISE of nothing commits, and any other changes the
policy of each block of its range and ends with its shootdown; PREFETCH queues a move for each block that is not at its target; a range kept
on the device moves its next HOST block; a ready move starts while fewer than 16 run, one that copies under its draw; a finished copy writes
the leaves of the target, or is followed by the flush reads of its port; a reader node's fault asks for a move, and the owner's report resolves
the faults that wait for it. -/
def Obligations.HostBackedRanges : Prop :=
  (∀ (s : State) (c : Caller) (k : Nat) (b : HostbackBody), Takes s c.mbx .t → OnTable s c k →
      checkOwned s ((tenantOf s k).getD 0) k 3 b.pool = .ok →
      (∃ o, memOf s b.pool = some o ∧ o.state = .live ∧ o.kind = .device) →
      b.va % 65536 ≠ 0 ∨ b.length % 65536 ≠ 0 ∨ b.length = 0 ∨ b.length > 2 ^ 38 ∨ b.hostIova % 65536 ≠ 0 ∨ b.va + b.length > 2 ^ 57
        ∨ (b.permA = true ∧ b.permW = false) ∨ (b.permW = true ∧ b.permR = false) ∨ b.readers.length > 8 →
    ∃ u, exec (.hostbackSet c b) s = .next u ∧ Answered u c.mbx .range 0 [] ∧ SameBut (.mbx :: tells) s u)
  ∧ (∀ (s v w : State) (c : Caller) (k : Nat) (b : HostbackBody) (h : Handle), Takes s c.mbx .t → OnTable s c k → v = taken 0x205 c.mbx s →
      effHostbackSet b k v = doneWith h w →
    ∃ u, exec (.hostbackSet c b) s = .next u ∧ Answered u c.mbx .ok h [] ∧ u = irqSettle (answer c.mbx.val { st := .ok, handle := h } w))
  ∧ (∀ (s : State) (c : Caller) (k : Nat) (h : Handle) (o : MemObj), Takes s c.mbx .t → OnTable s c k →
      checkOwned s ((tenantOf s k).getD 0) k 3 h = .ok → mapGet s.obj.mems (hIdx h) = some o → o.state = .live → o.kind = .hostback →
      (hbMoving s (hIdx h) = true → ∃ u, exec (.hostbackClear c h) s = .next u ∧ Unanswered u c.mbx
          ∧ mapGet u.obj.mems (hIdx h) = some { o with state := .freePending } ∧ SameBut (([.mbx, .objects] : List Part) ++ tells) s u)
      ∧ (hbMoving s (hIdx h) = false → exec (.hostbackClear c h) s
          = .next (irqSettle (answer c.mbx.val { st := .ok } (hbRelease (hIdx h) (taken 0x206 c.mbx s))))))
  ∧ (∀ (s v : State) (r : CmdRef) (q : Queue) (e : QEntry) (b : AdviseBody) (x : Nat × MemObj × Hostback), Serving s →
      queueOf s r.queue = some q → entryOf s r = some e → e.state = .dispatched → e.d.body = .advise b →
      v = entryMod r (fun e => { e with state := .running }) s → b.va % 65536 = 0 → b.length % 65536 = 0 → b.mask = 0 →
      hbRange v q.table b.va b.length = some x → exec (.advise r) s = .next (irqSettle (commitCmd r v)))
  ∧ (∀ (s v : State) (r : CmdRef) (q : Queue) (e : QEntry) (b : AdviseBody) (i : Nat) (o : MemObj) (h : Hostback) (tb : Table), Serving s →
      queueOf s r.queue = some q → entryOf s r = some e → e.state = .dispatched → e.d.body = .advise b →
      v = entryMod r (fun e => { e with state := .running }) s → b.va % 65536 = 0 → b.length % 65536 = 0 → b.mask ≠ 0 → b.mask < 8 →
      b.home ≤ 2 → b.shareReads ≤ 1 → b.readerCount ≤ 8 → hbRange v q.table b.va b.length = some (i, o, h) →
      tableAt v o.table = some tb → (∀ n ∈ b.nodes, Config.farLacks v n o.table b.va b.length = false) →
    exec (.advise r) s = .next (irqSettle (shootInternal o.table b.va (b.length / 4096) (.queue r)
      ((rangeBlocks h b.va b.length).foldl (fun w k => adviseBlock i o.table tb.globalId b k w) v))))
  ∧ (∀ (s v : State) (r : CmdRef) (q : Queue) (e : QEntry) (va len : Nat) (i : Nat) (o : MemObj) (h : Hostback), Serving s →
      queueOf s r.queue = some q → entryOf s r = some e → e.state = .dispatched → e.d.body = .prefetch va len 2 0 →
      v = entryMod r (fun e => { e with state := .running }) s → va % 65536 = 0 → len % 65536 = 0 → len ≤ 2 ^ 38 →
      hbRange v q.table va len = some (i, o, h) →
      (∃ k, (va - h.b.va) / 65536 ≤ k ∧ k < (va - h.b.va) / 65536 + len / 65536 ∧ atTarget (blockOf h k).state .device = false) →
    ∃ u, exec (.prefetch r) s = .next u ∧ SameBut (([.trn, .objects] : List Part) ++ tells) s u
      ∧ ∀ k, (va - h.b.va) / 65536 ≤ k → k < (va - h.b.va) / 65536 + len / 65536 → atTarget (blockOf h k).state .device = false →
        ∃ m ∈ u.trn.moves, m.object = i ∧ m.block = k ∧ m.target = .device ∧ m.forCmd = some r ∧ m.running = false)
  ∧ (∀ (s : State) (obj : Handle) (o : MemObj) (h : Hostback) (k : Nat), CoreServes s → mapGet s.obj.mems (hIdx obj) = some o →
      o.hb = some h → o.state = .live → liveHandle s 3 (hIdx obj) = obj →
      (List.range (h.b.length / 65536)).find? (fun k => (policyOf h k).home = 2 && (blockOf h k).state = .host
        && !s.trn.moves.any (fun m => m.object = hIdx obj && m.block = k)) = some k →
    exec (.backgroundAction obj) s = .next (irqSettle (moveAsk (hIdx obj) k (readTarget h k) none none s)))
  ∧ (∀ (s : State) (m : BlockMove), CoreServes s → (s.trn.moves.filter (fun m => m.running)).length < 16 →
      moveReady [] (s.trn.moves.filter (fun m => m.running) ++ s.trn.moves.filter (fun m => !m.running)) = some m →
    (moveWillCopy s m = false → exec .blockMoveStart s = .next (irqSettle (moveStart m s)))
    ∧ (∀ u, moveWillCopy s m = true → copyTake (blockInst m) false s = (true, u) → exec .blockMoveStart s = .next (irqSettle (moveStart m u)))
    ∧ (∀ u, moveWillCopy s m = true → copyTake (blockInst m) false s = (false, u) → exec .blockMoveStart s = .next (irqSettle u)))
  ∧ (∀ (s : State) (obj : Handle) (k : Nat) (m : BlockMove) (o : MemObj) (h : Hostback) (bs : List Byte), Serving s →
      moveOf s (hIdx obj) k = some m → mapGet s.obj.mems (hIdx obj) = some o → o.hb = some h → liveHandle s 3 (hIdx obj) = obj →
      moveCopies m = true → m.guard = none → (primaryOf s o.table).isSome = true →
      (∀ x ∈ shootAll s, x.who ≠ .move (hIdx obj) k false ∧ x.who ≠ .move (hIdx obj) k true) →
    (m.target ≠ .host → exec (.blockMoveCopyDone obj k .ok bs) s = .next (irqSettle (moveLeaves m
      (devWrite (tableKey s o.table) m.dev (bs.take 65536 ++ List.replicate (65536 - bs.length) 0) s))))
    ∧ ∀ ds, m.target = .host → devRead s (tableKey s o.table) m.dev 65536 = (.ok, ds) →
      exec (.blockMoveCopyDone obj k .ok bs) s = .next (irqSettle (moveFlush m o.table (h.b.hostIova % 2 ^ 47 + k * 65536)
        (hostWriteHold o.table (h.b.hostIova % 2 ^ 47 + k * 65536) ds s))))
  ∧ (∀ (s v : State) (src : CtrlFrom) (g va k : Nat) (tb : Table), Arrives s src v → coreAnswers v = true → slotOfGlobal v g = some k →
      tableAt v k = some tb → src.node ∈ membersOf tb →
      (∀ i o h, hostbackAt v k va = some (i, o, h) → ∃ u, exec (.faultForward src g va) s = .next u ∧ SameBut (.trn :: tells) v u
        ∧ u.trn.moves = v.trn.moves
          ++ [⟨i, (va - h.b.va) / 65536, readTarget h ((va - h.b.va) / 65536), .host, 0, false, none, some src.node, none⟩])
      ∧ (hostbackAt v k va = none → exec (.faultForward src g va) s = .next (irqSettle (forwardDone src.node k va (irqRaise 11 v)))))

-- device memory ---------------------------------------------------------------------------------------------------------

/-- A write within one codeblock of a working stack (R194, R197 to R199): a read of the written bytes under the same key gives them, and a
read of any other byte gives what it gave before: elsewhere in the codeblock under the same key, and in every other codeblock of every
stack under every key, while the merge buffer has room or already has the codeblock's entry. The premises are the canonical forms of the
model's maps. -/
def Obligations.WriteThenRead : Prop :=
  ∀ (s : State) (stack key addr : Nat) (bs : List Byte), MemOk s → mapWf 0 s.mem.keyOf = true → mapWf false s.mem.poison = true →
    (∀ e ∈ (stackOf s stack).merge, (e.bytes.map (fun x => x.1)).Pairwise (· < ·) ∧ ∀ x ∈ e.bytes, x.1 < 1024) →
    bs ≠ [] → addr % 1024 + bs.length ≤ 1024 → addr < 2 ^ 36 → poisoned s stack (addr / 1024) = false →
    readCb (writeCb stack key addr bs s) stack key addr bs.length = (.ok, bs)
    ∧ ((stackOf s stack).merge.length < 128 ∨ (mergeOf s stack (addr / 1024)).isSome →
      (∀ a, a / 1024 = addr / 1024 → a < addr ∨ addr + bs.length ≤ a →
        readCb (writeCb stack key addr bs s) stack key a 1 = readCb s stack key a 1)
      ∧ ∀ k key' a n, a % 1024 + n ≤ 1024 → a < 2 ^ 36 → (k ≠ stack ∨ a / 1024 ≠ addr / 1024) →
        readCb (writeCb stack key addr bs s) k key' a n = readCb s k key' a n)

/-- Every access, flush and re-fill of device memory keeps the canonical form of the memory's list of cells, and changes nothing of the hub
but the memory, the draws of its blocks and what tells the host of it; an erased key's and a re-filled slab's bindings and a freed object
change too. -/
def Obligations.MemoryKeepsItsForm : Prop :=
  ∀ (s t : State), MemOk s → Serving s →
    (∀ r data, exec (.memoryWrite r data) s = .next t → MemOk t ∧ SameBut (.memory :: tells) s t
      ∧ ((stackOf s (placeOf s r.pa).stack).queue = [] → SameBut tells s t))
    ∧ (∀ r atom data, exec (.memoryAtomic r atom data) s = .next t → MemOk t ∧ SameBut (.memory :: tells) s t
      ∧ ((stackOf s (placeOf s r.pa).stack).queue = [] → SameBut tells s t))
    ∧ (∀ r, exec (.memoryRead r .clean) s = .next t → MemOk t ∧ SameBut (.memory :: tells) s t
      ∧ ((stackOf s (placeOf s r.pa).stack).queue = [] → SameBut tells s t))
    ∧ (∀ k cb, exec (.mergeEntryTimeout k cb .clean) s = .next t → MemOk t ∧ SameBut tells s t)
    ∧ (∀ k cb, exec (.mergeFlush k cb .clean) s = .next t → MemOk t ∧ SameBut tells s t)
    ∧ (∀ k, exec (.slabRefillEnd k) s = .next t → MemOk t ∧ SameBut (([.memory, .bnd] : List Part) ++ tells) s t)
    ∧ (∀ slot, exec (.keyEraseEnd slot) s = .next t → MemOk t ∧ SameBut (([.memory, .bnd] : List Part) ++ tells) s t)
    ∧ (∀ h, exec (.memoryObjectRefillEnd h) s = .next t → MemOk t ∧ SameBut (([.memory, .objects] : List Part) ++ tells) s t)

/-- Requests at a channel block (R27, R28, R38, R178, R182, R194 to R201, R203 to R208): a request is served, behind those of its queue, once
its block is clocked and has its draw, and waits in the queue otherwise. A read counts and answers the bytes; a codeblock found uncorrectable
is poisoned, counted and answered POISONED; a failed stack answers POISONED, and so does a request that was in flight when the block's PLL
lost lock; a write is committed when admitted; an atomic answers the old bytes, and one of a bad form is RANGE; an entry is flushed 2,000
ticks after it was created, when it is full, or as the oldest of 128, and not before; a partial entry of a poisoned codeblock is lost. Levels
leak. A retraining in a refresh shadow answers its requests, and the third failure in a row fails the stack (R179 to R182, R600). -/
def Obligations.ChannelBlocksRun : Prop :=
  (∀ (s v : State) (r : MemReq) (op : BlockOp) (i : Instr) (k : Nat), Serving s → k = (placeOf s r.pa).stack →
      (∃ dec, (op, i) = (.read dec, .memoryRead r dec)) ∨ (∃ data, (op, i) = (.write data, .memoryWrite r data))
        ∨ (∃ atom data, atomBad atom data.length = false ∧ (op, i) = (.atomic atom data, .memoryAtomic r atom data)) →
      (stackWorks s k = false → exec i s = .next (irqSettle (blockServe s { r := r, op := op })))
      ∧ (stackWorks s k = true → blockTake k s = (true, v) → exec i s
          = .next (irqSettle (blockDrain k (stackMod k (fun x => { x with queue := x.queue ++ [{ r := r, op := op }] }) v))))
      ∧ (stackWorks s k = true → blockTake k s = (false, v) → exec i s
          = .next (irqSettle (stackMod k (fun x => { x with queue := x.queue ++ [{ r := r, op := op }] }) v))))
  ∧ (∀ (s : State) (k : Nat), (blockTake k s).1 = true → pllOn s (k / 4) = true)
  ∧ (∀ (s : State) (r : MemReq), stackWorks s (placeOf s r.pa).stack = true →
      (∀ p ∈ partsOf r.pa r.len, remoteOf s (placeOf s p.1) = none) →
    ∃ u, blockServe s { r := r, op := .read .clean } = u
      ∧ (stackOf u (placeOf s r.pa).stack).reads = (stackOf s (placeOf s r.pa).stack).reads + 1
      ∧ u.out = s.out ++ [.memDone r.tag (devRead s (reqKey s r) r.pa r.len).1
          (if (devRead s (reqKey s r) r.pa r.len).1 = .ok then (devRead s (reqKey s r) r.pa r.len).2 else [])]
      ∧ u.mem.cells = s.mem.cells ∧ u.mem.keyOf = s.mem.keyOf ∧ u.mem.poison = s.mem.poison)
  ∧ (∀ (s : State) (r : MemReq), stackWorks s (placeOf s r.pa).stack = true → 0 < r.len → remoteOf s (placeOf s r.pa) = none →
      (placeOf s r.pa).local_ % 1024 = r.pa % 1024 → r.pa % 1024 + r.len ≤ 1024 →
      poisoned s (placeOf s r.pa).stack ((placeOf s r.pa).local_ / 1024) = false →
      (∀ x ∈ (stackOf s (placeOf s r.pa).stack).cache, x.1 ≠ (placeOf s r.pa).local_ / 1024) →
      slabTable s (placeOf s r.pa).stack ((placeOf s r.pa).local_ / 1024 / 2 ^ 20) = none →
    ∃ u, blockServe s { r := r, op := .read .uncorrectable } = u
      ∧ poisoned u (placeOf s r.pa).stack ((placeOf s r.pa).local_ / 1024) = true
      ∧ u.mem.uncorrectable = sat32 (s.mem.uncorrectable + 1) ∧ u.mem.poisonValid = true
      ∧ u.out = s.out ++ [.memDone r.tag .poisoned []] ∧ u.mem.cells = s.mem.cells)
  ∧ (∀ (s : State) (r : MemReq) (dec : Decoded), stackWorks s (placeOf s r.pa).stack = false →
    blockServe s { r := r, op := .read dec } = emit (.memDone r.tag .poisoned []) s)
  ∧ (∀ (s : State) (r : MemReq) (op : BlockOp), blockServe s { r := r, op := op, lost := true } = emit (.memDone r.tag .poisoned []) s)
  ∧ (∀ (s : State) (r : MemReq) (data : List Byte), blockServe s { r := r, op := .write data } = emit
      (.memDone r.tag (if devWorks s r.pa data.length = true then .ok else .poisoned) []) (devWrite (reqKey s r) r.pa data s))
  ∧ (∀ (s : State) (r : MemReq) (atom : Nat) (data : List Byte),
    (Serving s → atomBad atom data.length = true →
      exec (.memoryAtomic r atom data) s = .next (irqSettle (emit (.memDone r.tag .range []) s)))
    ∧ (∀ old, atomBad atom data.length = false → devRead s (reqKey s r) r.pa (atomSpan atom data.length) = (.ok, old) →
      blockServe s { r := r, op := .atomic atom data } = emit (.memDone r.tag .ok old) (devWrite (reqKey s r) r.pa (atomApply atom old data) s)))
  ∧ (∀ (s : State) (k : Fin 16) (cb : Nat) (e : MergeEntry), Serving s → pllOn s (k.val / 4) = true → mergeOf s k.val cb = some e →
    (now s < e.created + 2000 → ∀ dec, exec (.mergeEntryTimeout k cb dec) s = .next (irqSettle s))
    ∧ (e.created + 2000 ≤ now s →
      exec (.mergeEntryTimeout k cb .clean) s = .next (irqSettle (mergeFlushEntry k.val e s)))
    ∧ (now s < e.created + 2000 → e.bytes.length < 1024 → (stackOf s k.val).merge.length < 128 →
      ∀ dec, exec (.mergeFlush k cb dec) s = .next (irqSettle s))
    ∧ (e.created + 2000 ≤ now s ∨ e.bytes.length ≥ 1024 ∨ ((stackOf s k.val).merge.length ≥ 128 ∧ (stackOf s k.val).merge.head? = some e) →
      exec (.mergeFlush k cb .clean) s = .next (irqSettle (mergeFlushEntry k.val e s)))
    ∧ (e.bytes.length < 1024 → poisoned s k.val cb = true →
      ∃ u, mergeFlushEntry k.val e s = u ∧ u.mem.cells = s.mem.cells ∧ mergeOf u k.val cb = none
        ∧ u.mem.uncorrectable = sat32 (s.mem.uncorrectable + 1)))
  ∧ (∀ (s : State) (k : Fin 16) (b : Nat), Serving s → mapWf 0 (stackOf s k.val).levels = true →
    ∃ u, exec (.bucketLeak k) s = .next (irqSettle u)
      ∧ mapGetD (stackOf u k.val).levels b 0 = mapGetD (stackOf s k.val).levels b 0
          - (now s / (2 ^ (stackOf s k.val).leakExp * 1000)
              - mapGetD s.mem.lastLeak k.val 0 / (2 ^ (stackOf s k.val).leakExp * 1000))
      ∧ mapGet u.mem.lastLeak k.val = some (now s) ∧ u.mem.cells = s.mem.cells)
  ∧ (∀ (s : State) (k : Fin 16) (hot ok : Bool), Serving s → pllOn s (k.val / 4) = true → (stackOf s k.val).state = .working →
    (refreshDue s k.val hot = false → exec (.refresh k hot ok) s = .next (irqSettle s))
    ∧ (∀ m, coreAnswers s = true → refreshDue s k.val hot = true → (stackOf s k.val).retrainFor = [m] →
      ∃ u, exec (.refresh k hot true) s = .next u ∧ Answered u m .ok 0 [] ∧ (stackOf u k.val).trainFails = 0
        ∧ (stackOf u k.val).lastRetrain = now s ∧ (stackOf u k.val).retrainFor = [] ∧ SameBut (.mbx :: tells) s u)
    ∧ (refreshDue s k.val hot = true → (stackOf s k.val).retrainFor = [] → trainDue s k.val = false →
      exec (.refresh k hot ok) s = .next (irqSettle (stackMod k.val (fun x => { x with lastRefresh := now s }) s)))
    ∧ (refreshDue s k.val hot = true → (stackOf s k.val).retrainFor ≠ [] ∨ trainDue s k.val = true →
      ((stackOf s k.val).trainFails ≥ 2 → exec (.refresh k hot false) s
        = .next (irqSettle (stackFail k.val (stackMod k.val (fun x => { x with lastRefresh := now s }) s))))
      ∧ ((stackOf s k.val).trainFails < 2 →
        ∃ u, exec (.refresh k hot false) s = .next (irqSettle u) ∧ (stackOf u k.val).trainFails = (stackOf s k.val).trainFails + 1
          ∧ (stackOf u k.val).state = .working)))

/-- Upkeep of the memory (R184, R189, R193, R209 to R215, R219, R220, R418, R426, R599): retraining requests wait for a shadow; ROW_MODE and
SLAB_CLASS change a FREE row or slab, which SLAB_CLASS re-fills; a scrub waits, asks for its draws, and reads 256 codeblocks of each
stack; a spare row takes a row under its draw, and without a free entry each slab that holds the row moves; a re-filled slab and object read
zero under the null key and are FREE; an erased key is zero, its slot FREE, no cache line is under it and its table's slabs wait for their
re-fill. -/
def Obligations.MemoryUpkeep : Prop :=
  (∀ (s : State) (c : Caller) (k kind : Nat), Takes s c.mbx .o →
    (k ≥ 16 ∨ kind = 0 ∨ kind > 2 → ∃ t, exec (.retrain c k kind) s = .next t ∧ Answered t c.mbx .range 0 [] ∧ SameBut (.mbx :: tells) s t)
    ∧ (k < 16 → kind = 1 → (stackOf s k).state = .working →
      ∃ t, exec (.retrain c k kind) s = .next t ∧ Unanswered t c.mbx
        ∧ (stackOf t k).retrainFor = (stackOf s k).retrainFor ++ [c.mbx] ∧ SameBut (.mbx :: tells) s t))
  ∧ (∀ (s : State) (c : Caller) (row mode : Nat), Takes s c.mbx .o → row < 48 → mode ≤ 1 →
    (rowFree s row = false → (mode = 0 → rowOneClass s row = true) →
      ∃ t, exec (.rowMode c row mode) s = .next t ∧ Answered t c.mbx .busy 0 [] ∧ SameBut (.mbx :: tells) s t)
    ∧ (rowFree s row = true → (mode = 0 → rowOneClass s row = true) →
      ∃ t, exec (.rowMode c row mode) s = .next t ∧ Answered t c.mbx .ok 0 []
        ∧ (∀ i, i < 48 → t.mem.rowLocal.getLsbD i = if i = row then decide (mode = 1) else s.mem.rowLocal.getLsbD i)
        ∧ SameBut (([.mbx, .memory] : List Part) ++ tells) s t)
    ∧ (mode = 0 → rowOneClass s row = false →
      ∃ t, exec (.rowMode c row mode) s = .next t ∧ Answered t c.mbx .range 0 [] ∧ SameBut (.mbx :: tells) s t))
  ∧ (∀ (s : State) (c : Caller) (k : Fin 16) (slab : Fin 48) (cls u : Nat), Takes s c.mbx .o → cls ≤ 3 →
      s.mem.rowLocal.getLsbD slab.val = true → stackWorks s k.val = true → (slabCfg s k.val slab.val).data = true →
      unitRun (stackOf s k.val) slab.val cls = some u → (bindAt s (slabIndex k.val slab.val)).state = .free →
    ∃ t, exec (.slabClass c k.val slab.val cls) s = .next t ∧ Answered t c.mbx .ok 0 []
      ∧ slabCfg t k.val slab.val = { data := true, cls := cls, chkUnit := u }
      ∧ (bindAt t (slabIndex k.val slab.val)).state = .refill ∧ .slab slab.val ∈ (stackOf t k.val).refills
      ∧ SameBut (([.mbx, .bnd] : List Part) ++ tells) s t)
  ∧ (∀ (s : State) (c : Caller) (b : ScrubBody), Takes s c.mbx .o → b.stackMask ≠ 0 → 0 < b.slabs → 500 ≤ b.period → b.period ≤ 1000000 →
      (∀ k, k < 16 → b.stackMask.getLsbD k = true → b.firstSlab + b.slabs ≤ 48 - (stackOf s k).chkSlabs) →
      scrubWaiting [] s.mem.scrubs < 8 →
    ∃ t x, exec (.scrub c b) s = .next t ∧ Unanswered t c.mbx ∧ t.mem.scrubs = s.mem.scrubs ++ [x] ∧ x.mbx = c.mbx ∧ x.b = b
      ∧ x.started = none ∧ x.lastEnd = now s ∧ SameBut (([.mbx, .memory] : List Part) ++ tells) s t)
  ∧ (∀ (s : State) (x : Scrub) (decs : List (Nat × Decoded)), Serving s → s.mem.scrubs = [x] → x.aborted = false →
      (∀ k ∈ scrubStacks x, pllOn s (k / 4) = true) →
      now s / x.b.period ≠ x.lastEnd / x.b.period → (scrubStacks x).all (fun k => anteHas s 8 k) = false →
    exec (.scrubSlice decs) s = .next (irqSettle ((scrubStacks x).foldl (fun s k => anteRequest 8 k false s) s)))
  ∧ (∀ (s : State) (x : Scrub), Serving s → s.mem.scrubs = [x] → x.aborted = false → s.mem.poison = [] →
      (∀ k ∈ scrubStacks x, pllOn s (k / 4) = true) →
      now s / x.b.period ≠ x.lastEnd / x.b.period → (scrubStacks x).all (fun k => anteHas s 8 k) = true →
      x.next + 1 < x.b.slabs * 4096 →
    ∃ u, exec (.scrubSlice []) s = .next (irqSettle u)
      ∧ u.mem.scrubs = [{ x with started := some (x.started.getD (now s)), read := x.read + 256 * (scrubStacks x).length,
                                 next := x.next + 1, lastEnd := now s }]
      ∧ (∀ k ∈ scrubStacks x, anteHas u 8 k = false) ∧ SameBut [.ante, .store, .memory] s u)
  ∧ (∀ (s v : State) (k : Fin 16) (row : Nat), CoreServes s → pllOn s (k.val / 4) = true → (stackOf s k.val).state = .working →
      mapGet (stackOf s k.val).spares row = none → row < 48 * 2 ^ 20 - 4096 →
      (∀ e, (List.range 4096).find? (fun e => !(stackOf s k.val).spares.any (fun x => x.2 = e)) = some e →
        (copyTake (spareInst k.val) true s = (true, v) → ∃ u, exec (.softSpare k row []) s = .next (irqSettle u)
          ∧ mapGet (stackOf u k.val).spares row = some e ∧ anteHas u 5 (spareInst k.val) = false ∧ SameBut [.store, .ante] s u)
        ∧ (copyTake (spareInst k.val) true s = (false, v) → exec (.softSpare k row []) s = .next (irqSettle v)))
      ∧ ((List.range 4096).find? (fun e => !(stackOf s k.val).spares.any (fun x => x.2 = e)) = none → ∀ decs,
          exec (.softSpare k row decs) s = .next (irqSettle ((((rowServes s k.val row).map (fun cb => cb / 2 ^ 20)).eraseDups).foldl
            (fun w j => slabMove (slabIndex k.val j) w) s))))
  ∧ (∀ (s : State) (k : Fin 16) (slab : Nat) (rest : List Refill), Serving s → pllOn s (k.val / 4) = true → stackWorks s k.val = true →
      (stackOf s k.val).refills = .slab slab :: rest → slabListed s k.val slab = false → mapGet s.mem.refillHold (slabIndex k.val slab) = none →
      mapWf ({} : Binding) s.bnd.seats = true →
    ∃ u, exec (.slabRefillEnd k) s = .next (irqSettle u) ∧ (bindAt u (slabIndex k.val slab)).state = .free
      ∧ (stackOf u k.val).refills = rest
      ∧ ∀ a, slab * 2 ^ 30 ≤ a → a < (slab + 1) * 2 ^ 30 → readCb u k.val 0 a 1 = (.ok, [0]))
  ∧ (∀ (s : State) (k : Fin 16) (slab : Fin 48) (t : Tick), Serving s →
      mapGet s.mem.refillHold (slabIndex k.val slab.val) = some t → mapWf ({} : Binding) s.bnd.seats = true →
    (now s < t → exec (.refillHoldExpiry k slab) s = .next (irqSettle s))
    ∧ (t ≤ now s → .slab slab.val ∉ (stackOf s k.val).refills → (∀ x ∈ s.mem.keys, slabIndex k.val slab.val ∉ x.2.slabs) →
        (bindAt s (slabIndex k.val slab.val)).state = .refill →
      ∃ u, exec (.refillHoldExpiry k slab) s = .next u ∧ (bindAt u (slabIndex k.val slab.val)).state = .free
        ∧ SameBut (([.bnd, .memory] : List Part) ++ tells) s u))
  ∧ (∀ (s : State) (slot : Nat) (k : KeySlot), Serving s → mapGet s.mem.keys slot = some k → k.state = .erasing →
    ∃ u, exec (.keyEraseEnd slot) s = .next (irqSettle u) ∧ mapGet u.mem.keys slot = some { k with
        state := .free, table := 0, dataKey := 0, tweakKey := 0, slabs := [] }
      ∧ (∀ i ∈ k.slabs, 120 ≤ i → (stackOf s ((i - 120) / 48)).state ≠ .failed →
          (bindAt u i).state = .refill ∧ .slab ((i - 120) % 48) ∈ (stackOf u ((i - 120) / 48)).refills)
      ∧ (∀ st, ∀ y ∈ (stackOf u st).cache, y.2 ≠ slot + 1024 * k.gen) ∧ (∀ i, i ≠ slot → mapGet u.mem.keys i = mapGet s.mem.keys i))
  ∧ (∀ (s : State) (h : Handle) (o : MemObj), Serving s → mapGet s.obj.mems (hIdx h) = some o → o.state = .refill →
      liveHandle s 3 (hIdx h) = h → objectTurn s (hIdx h) = true → (s.obj.mems.map (fun x => x.1)).Pairwise (· < ·) →
    ∃ u, exec (.memoryObjectRefillEnd h) s = .next (irqSettle u) ∧ mapGet u.obj.mems (hIdx h) = none
      ∧ ∀ x, mapGet s.obj.slots (slotKey 3 (hIdx h)) = some x → mapGet u.obj.slots (slotKey 3 (hIdx h)) = some { x with live := false })

-- links -----------------------------------------------------------------------------------------------------------------

/-- Training of link ports (R230, R231, R235 to R238, R256, R257) and their requests (R239, R526): HELLO goes out when lanes are ready and is
repeated each microsecond; version 3 is agreed or the port is FAILED; an ECHO goes out under the port's draw and a credit, is answered,
measures the round trip and makes the port UP; silence and lane loss take it down; a port that is down trains again after 1 ms unless it is
FAILED or disabled. -/
def Obligations.LinksTrain : Prop :=
  (∀ (s : State) (lp : Fin 16), linksOn s = true → (lnkPort s lp.val).state = .training →
    ∃ u, exec (.lanesReady lp) s = .next (irqSettle (if (lnkPort s lp.val).helloGot then echoSend lp.val u else u))
      ∧ (lnkPort u lp.val).state = .negotiate ∧ (lnkPort u lp.val).lanes = true
      ∧ (lnkPort u lp.val).helloSent = true ∧ (lnkPort u lp.val).helloAt = now s ∧ u.out = s.out ++ [.hello lp.val (helloOf s lp.val)]
      ∧ (anteWaits u 3 lp.val || anteHas u 3 lp.val) = true
      ∧ (∀ q, q ≠ lp.val → lnkPort u q = lnkPort s q) ∧ SameBut [.sends, .ante, .out] s u)
  ∧ (∀ (s : State) (lp : Fin 16), linksOn s = true → (lnkPort s lp.val).state = .negotiate →
    ((lnkPort s lp.val).helloGot = false → (lnkPort s lp.val).helloAt + 1000 ≤ now s →
      exec (.helloRepeat lp) s = .next (irqSettle (helloSend lp.val s)))
    ∧ ((lnkPort s lp.val).helloGot = false → now s < (lnkPort s lp.val).helloAt + 1000 → exec (.helloRepeat lp) s = .next (irqSettle s))
    ∧ ((lnkPort s lp.val).helloGot = true → (lnkPort s lp.val).kept = [] → (lnkPort s lp.val).nextLseq = 0 →
      exec (.helloRepeat lp) s = .next (irqSettle (echoSend lp.val s)))
    ∧ (∀ b : HelloBody, bitsOf b.versions 3 3 = 1 → (lnkPort s lp.val).helloSent = true → (lnkPort s lp.val).helloGot = false →
      ∃ u, exec (.hello lp b) s = .next (irqSettle (echoSend lp.val u)) ∧ (lnkPort u lp.val).helloGot = true
        ∧ (lnkPort u lp.val).partner = b.node % 4096 ∧ (lnkPort u lp.val).timeIn = b.time
        ∧ (lnkPort u lp.val).credShared = b.shared ∧ (∀ v, v < 6 → mapGetD (lnkPort u lp.val).credDedicated v 0 = b.dedicated)
        ∧ SameBut [.sends] s u)
    ∧ (∀ b : HelloBody, bitsOf b.versions 3 3 = 0 →
      ∃ u, exec (.hello lp b) s = .next (irqSettle u) ∧ (lnkPort u lp.val).state = .failed ∧ (lnkPort u lp.val).cause = .version
        ∧ (irqSrcOf u 48).latch = true ∧ SameBut [.sends, .irq, .sys] s u))
  ∧ (∀ (s : State) (lp : Nat) (sh : Bool), creditFor (lnkPort s lp) 5 = some sh → anteHas s 3 lp = true →
    (∃ u f n, echoSend lp s = u ∧ n = ((lnkPort s lp).echoSeq + 1) % 2 ^ 31 ∧ (lnkPort u lp).echoSeq = n ∧ (lnkPort u lp).echoAt = now s
      ∧ u.out = s.out ++ [.link lp "ECHO" n, .flit lp f] ∧ f.vc = 5 ∧ f.lseq = (lnkPort s lp).nextLseq
      ∧ (lnkPort u lp).kept = (lnkPort s lp).kept ++ [{ f := f, resent := 0 }] ∧ SameBut [.sends, .ante, .out] s u)
    ∧ (∀ n rest, (lnkPort s lp).echoDue = n :: rest →
      ∃ u f, echoAnswer lp s = u ∧ (lnkPort u lp).echoDue = rest ∧ u.out = s.out ++ [.link lp "ECHO_REPLY" n, .flit lp f]
        ∧ SameBut [.sends, .ante, .out] s u))
  ∧ (∀ (s : State) (lp : Fin 16) (seq : Nat), linksOn s = true → linkTalks (lnkPort s lp.val) = true →
    (∃ u, exec (.echo lp seq) s = .next (irqSettle (echoAnswer lp.val u)) ∧ (lnkPort u lp.val).lastGood = now s
      ∧ (lnkPort u lp.val).echoDue = (lnkPort s lp.val).echoDue ++ [seq] ∧ SameBut [.sends] s u)
    ∧ ((lnkPort s lp.val).echoSeq = seq →
      ∃ u, exec (.echoReply lp seq) s = .next (irqSettle (lnkReroute u)) ∧ (lnkPort u lp.val).state = .up
        ∧ (lnkPort u lp.val).rtt = min 65535 (now s - (lnkPort s lp.val).echoAt) ∧ SameBut [.sends] s u)
    ∧ ((lnkPort s lp.val).echoSeq ≠ seq → exec (.echoReply lp seq) s = .next (irqSettle s)))
  ∧ (∀ (s : State) (lp : Fin 16), linksOn s = true → (lnkPort s lp.val).state = .up →
    ((lnkPort s lp.val).echoAt + 100000 ≤ now s → exec (.echoRepeat lp) s = .next (irqSettle (echoSend lp.val s)))
    ∧ ((lnkPort s lp.val).lastGood + 1000 ≤ now s → exec (.linkSilence lp) s = .next (irqSettle (linkDown lp.val .silence s)))
    ∧ (now s < (lnkPort s lp.val).lastGood + 1000 → exec (.linkSilence lp) s = .next (irqSettle s))
    ∧ ∃ u, exec (.phyLaneLoss lp) s = .next (irqSettle u) ∧ (lnkPort u lp.val).state = .down ∧ (lnkPort u lp.val).cause = .phy
      ∧ (lnkPort u lp.val).downCnt = sat32 ((lnkPort s lp.val).downCnt + 1) ∧ (lnkPort u lp.val).kept = []
      ∧ (lnkPort u lp.val).nextLseq = 0 ∧ (lnkPort u lp.val).expectLseq = 0 ∧ (lnkPort u lp.val).downAt = now s
      ∧ (irqSrcOf u 48).latch = true ∧ SameBut [.sends, .irq, .out] s u)
  ∧ (∀ (s : State) (lp : Fin 16), linksOn s = true →
    ((lnkPort s lp.val).state = .down → (lnkPort s lp.val).cause ≠ .disabled → linkPllOk s lp.val = true →
        (lnkPort s lp.val).downAt + 1000000 ≤ now s →
      exec (.linkRetrainTimer lp) s = .next (irqSettle (linkTrain lp.val s))
        ∧ (lnkPort (linkTrain lp.val s) lp.val).state = .training ∧ (lnkPort (linkTrain lp.val s) lp.val).helloSent = false)
    ∧ ((lnkPort s lp.val).state = .failed ∨ (lnkPort s lp.val).cause = .disabled →
      exec (.linkRetrainTimer lp) s = .next (irqSettle s)))
  ∧ (∀ (s : State) (c : Caller) (first : Nat) (es : List RouteEntry), Takes s c.mbx .o →
    (es = [] ∨ es.length > 256 ∨ first + es.length > 4096 →
      ∃ t, exec (.routeSet c first es) s = .next t ∧ Answered t c.mbx .range 0 [] ∧ SameBut (.mbx :: tells) s t)
    ∧ (es ≠ [] → es.length ≤ 256 → first + es.length ≤ 4096 → mapWf ({} : RouteEntry) s.lnk.routes = true →
      ∃ t, exec (.routeSet c first es) s = .next t ∧ Answered t c.mbx .ok 0 []
        ∧ (∀ (i : Nat) (h : i < es.length), routeOf t (first + i) = es[i])
        ∧ (∀ n, n < first ∨ first + es.length ≤ n → routeOf t n = routeOf s n) ∧ SameBut (([.mbx, .lnk] : List Part) ++ tells) s t))
  ∧ (∀ (s : State) (c : Caller) (lp : Fin 16) (time : Bool), Takes s c.mbx .o →
    (∃ t, exec (.linkDisable c lp.val time) s = .next t ∧ Answered t c.mbx .ok 0 [] ∧ (lnkPort t lp.val).state = .down
      ∧ (lnkPort t lp.val).cause = .disabled ∧ SameBut (([.mbx, .sys] : List Part) ++ tells) s t)
    ∧ ((lnkPort s lp.val).state = .down ∨ (lnkPort s lp.val).state = .failed → linkPllOk s lp.val = true →
      ∃ t, exec (.linkEnable c lp.val time) s = .next t ∧ Answered t c.mbx .ok 0 [] ∧ (lnkPort t lp.val).state = .training
        ∧ (lnkPort t lp.val).timeOut = time ∧ SameBut (([.mbx, .sys] : List Part) ++ tells) s t)
    ∧ (linkPllOk s lp.val = true →
      ∃ t, exec (.linkRetrain c lp.val time) s = .next t ∧ Answered t c.mbx .ok 0 [] ∧ (lnkPort t lp.val).state = .training
        ∧ (lnkPort t lp.val).timeOut = time ∧ SameBut (([.mbx, .sys] : List Part) ++ tells) s t))
  ∧ (∀ (s : State) (c : Caller) (port : Nat) (time : Bool), Takes s c.mbx .o → 16 ≤ port →
    ∀ i, i ∈ [Instr.linkDisable c port time, .linkEnable c port time, .linkRetrain c port time] →
      ∃ t, exec i s = .next t ∧ Answered t c.mbx .range 0 [] ∧ SameBut (.mbx :: tells) s t)
  ∧ (∀ (s : State) (c : Caller) (a b : Nat), Takes s c.mbx .o →
    (0 < a → a ≤ 255 → 0 < b → b ≤ 500 →
      ∃ t, exec (.e2eCfg c a b) s = .next t ∧ Answered t c.mbx .ok 0 [] ∧ lnkRest t.lnk = { lnkRest s.lnk with timeout := a, giveup := b }
        ∧ SameBut (([.mbx, .lnk] : List Part) ++ tells) s t)
    ∧ (a = 0 ∨ a > 255 ∨ b = 0 ∨ b > 500 →
      ∃ t, exec (.e2eCfg c a b) s = .next t ∧ Answered t c.mbx .range 0 [] ∧ SameBut (.mbx :: tells) s t))

/-- Flits (R67, R224, R228 to R234, R241, R242): an UP port answers an ECHO that waits, sends the flit that its arbiter picks under its draw and
a credit, numbered and kept, and a NULL flit otherwise; a flit with a bad CRC counts and is answered with a NAK; the expected one is accepted,
and any other answered with a NAK, which is repeated every 100 ticks; a flit for this hub returns its credit, one for another goes on with
HOPS raised, and one that has come 15 hops is dropped; acknowledged flits are let go, a NAK resends the rest, and after 16 resends the port
goes down; flits that have waited 50 ms are dropped and counted, with the rest of their packets; an idle port's draw is released. -/
def Obligations.FlitsMove : Prop :=
  (∀ (s : State) (lp : Fin 16), linksOn s = true → (lnkPort s lp.val).state = .up →
    ((lnkPort s lp.val).echoDue ≠ [] → (creditFor (lnkPort s lp.val) 5).isSome = true →
      exec (.flitTransmit lp) s = .next (irqSettle (echoAnswer lp.val s)))
    ∧ ((lnkPort s lp.val).echoDue = [] → sendable s lp.val = none → exec (.flitTransmit lp) s = .next (irqSettle (nullSend lp.val s)))
    ∧ (∀ x sh, (lnkPort s lp.val).echoDue = [] → sendable s lp.val = some (x, sh) → anteHas s 3 lp.val = false →
      exec (.flitTransmit lp) s = .next (irqSettle (linkBusy lp.val ((lnkPort s lp.val).txQ.all (fun y => y.replay)) s)))
    ∧ (∀ x sh, (lnkPort s lp.val).echoDue = [] → sendable s lp.val = some (x, sh) → anteHas s 3 lp.val = true →
      ∃ u f, exec (.flitTransmit lp) s = .next (irqSettle u) ∧ u.out = s.out ++ [.flit lp.val f]
        ∧ f.lseq = (lnkPort s lp.val).nextLseq ∧ f.vc = x.f.vc ∧ f.dst = x.f.dst ∧ f.shared = sh
        ∧ f.ack = ((lnkPort s lp.val).expectLseq + 4095) % 4096
        ∧ (lnkPort u lp.val).nextLseq = ((lnkPort s lp.val).nextLseq + 1) % 4096
        ∧ (lnkPort u lp.val).kept = (lnkPort s lp.val).kept ++ [{ f := f, resent := 0 }]
        ∧ (lnkPort u lp.val).txQ = (lnkPort s lp.val).txQ.erase x ∧ (lnkPort u lp.val).turn = ((lnkPort s lp.val).turn + 1) % 16
        ∧ (lnkPort u lp.val).credShared = (lnkPort s lp.val).credShared - (if sh = true then 1 else 0)
        ∧ SameBut [.sends, .ante, .out] s u))
  ∧ (∀ (s : State) (lp : Nat) (x : QFlit) (sh : Bool), sendable s lp = some (x, sh) →
      x ∈ (lnkPort s lp).txQ ∧ vcOpen (lnkPort s lp) x = true ∧ creditFor (lnkPort s lp) x.f.vc = some sh
      ∧ (∀ t, shareTenant s lp (lnkPort s lp).turn = some t → (∃ y ∈ flitsReady (lnkPort s lp), y.from_ = 16 ∧ y.f.tenant = t) →
          x.from_ = 16 ∧ x.f.tenant = t))
  ∧ (∀ (s : State) (lp : Fin 16) (f : Flit) (ps : List Packet), linksOn s = true → (lnkPort s lp.val).state = .up →
    (f.crcOk = false →
      ∃ u, exec (.flitReceive lp f ps) s = .next (irqSettle u) ∧ (lnkPort u lp.val).crcErr = sat32 ((lnkPort s lp.val).crcErr + 1)
        ∧ (lnkPort u lp.val).nakOut = true ∧ (lnkPort u lp.val).expectLseq = (lnkPort s lp.val).expectLseq
        ∧ ((lnkPort s lp.val).nakOut = true → u.out = s.out)
        ∧ ((lnkPort s lp.val).nakOut = false → ∃ n, u.out = s.out ++ [.flit lp.val n] ∧ n.nak = true ∧ n.vc = 7) ∧ SameBut [.sends, .out] s u)
    ∧ (f.crcOk = true → f.vc ≠ 7 → f.nak = false → f.lseq = (lnkPort s lp.val).expectLseq →
      ∃ u, exec (.flitReceive lp f ps) s = .next (irqSettle (flitRoute lp.val f ps u))
        ∧ (lnkPort u lp.val).expectLseq = ((lnkPort s lp.val).expectLseq + 1) % 4096 ∧ (lnkPort u lp.val).nakOut = false
        ∧ (lnkPort u lp.val).lastGood = now s ∧ (lnkPort u lp.val).owed = (lnkPort s lp.val).owed
        ∧ (f.ackValid = true → ∀ k ∈ (lnkPort u lp.val).kept, lseqCovered f.ack k.f.lseq = false)
        ∧ SameBut [.sends, .ante] s u)
    ∧ (f.crcOk = true → f.vc ≠ 7 → f.nak = false → f.lseq ≠ (lnkPort s lp.val).expectLseq →
      ∃ u, exec (.flitReceive lp f ps) s = .next (irqSettle u) ∧ (lnkPort u lp.val).nakOut = true
        ∧ (lnkPort u lp.val).expectLseq = (lnkPort s lp.val).expectLseq
        ∧ ((lnkPort s lp.val).nakOut = false → ∃ n, u.out = s.out ++ [.flit lp.val n] ∧ n.nak = true ∧ n.vc = 7)
        ∧ SameBut [.sends, .out] s u)
    ∧ (f.crcOk = true → f.vc = 7 → f.ackValid = true → f.nak = true →
        (∀ k ∈ (lnkPort s lp.val).kept, lseqCovered f.ack k.f.lseq = false → k.resent < 16) →
      ∃ u, exec (.flitReceive lp f ps) s = .next (irqSettle u)
        ∧ u.out = s.out ++ ((lnkPort s lp.val).kept.filter (fun k => !lseqCovered f.ack k.f.lseq)).map (fun k => .flit lp.val k.f)
        ∧ SameBut [.sends, .out] s u)
    ∧ (f.crcOk = true → f.ackValid = true → f.nak = true →
        (∃ k ∈ (lnkPort s lp.val).kept, lseqCovered f.ack k.f.lseq = false ∧ 16 ≤ k.resent) →
      ∃ u, exec (.flitReceive lp f ps) s = .next (irqSettle u) ∧ (lnkPort u lp.val).state = .down ∧ (lnkPort u lp.val).cause = .retry))
  ∧ (∀ (s : State) (lp : Nat) (f : Flit) (ps : List Packet), f.vc < 6 → (f.tenant = 0 ↔ f.vc = 5) →
    (f.dst = s.sys.nodeId → (∀ p ∈ ps, typeListed p.type = true) →
      (lnkPort (flitRoute lp f ps s) lp).owed = (lnkPort s lp).owed ++ [if f.shared = true then 6 else f.vc]
      ∧ (lnkPort (flitRoute lp f ps s) lp).rxUsed = (lnkPort s lp).rxUsed ∧ SameBut [.sends] s (flitRoute lp f ps s))
    ∧ (f.dst ≠ s.sys.nodeId → oneHop f = false → f.hops < 15 → flitUnlisted f ps = false →
      ∃ x u, flitRoute lp f ps s = flitQueue x u ∧ x.f = { f with hops := f.hops + 1 } ∧ x.from_ = lp
        ∧ x.pool = some (if f.shared = true then 6 else f.vc) ∧ (lnkPort u lp).rxUsed = (lnkPort s lp).rxUsed + 1 ∧ SameBut [.sends] s u)
    ∧ (f.dst ≠ s.sys.nodeId → oneHop f = false → 15 ≤ f.hops →
      (flitRoute lp f ps s).lnk.dropCnt = sat64 (s.lnk.dropCnt + 1)
      ∧ (lnkPort (flitRoute lp f ps s) lp).owed = (lnkPort s lp).owed ++ [if f.shared = true then 6 else f.vc]))
  ∧ (∀ (s : State) (lp : Fin 16), linksOn s = true →
    (linkTalks (lnkPort s lp.val) = true → (lnkPort s lp.val).nakOut = true → (lnkPort s lp.val).nakAt + 100 ≤ now s →
      exec (.nakRepeat lp) s = .next (irqSettle (nakSend lp.val s)))
    ∧ ((lnkPort s lp.val).nakOut = false ∨ now s < (lnkPort s lp.val).nakAt + 100 → exec (.nakRepeat lp) s = .next (irqSettle s))
    ∧ (s.lnk.dropCnt < 2 ^ 64 → ∀ q, q = splitOld (now s) [] (lnkPort s lp.val).txQ →
      (∀ x ∈ (lnkPort s lp.val).txQ, x.since + 50000000 ≤ now s → x ∈ q.2) ∧ (∀ x ∈ q.2, x.since + 50000000 ≤ now s ∨ x.f.cont = true)
      ∧ ∃ u, exec (.flitQueueTimeout lp) s = .next (irqSettle u) ∧ (lnkPort u lp.val).txQ = q.1
        ∧ u.lnk.dropCnt = sat64 (s.lnk.dropCnt + q.2.length) ∧ SameBut [.sends] s u)
    ∧ ((lnkPort s lp.val).lastBusy + 1000 ≤ now s → lnkUp s lp.val = false ∨ ((lnkPort s lp.val).txQ = [] ∧ (lnkPort s lp.val).echoDue = []) →
      exec (.linkAnteIdle lp) s = .next (irqSettle (anteDrop 3 lp.val s)))
    ∧ (now s < (lnkPort s lp.val).lastBusy + 1000 → exec (.linkAnteIdle lp) s = .next (irqSettle s)))

/-- End-to-end delivery (R243 to R249): an acknowledgement releases all packets at or below it and is sent 1 microsecond after the first
packet unacknowledged; a packet whose interval has passed is sent again with REPLAY and a doubled interval; one given up ends its
transaction LOST, and E2E_SKIP makes the values it skips count as received. A held signal is applied when nothing lower is left. -/
def Obligations.EndToEndDelivery : Prop :=
  (∀ (s : State) (src e : Nat) (x : TxPair), linksOn s = true → mapGet s.lnk.tx src = some x → (∀ k ∈ x.kept, k.dropped = false) →
    ∃ u, exec (.e2eAck src e) s = .next (irqSettle (pairNext src u))
      ∧ (∃ y, mapGet u.lnk.tx src = some y ∧ y.kept = x.kept.filter (fun k => !seqLe k.eseq e) ∧ y.next = x.next ∧ y.waiting = x.waiting)
      ∧ (∀ d, d ≠ src → mapGet u.lnk.tx d = mapGet s.lnk.tx d) ∧ SameBut [.sends] s u)
  ∧ (∀ (s : State) (src : Nat), linksOn s = true → 0 < (rxOf s src).unacked →
    ((rxOf s src).firstUnacked + 1000 ≤ now s →
      exec (.e2eAckTimer src) s = .next (irqSettle (ackSend src s)) ∧ (rxOf (ackSend src s) src).unacked = 0
        ∧ Out.packet src { src := s.sys.nodeId, tenant := pairTenant src (rxOf s src).tenant, type := 0x21,
                           addr := ((rxOf s src).low + 2 ^ 32 - 1) % 2 ^ 32 } ∈ (ackSend src s).out)
    ∧ (now s < (rxOf s src).firstUnacked + 1000 → exec (.e2eAckTimer src) s = .next (irqSettle s)))
  ∧ (∀ (s : State) (dst : Nat) (x : TxPair), linksOn s = true → mapGet s.lnk.tx dst = some x →
    ∃ u y, exec (.e2eReplayTimeout dst) s = .next (irqSettle u) ∧ mapGet u.lnk.tx dst = some y
      ∧ y.kept = x.kept.map (fun k => if k.last + k.wait ≤ now s then { k with last := now s, wait := min 1000000 (2 * k.wait) } else k)
      ∧ (∀ k ∈ x.kept, k.last + k.wait ≤ now s → k.dropped = false → Out.packet dst { k.p with replay := true } ∈ u.out)
      ∧ SameBut [.sends, .out] s u)
  ∧ (∀ (s : State) (src e : Nat), linksOn s = true → e < 2 ^ 32 → (rxOf s src).low < 2 ^ 32 →
    ((e + 1 + 2 ^ 32 - (rxOf s src).low) % 2 ^ 32 ≤ 8192 → (rxOf s src).above = [] →
      ∃ u, exec (.e2eSkip src e) s = .next (irqSettle u) ∧ (rxOf u src).low = (e + 1) % 2 ^ 32 ∧ SameBut [.lnk] s u)
    ∧ (2 ^ 31 ≤ (e + 1 + 2 ^ 32 - (rxOf s src).low) % 2 ^ 32 →
      ∃ u, exec (.e2eSkip src e) s = .next (irqSettle u) ∧ rxOf u src = rxOf s src ∧ SameBut [.lnk] s u))
  ∧ (∀ (s : State) (dst : Nat) (x : TxPair) (k : KeptPacket) (t : Txn), linksOn s = true → mapGet s.lnk.tx dst = some x → x.kept = [k] →
      x.waiting = [] →
    (now s < k.first + s.lnk.giveup * 1000000 → exec (.e2eGiveup dst k.eseq) s = .next (irqSettle s))
    ∧ (k.first + s.lnk.giveup * 1000000 ≤ now s → txnOf s k.p.tag = some t → t.dst = dst → typeAsks k.p.type = true →
        ∀ cl co tag, t.what = .signal none (some (cl, co, tag)) →
      ∃ u, exec (.e2eGiveup dst k.eseq) s = .next (irqSettle u)
        ∧ mapGet u.lnk.tx dst = some { x with kept := [], skipTo := some k.eseq, skipTenant := k.p.tenant }
        ∧ Out.cfResponse cl co tag .lost 0 ∈ u.out
        ∧ Out.packet dst { src := s.sys.nodeId, tenant := pairTenant dst k.p.tenant, type := 0x22, addr := k.eseq } ∈ u.out
        ∧ (∀ y ∈ u.lnk.txns, y.tag ≠ t.tag) ∧ SameBut [.sends, .out] s u))
  ∧ (∀ (s : State) (src : Nat) (h : Nat × Packet), Serving s → (rxOf s src).heldSig = [h] →
    (sigWaits s src h.2.eseq = true → exec (.sigApplyHeld src) s = .next (irqSettle s))
    ∧ (sigWaits s src h.2.eseq = false →
      exec (.sigApplyHeld src) s = .next (irqSettle ((if h.2.type = 0x10 then packetRun h.1 h.2 else sigApply h.1 h.2)
        (rxMod src (fun x => { x with heldSig := [] }) s)))))

/-- Memory requests of another hub (R27, R38, R226, R245, R250, R252, R379) and what their answers end: a duplicate has no effect; a refused
request is answered with its status, one of an ARMED or SUSPENDED slab waits, and so does one whose channel blocks do not serve; a read
within a codeblock is answered with RD_DATA and its bytes, a write within one is committed and answered CMPL, and an atomic is answered
with the old bytes; what is written stands as written but in lines that a cache holds, whose content is then free (R379). An answer
retires its transaction, and one that comes from another node, or for no transaction, ends nothing. JOIN adds a member and sends it the
directory (R521, R524); a control message of a stranger is dropped, and before Release every one is (R596). -/
def Obligations.RemoteRequestsRun : Prop :=
  (∀ (s u : State) (lp : Fin 16) (p p' : Packet) (i : Instr), Serving s →
      (p', i) ∈ [({ p with type := 0x01, hasSig := false }, Instr.rd lp p), ({ p with type := 0x02, hasSig := false }, .atomic lp p),
        ({ p with type := 0x10 }, .wr lp p)] →
    (rxAccept lp.val p' s = (.duplicate, u) → exec i s = .next (irqSettle u))
    ∧ (rxAccept lp.val p' s = (.fresh, u) → packetCheck u p' = .waits →
      exec i s = .next (irqSettle { u with lnk := { u.lnk with slabWait := u.lnk.slabWait ++ [(lp.val, p')] } }))
    ∧ (∀ st, rxAccept lp.val p' s = (.fresh, u) → packetCheck u p' = .refused st → st ≠ .denied →
      exec i s = .next (irqSettle (memReply p' st [] u)))
    ∧ (rxAccept lp.val p' s = (.fresh, u) → packetCheck u p' = .refused .denied →
      exec i s = .next (irqSettle (memReply p' .denied [] (lnkDenied lp.val p' u))))
    ∧ (∀ t k w, rxAccept lp.val p' s = (.fresh, u) → packetCheck u p' = .table t → blocksTake (packetBlocks u p') u = (some k, w) →
      exec i s = .next (irqSettle { w with lnk := { w.lnk with slabWait := w.lnk.slabWait ++ [(lp.val, p')] } }))
    ∧ (∀ t w, rxAccept lp.val p' s = (.fresh, u) → packetCheck u p' = .table t → blocksTake (packetBlocks u p') u = (none, w) →
      exec i s = .next (irqSettle (packetGo lp.val p' t w))))
  ∧ (∀ (s : State) (lp : Nat) (p : Packet) (t : Nat) (l : Loc), p.type = 0x01 → p.fwd = false → 0 < p.len → p.addr % 1024 + p.len ≤ 1024 →
      l = settleLoc s 4 (locate s p.addr) → remoteOf s l = none → (∀ r ∈ s.lnk.relays, r.id ≠ s.lnk.nextRelay) → PairOpen s p.src →
    ∃ v q, packetGo lp p t s = v ∧ Out.packet p.src q ∈ v.out ∧ q.type = 0x11 ∧ q.tag = p.tag
      ∧ q.status = (partRead s (tableKey s t) l p.len).1 ∧ (q.status = .ok → q.payload = (partRead s (tableKey s t) l p.len).2)
      ∧ SameBut [.lnk, .sends, .out] s v)
  ∧ (∀ (s : State) (lp : Nat) (p : Packet) (t : Nat) (l : Loc), p.type = 0x10 → p.fwd = false → p.hasSig = false → p.payload ≠ [] →
      p.addr % 1024 + p.payload.length ≤ 1024 → l = settleLoc s 4 (locate s p.addr) → remoteOf s l = none →
      stackWorks s l.stack = true → (∀ r ∈ s.lnk.relays, r.id ≠ s.lnk.nextRelay) → PairOpen s p.src →
    ∃ v q, packetGo lp p t s = v ∧ v.mem = (partLoosen (tableKey s t) p 0 p.payload.length (writeCb l.stack (tableKey s t) l.local_ p.payload s)).mem
      ∧ Out.packet p.src q ∈ v.out ∧ q.type = 0x20 ∧ q.tag = p.tag ∧ q.status = .ok)
  ∧ (∀ (s : State) (lp : Nat) (p : Packet) (t : Nat) (l : Loc), p.type = 0x02 → p.fwd = false → l = settleLoc s 4 (locate s p.addr) →
      remoteOf s l = none → (∀ r ∈ s.lnk.relays, r.id ≠ s.lnk.nextRelay) → PairOpen s p.src →
    ∃ v q, packetGo lp p t s = v ∧ Out.packet p.src q ∈ v.out ∧ q.type = 0x11 ∧ q.tag = p.tag
      ∧ (atomBad p.atom p.payload.length = true → q.status = .range)
      ∧ (atomBad p.atom p.payload.length = false → ∀ r, r = locRead s (tableKey s t) l (atomSpan p.atom p.payload.length) →
          q.status = r.1 ∧ (r.1 = .ok → q.payload = r.2
            ∧ v.mem = (partLoosen (tableKey s t) p 0 (atomSpan p.atom p.payload.length)
                (locWrite (tableKey s t) l (atomApply p.atom r.2 p.payload) s)).mem)))
  ∧ (∀ (s : State) (key : Nat) (p : Packet) (off len : Nat), heldLines s (p.addr + off) len = [] → partLoosen key p off len s = s)
  ∧ (∀ (s u : State) (p p' : Packet) (i : Instr) (tx : Txn), Serving s →
      (p', i) ∈ [({ p with type := 0x11, hasSig := false }, Instr.rdData p),
        ({ p with type := 0x20, hasSig := false, payload := [] }, .cmpl p)] → rxAccept 0 p' s = (.fresh, u) →
    (txnOf u p.tag = none → exec i s = .next (irqSettle u))
    ∧ (txnOf u p.tag = some tx → tx.dst ≠ p.src → exec i s = .next (irqSettle u))
    ∧ (txnOf u p.tag = some tx → tx.dst = p.src → exec i s = .next (irqSettle (txnAnswered tx p'.status p'.payload u)))
    ∧ (txnOf u p.tag = some tx → tx.dst = p.src → tx.what = .other →
      ∃ v, exec i s = .next (irqSettle v) ∧ (∀ y ∈ v.lnk.txns, y.tag ≠ p.tag) ∧ SameBut [.sends] u v))
  ∧ (∀ (s v : State) (src : CtrlFrom) (g tenant t : Nat) (tb : Table), Arrives s src v → coreAnswers v = true →
      slotOfGlobal v g = some t → tableAt v t = some tb → tb.lead = v.sys.nodeId → tb.tenant = tenant → tb.destroying = false →
      src.node ∉ membersOf tb → (membersOf tb).length < 4096 →
    ∃ u tb', exec (.join src g tenant) s = .next (irqSettle u) ∧ tableAt u t = some tb' ∧ tb'.members = tb.members ++ [src.node]
      ∧ Out.ctrl src.node 0x80A g 0 .ok tb.dir.length ∈ u.out
      ∧ (∀ x ∈ tb.dir, Out.seatEntry src.node g x.1 x.2 ∈ u.out) ∧ SameBut (([.tables] : List Part) ++ tells) v u)
  ∧ (∀ (s v : State) (lp : Fin 16) (src : CtrlFrom) (g code seat d t : Nat) (st : Status) (tb : Table), Arrives s src v → code ≠ 0x80A →
      slotOfGlobal v g = some t → tableAt v t = some tb →
    (src.node ∉ membersOf tb → exec (.ctrl lp src g code seat st d) s = .next (irqSettle (lnkDrop v)))
    ∧ (src.node ∈ membersOf tb →
        exec (.ctrl lp src g code seat st d) s = .next (irqSettle (ctrlAnswer src.node g code seat st d (irqRaise 11 v)))))
  ∧ (∀ (s : State) (lp : Fin 16) (src : CtrlFrom) (g code seat d : Nat) (st : Status), linksOn s = true → s.sys.phase ≠ .released →
    exec (.ctrl lp src g code seat st d) s = .next (irqSettle (lnkDrop s)))

-- coherence -------------------------------------------------------------------------------------------------------------

/-- Requests at the home of a line (R27, R38, R389, R391 to R395, R410): a request whose slice has its draw, whose channel block serves, and
whose line is free, opens its transaction; without the slice's draw it waits and the draw is asked for, and while the block does not serve it
waits. A RD_SHARED of a line that no agent holds is granted E; a request to own invalidates every other holder. A writeback is written and
acknowledged, and a dropped copy leaves its entry. -/
def Obligations.HomeRequests : Prop :=
  (∀ (s : State) (m : CohMsg) (type : Nat) (i : Instr), Serving s → CohQuiet s → m.link = none → cohHome s m.line = true →
      (lineTable s m.line).isSome = true → cohTxn s m.line = none →
      (type, i) ∈ [(0x30, Instr.rdShared m), (0x31, .rdOwn m), (0x32, .upgrade m), (0x33, .rdNa m), (0x36, .wrNa m), (0x37, .atomH m)] →
    (anteHas s 7 (lineSlice m.line) = true → sliceOpen s (lineSlice m.line) < 1024 →
        (needsWay s type m = true → (setEntries s m.line).length < 16) → (∀ k, lineStack s m.line = some k → blockReady s k = true) →
      exec i s = .next (irqSettle (cohStart m.line type m (cohMod (fun c => { c with cntReq := sat64 (c.cntReq + 1) }) s))))
    ∧ (anteHas s 7 (lineSlice m.line) = false →
      ∃ u, exec i s = .next (irqSettle u) ∧ u.coh.retry = [(type, m)] ∧ anteWaits u 7 (lineSlice m.line) = true ∧ SameBut [.coh, .ante] s u)
    ∧ (∀ k, anteHas s 7 (lineSlice m.line) = true → (needsWay s type m = true → (setEntries s m.line).length < 16) →
        lineStack s m.line = some k → blockReady s k = false →
      ∃ u, exec i s = .next (irqSettle u) ∧ u.coh.retry = [(type, m)] ∧ SameBut [.coh, .ante, .store] s u))
  ∧ (∀ (s : State) (m : CohMsg), Serving s → CohQuiet s → m.link = none → cohHome s m.line = true → m.agent < 120 →
      (lineTable s m.line).isSome = true → cohTxn s m.line = none → mapGet s.coh.dir m.line = none →
      anteHas s 7 (lineSlice m.line) = true → sliceOpen s (lineSlice m.line) < 1024 → (setEntries s m.line).length < 16 →
      (∀ k, lineStack s m.line = some k → blockReady s k = true) → (lineRead s m.line).1 = .ok →
    ∃ u n, exec (.rdShared m) s = .next (irqSettle u) ∧ (dirAt u m.line).state = .e ∧ (dirAt u m.line).owner = m.agent
      ∧ (dirAt u m.line).presence = [m.agent] ∧ (dirAt u m.line).busy = true ∧ u.out = s.out ++ [.coh m.agent 0x3D n]
      ∧ n.state = .e ∧ n.status = .ok ∧ n.data = (lineRead s m.line).2 ∧ SameBut [.coh, .out] s u)
  ∧ (∀ (a : Nat) (e : DirEntry) (type : Nat), type = 0x31 ∨ type = 0x32 → a < 124 →
      (cohPlan type a e).state = .e ∧ (cohPlan type a e).presence = [a]
      ∧ ∀ b, (b, 0x39) ∈ (cohPlan type a e).snoops ↔ (b ∈ e.presence ∧ b ≠ a))
  ∧ (∀ (s : State) (m : CohMsg), Serving s → CohQuiet s → m.link = none → cohHome s m.line = true → m.agent < 120 →
      cohTxn s m.line = none → (s.coh.dir.map (fun x => x.1)).Pairwise (· < ·) →
    (∃ u n, exec (.wb m) s = .next (irqSettle u) ∧ u.mem = (lineWrite m.line 0 m.data s).mem ∧ m.agent ∉ (dirAt u m.line).presence
      ∧ Out.coh m.agent 0x3F n ∈ u.out ∧ n.status = .ok ∧ n.line = m.line)
    ∧ ∃ u, exec (.evictClean m) s = .next (irqSettle u) ∧ m.agent ∉ (dirAt u m.line).presence ∧ SameBut [.coh] s u)

/-- Snoops, data and ends of transactions (R391, R392, R396, R397, R402, R403, R408, R410, R504): a proxy hub answers a snoop at once when
no cluster here holds the line, and else snoops each holder; an answer is taken from an agent that is waited for; a dirty answer to a
request to own grants M; an ACK closes the transaction; a grant at a requester's hub installs the state and is acknowledged; an agent
silent for 100 microseconds is captured in COH_TIMEOUT and its cluster FAILED; an idle slice returns its draw; the hub caches no host
memory. -/
def Obligations.SnoopsAndGrants : Prop :=
  (∀ (s : State) (m : CohMsg) (type : Nat) (i : Instr), Serving s → CohQuiet s →
      (type, i) ∈ [(0x38, Instr.snpData m), (0x39, .snpInv m), (0x3A, .snpCur m)] →
    (m.link = none → exec i s = .next (irqSettle s))
    ∧ ∀ (k : CohLink) (u : State), m.link = some k → cohHome s m.line = false → cohTxn u m.line = none →
        rxAccept k.lp.val { src := k.node, tenant := k.tenant, type := type, eseq := k.eseq, addr := m.line * 256 } s = (.fresh, u) →
      ((dirAt u m.line).presence = [] → PairOpen u k.node →
        ∃ v q, exec i s = .next (irqSettle v) ∧ Out.packet k.node q ∈ v.out ∧ q.type = 0x3B ∧ q.addr = m.line * 256)
      ∧ (type = 0x39 → (dirAt u m.line).presence ≠ [] → (∀ a ∈ (dirAt u m.line).presence, a < 120) →
        ∃ v x, exec i s = .next (irqSettle v) ∧ (∀ a ∈ (dirAt u m.line).presence, ∃ n, Out.coh a 0x39 n ∈ v.out)
          ∧ mapGet v.coh.txns (snoopKey m.line) = some x ∧ x.waiting = (dirAt u m.line).presence))
  ∧ (∀ (s : State) (m : CohMsg) (x : LineTxn) (a : Nat), Serving s → CohQuiet s → m.link = none → cohHome s m.line = true →
      cohTxn s m.line = some x → a ∈ x.waiting →
    (x.waiting.erase a ≠ [] →
      ∃ u y, exec (.snpRsp a m) s = .next (irqSettle u) ∧ cohTxn u m.line = some y ∧ y.waiting = x.waiting.erase a ∧ SameBut [.coh] s u)
    ∧ (x.waiting = [a] → x.type = 0x31 → x.snooped = a → x.wbSeen = false → x.dataDue = false → x.needAck = false → x.got = none →
        a < 120 → x.m.agent < 120 → m.dirty = true → m.wbp = false →
      ∃ u y, exec (.snpRsp a m) s = .next (irqSettle u) ∧ (dirAt u m.line).state = .m ∧ (dirAt u m.line).owner = x.newOwner
        ∧ (dirAt u m.line).busy = true ∧ cohTxn u m.line = some y ∧ y.needAck = true ∧ SameBut [.coh] s u))
  ∧ (∀ (s : State) (m : CohMsg) (x : LineTxn), Serving s → CohQuiet s → m.link = none → cohHome s m.line = true →
      cohTxn s m.line = some x → x.needAck = true → x.m.agent = m.agent → (dirAt s m.line).presence ≠ [] → (dirAt s m.line).state ≠ .i →
      (s.coh.txns.map (fun y => y.1)).Pairwise (· < ·) →
    ∃ u, exec (.ack m) s = .next (irqSettle u) ∧ cohTxn u m.line = none ∧ dirAt u m.line = { dirAt s m.line with busy := false }
      ∧ SameBut [.coh] s u)
  ∧ (∀ (s : State) (m : CohMsg), Serving s → m.link = none → cohHome s m.line = false →
    (m.line ∈ s.coh.wbBuffers → exec (.wbAck m) s
      = .next (irqSettle (cohMod (fun c => { c with wbBuffers := c.wbBuffers.erase m.line }) s)))
    ∧ (m.line ∉ s.coh.wbBuffers → exec (.wbAck m) s = .next (irqSettle (emit (.coh m.agent 0x3F m) s))))
  ∧ (∀ (s : State) (m : CohMsg), Serving s → CohQuiet s → m.link = none → cohHome s m.line = true →
    exec (.grant m) s = .next (irqSettle s)
    ∧ (cohTxn s m.line = none → exec (.data m) s = .next (irqSettle s))
    ∧ (∀ x, cohTxn s m.line = some x → x.waiting ≠ [] → x.wbSeen = false → x.needAck = false → wantsData x = true → m.dirty = true →
      ∃ u y, exec (.data m) s = .next (irqSettle u) ∧ cohTxn u m.line = some y ∧ y.got = some m.data ∧ y.gotDirty = true
        ∧ y.dataDue = false ∧ y.waiting = x.waiting))
  ∧ (∀ (s u : State) (m : CohMsg) (k : CohLink) (x : LineTxn), Serving s → CohQuiet s → m.link = some k → cohHome s m.line = false →
      rxAccept k.lp.val { src := k.node, tenant := k.tenant, type := 0x3D, eseq := k.eseq, addr := m.line * 256 } s = (.fresh, u) →
      cohTxn u m.line = some x → 0x30 ≤ x.type → x.m.txid = m.txid → m.status = .ok → m.noCache = false → m.state ≠ .i →
      PairOpen u (m.line / 2 ^ 40) →
    ∃ v n q, exec (.grant m) s = .next (irqSettle v) ∧ Out.coh x.m.agent 0x3D n ∈ v.out ∧ n.state = m.state
      ∧ Out.packet (m.line / 2 ^ 40) q ∈ v.out ∧ q.type = 0x3E ∧ x.m.agent ∈ (dirAt v m.line).presence ∧ (dirAt v m.line).busy = false)
  ∧ (∀ (s : State) (l a : Nat) (x : LineTxn), Serving s → cohTxn s l = some x → a ∈ x.waiting → a < 120 →
    (now s < x.opened + 100000 → exec (.snoopTimeout l a) s = .next (irqSettle s))
    ∧ (x.opened + 100000 ≤ now s → s.coh.toValid = false →
      ∃ u, exec (.snoopTimeout l a) s = .next (irqSettle u) ∧ u.coh.toValid = true ∧ u.coh.toAgent = a ∧ u.coh.toLine = l
        ∧ (bindAt u a).state = .failed))
  ∧ (∀ (s : State) (k : Fin 8), Serving s → anteHas s 7 k.val = true → sliceOpen s k.val = 0 →
    (mapGetD s.coh.sliceIdle k.val 0 + 256 ≤ now s → exec (.sliceAnteIdle k) s = .next (irqSettle (anteDrop 7 k.val s)))
    ∧ (now s < mapGetD s.coh.sliceIdle k.val 0 + 256 → exec (.sliceAnteIdle k) s = .next (irqSettle s)))
  ∧ (∀ (s : State) (p : Fin 2) (addr : Nat), (portOf s p.val).state = .up → (portOf s p.val).cxl = true → hostOn s = true →
      addr < 2 ^ 57 →
    exec (.hostSnoop p addr) s = .next (emit (.hostSnoop p.val "RspIHitI") s))

-- objects ---------------------------------------------------------------------------------------------------------------

/-- Creation (R10, R332, R419, R420, R424, R428, R433, R450, R480, R527, R611): a request in order takes the index slot that takeSlot picks
(which of the free ones is the model's choice, notes/assumptions/128) with its next generation, answers the handle, and makes the object; a
context with no free slot is answered NO_RESOURCE, and one whose save area is not aligned, or a counter whose value is at the limit, RANGE. -/
def Obligations.ObjectsAreMade : Prop :=
  ∀ (s s1 : State) (c : Caller) (t i : Nat), Takes s c.mbx .t → OnTable s c t →
    (∀ (obj : Handle) (off : Nat) (o : MemObj), regionStatus s t obj off (2 ^ 20) = .ok → memOf s obj = some o → o.kind = .device →
      (off % 65536 ≠ 0 → ∃ u, exec (.ctxCreate c obj off) s = .next u ∧ Answered u c.mbx .range 0 [] ∧ SameBut (.mbx :: tells) s u)
      ∧ (off % 65536 = 0 → takeSlot s 1 ((tenantOf s t).getD 0) t = some (i, s1) →
        ∃ u, exec (.ctxCreate c obj off) s = .next u ∧ Answered u c.mbx .ok (mkHandle 1 (nextGen (slotOf s 1 i).gen) i) []
          ∧ mapGet u.obj.ctxs i = some { table := t, saveObj := obj, saveOff := off, state := .active, wasParked := false, saved := [],
                                         created := now s }
          ∧ SameBut (([.mbx, .objects] : List Part) ++ tells) s u)
      ∧ (off % 65536 = 0 → takeSlot s 1 ((tenantOf s t).getD 0) t = none →
        ∃ u, exec (.ctxCreate c obj off) s = .next u ∧ Answered u c.mbx .noResource 0 [] ∧ SameBut (.mbx :: tells) s u))
    ∧ (∀ b : QueueBody, ctxStatus s t b.context = .ok → ringStatus s t b.ringObject b.ringOffset (b.size * 128) = .ok →
        ringStatus s t b.cplObject b.cplOffset (b.size * 16) = .ok → eventStatus s t b.event = .ok → dbStatus s t b.dbPage b.dbSlot = .ok →
        ringSize b.size = true → (s.obj.queues.filter (fun x => x.2.ctx = b.context)).length < 1024 →
        takeSlot s 2 ((tenantOf s t).getD 0) t = some (i, s1) →
      ∃ u q, exec (.queueCreate c b) s = .next u ∧ Answered u c.mbx .ok (mkHandle 2 (nextGen (slotOf s 2 i).gen) i) []
        ∧ mapGet u.obj.queues i = some q ∧ q.ctx = b.context ∧ q.table = t ∧ q.size = b.size
        ∧ q.state = (if objReachable s t b.ringObject && objReachable s t b.cplObject then .active else .paused) ∧ q.fetchPos = 0
        ∧ q.tail = 0 ∧ q.entries = []
        ∧ mapGet u.obj.dbSlots (b.dbPage * 128 + b.dbSlot) = some (mkHandle 2 (nextGen (slotOf s 2 i).gen) i)
        ∧ SameBut (([.mbx, .objects] : List Part) ++ tells) s u)
    ∧ (∀ base len, base % 4096 = 0 → len % 4096 = 0 → 0 < len → len ≤ 2 ^ 40 → base + len ≤ 2 ^ 64 →
        takeSlot s 3 ((tenantOf s t).getD 0) t = some (i, s1) →
      ∃ u, exec (.memCreate c 2 [(base, len)]) s = .next u ∧ Answered u c.mbx .ok (mkHandle 3 (nextGen (slotOf s 3 i).gen) i) []
        ∧ mapGet u.obj.mems i = some { table := t, kind := .host, extents := [(base, len)], state := .live, hb := none, created := now s }
        ∧ SameBut (([.mbx, .objects] : List Part) ++ tells) s u)
    ∧ (∀ es, es ≠ [] → es.length ≤ 64 → deviceStatus s t es = .ok → takeSlot s 3 ((tenantOf s t).getD 0) t = some (i, s1) →
      ∃ u, exec (.memCreate c 1 es) s = .next u ∧ Answered u c.mbx .ok (mkHandle 3 (nextGen (slotOf s 3 i).gen) i) []
        ∧ mapGet u.obj.mems i = some { table := t, kind := .device, extents := es, state := .live, hb := none, created := now s }
        ∧ SameBut (([.mbx, .objects] : List Part) ++ tells) s u)
    ∧ (∀ b : EventBody, ringStatus s t b.ringObject b.ringOffset (b.size * 32) = .ok → dbStatus s t b.dbPage b.dbSlot = .ok →
        ringSize b.size = true → b.vector ≤ 2047 ∨ b.vector = 0xFFFF → b.moderation ≤ 65535 →
        takeSlot s 4 ((tenantOf s t).getD 0) t = some (i, s1) →
      ∃ u e, exec (.eventCreate c b) s = .next (irqSettle u) ∧ Answered u c.mbx .ok (mkHandle 4 (nextGen (slotOf s 4 i).gen) i) []
        ∧ mapGet u.obj.events i = some e ∧ e.table = t ∧ e.prod = 0 ∧ e.cons = 0 ∧ e.vector = b.vector ∧ e.size = b.size
        ∧ mapGet u.obj.dbSlots (b.dbPage * 128 + b.dbSlot) = some (mkHandle 4 (nextGen (slotOf s 4 i).gen) i)
        ∧ SameBut (([.mbx, .objects] : List Part) ++ tells) s u)
    ∧ (∀ (x : Handle) (v : Nat), ctxStatus s t x = .ok →
      (v ≥ 2 ^ 64 - 1 → ∃ u, exec (.counterCreate c x v) s = .next u ∧ Answered u c.mbx .range 0 [] ∧ SameBut (.mbx :: tells) s u)
      ∧ (v < 2 ^ 64 - 1 → takeSlot s 6 ((tenantOf s t).getD 0) t = some (i, s1) →
        ∃ u, exec (.counterCreate c x v) s = .next u ∧ Answered u c.mbx .ok (mkHandle 6 (nextGen (slotOf s 6 i).gen) i) []
          ∧ counterOf u i = { state := .live, value := v, table := t, ctx := x, mirror := none }
          ∧ SameBut (([.mbx, .objects, .tck] : List Part) ++ tells) s u))
    ∧ (∀ (x : Handle) (kind : Nat) (k : ChanKind), ctxStatus s t x = .ok →
        (kind, k) ∈ [(1, ChanKind.hostIn), (2, .hostOut), (3, .peer), (4, .device)] →
        takeSlot s 7 ((tenantOf s t).getD 0) t = some (i, s1) →
      ∃ u, exec (.channelCreate c x kind 0) s = .next u ∧ Answered u c.mbx .ok (mkHandle 7 (nextGen (slotOf s 7 i).gen) i) []
        ∧ mapGet u.obj.channels i = some { ctx := x, table := t, kind := k, port := .hp0, engine := engineFor s k, jobs := [],
                                           destroying := false, created := now s }
        ∧ engineFor s k ∈ enginePool k ∧ SameBut (([.mbx, .objects] : List Part) ++ tells) s u)

/-- Tables, pages, windows, mirrors and information (R71, R356, R359, R414, R446, R456, R524, R530, R611): TABLE_CREATE at the lead hub
fills a slot with a key, and elsewhere asks the lead hub; a doorbell page goes to one table and is released when nothing is bound;
CMD_ABORT answers by where the command stands (one that ended without success answers GONE whatever sequence was given, which is read by
inference from R16 and R446, notes/assumptions/127); DESTROY of what has commands waits
for DESTROY_COMPLETE, which does nothing while something is left to wait for or the core does not answer, and frees an event's slot and
answers. -/
def Obligations.ObjectsAreUsedAndEnd : Prop :=
  (∀ (s s1 : State) (c : Caller) (g tenant ks lead i : Nat), Takes s c.mbx .o → ks ≤ 1 → lead < 4096 →
      s.bnd.asked.any (fun a => a.code = 0x80A && a.globalId = g) = false →
    (globalOk g = false ∨ (slotOfGlobal s g).isSome = true →
      ∃ u, exec (.tableCreate c g tenant ks lead) s = .next u ∧ Answered u c.mbx .range 0 [] ∧ SameBut (.mbx :: tells) s u)
    ∧ (globalOk g = true → slotOfGlobal s g = none → tableFill g tenant ks lead s = some (i, s1) →
      (lead = s.sys.nodeId →
        ∃ u tb, exec (.tableCreate c g tenant ks lead) s = .next u ∧ Answered u c.mbx .ok (mkHandle 5 (nextGen (slotOf s 5 i).gen) i) []
          ∧ tableAt u i = some tb ∧ tb.globalId = g ∧ tb.tenant = tenant ∧ tb.lead = lead ∧ some tb.keySlot = keyFree s
          ∧ SameBut (([.mbx, .tables, .objects, .memory] : List Part) ++ tells) s u)
      ∧ (lead ≠ s.sys.nodeId →
        ∃ u, exec (.tableCreate c g tenant ks lead) s = .next u ∧ Unanswered u c.mbx ∧ Out.ctrl lead 0x80A g 0 .ok tenant ∈ u.out
          ∧ SameBut (([.mbx, .bnd] : List Part) ++ tells) s u)))
  ∧ (∀ (s : State) (c : Caller) (t page : Nat), Takes s c.mbx .o → OnTable s c t → page ≤ 4095 →
    (mapGet s.obj.pages page = none → ∃ u, exec (.dbPage c page) s = .next u ∧ Answered u c.mbx .ok 0 [] ∧ mapGet u.obj.pages page = some t
      ∧ SameBut (([.mbx, .objects] : List Part) ++ tells) s u)
    ∧ (∀ x, mapGet s.obj.pages page = some x → x ≠ t →
      ∃ u, exec (.dbPage c page) s = .next u ∧ Answered u c.mbx .busy 0 [] ∧ SameBut (.mbx :: tells) s u)
    ∧ (mapGet s.obj.pages page = some t → pageBound s page = true →
      ∃ u, exec (.dbPageRelease c page) s = .next u ∧ Answered u c.mbx .busy 0 [] ∧ SameBut (.mbx :: tells) s u)
    ∧ (mapGet s.obj.pages page = some t → pageBound s page = false → (s.obj.pages.map (fun x => x.1)).Pairwise (· < ·) →
      ∃ u, exec (.dbPageRelease c page) s = .next u ∧ Answered u c.mbx .ok 0 [] ∧ mapGet u.obj.pages page = none
        ∧ SameBut (([.mbx, .objects] : List Part) ++ tells) s u))
  ∧ (∀ (s : State) (c : Caller) (t : Nat), Takes s c.mbx .t → OnTable s c t →
    (∀ (page w : Nat) (h : Handle), page ≤ 4095 → w ≤ 127 → mapGet s.obj.pages page = some t → h ≠ 0 → ownedStatus s t 6 h = .ok →
        mapGet s.tck.windows (page * 128 + w) = none →
      ∃ u, exec (.dbCounter c page w h) s = .next u ∧ Answered u c.mbx .ok 0 [] ∧ mapGet u.tck.windows (page * 128 + w) = some (hIdx h)
        ∧ SameBut (([.mbx, .tck] : List Part) ++ tells) s u)
    ∧ (∀ (b : MirrorBody) (k : Nat), ownedStatus s t 6 b.counter = .ok → ownedStatus s t 4 b.event = .ok → b.hostAddr % 8 = 0 →
        (counterOf s (hIdx b.counter)).state = .live → (counterOf s (hIdx b.counter)).mirror = none → mapFree s.tck.mirrors 4096 = some k →
        (counterOf s (hIdx b.counter)).value < b.threshold →
      ∃ u m, exec (.mirrorSet c b) s = .next u ∧ Answered u c.mbx .ok 0 [] ∧ mapGet u.tck.mirrors k = some m ∧ m.counter = hIdx b.counter
        ∧ m.addr = b.hostAddr ∧ m.threshold = b.threshold ∧ m.armed = true ∧ (counterOf u (hIdx b.counter)).mirror = some k
        ∧ SameBut (([.mbx, .tck] : List Part) ++ tells) s u)
    ∧ (∀ (h : Handle) (k : Nat), ownedStatus s t 6 h = .ok → (counterOf s (hIdx h)).mirror = some k →
        (s.tck.mirrors.map (fun x => x.1)).Pairwise (· < ·) →
      ∃ u, exec (.mirrorDetach c h) s = .next u ∧ Answered u c.mbx .ok 0 [] ∧ mapGet u.tck.mirrors k = none
        ∧ (counterOf u (hIdx h)).mirror = none ∧ SameBut (([.mbx, .tck] : List Part) ++ tells) s u)
    ∧ (∀ (ev : Handle) (kinds : Nat) (tb : Table), eventStatus s t ev = .ok → kinds < 4 → tableAt s t = some tb →
      ∃ u, exec (.tableEventSet c ev kinds) s = .next u ∧ Answered u c.mbx .ok 0 []
        ∧ tableAt u t = some { tb with migEvent := if kinds % 2 = 1 then ev else tb.migEvent,
                                       memEvent := if 2 ≤ kinds then ev else tb.memEvent }
        ∧ SameBut (([.mbx, .tables] : List Part) ++ tells) s u)
    ∧ (∀ (h : Handle) (q : Queue) (e : QEntry) (pos : Nat), ownedStatus s t 2 h = .ok → queueOf s h = some q → q.entries = [e] →
        e.pos = pos → pos < posMod → posMod / 2 ≤ posDist pos q.tail →
      (∀ st, e.state = .decided true st →
        ∃ u, exec (.cmdAbort c h pos (pos % 256)) s = .next u ∧ Answered u c.mbx .alreadyComplete 0 [] ∧ SameBut (.mbx :: tells) s u)
      ∧ (∀ st seq, e.state = .decided false st →
        ∃ u, exec (.cmdAbort c h pos seq) s = .next u ∧ Answered u c.mbx .gone 0 [] ∧ SameBut (.mbx :: tells) s u)
      ∧ (∀ seq, (∀ st, e.state ≠ .decided false st) → seq ≠ pos % 256 →
        ∃ u, exec (.cmdAbort c h pos seq) s = .next u ∧ Answered u c.mbx .range 0 [] ∧ SameBut (.mbx :: tells) s u)
      ∧ (e.state = .fetched → e.events = [] →
        exec (.cmdAbort c h pos (pos % 256)) s
          = .next (irqSettle (answer c.mbx.val { st := .ok } (retireNow { queue := h, pos := pos } .aborted 0 (taken 0x508 c.mbx s)))))
      ∧ (e.state = .running →
        exec (.cmdAbort c h pos (pos % 256)) s
          = .next (irqSettle (endCommand { queue := h, pos := pos } (.abort (some c.mbx)) (taken 0x508 c.mbx s))))))
  ∧ (∀ (s : State) (c : Caller) (h : Handle), Takes s c.mbx .ot → anyHandle c s h = .ok →
    (∃ u, exec (.objInfo c h) s = .next u
      ∧ Answered u c.mbx .ok 0 (leBytes 1 (hKind h) ++ leBytes 1 (objFacts s h).1 ++ List.replicate 2 0 ++ leBytes 4 (objFacts s h).2.1
          ++ leBytes 8 (objFacts s h).2.2.1 ++ leBytes 8 (objFacts s h).2.2.2)
      ∧ SameBut (.mbx :: tells) s u)
    ∧ (hKind h = 5 → isOperator c.mbx = false →
      ∃ u, exec (.destroy c h) s = .next u ∧ Answered u c.mbx .denied 0 [] ∧ SameBut (.mbx :: tells) s u)
    ∧ (∀ (k : Nat) (f : State → State) (w : State), (k, f) ∈ [(1, ctxDestroy h), (2, queueDestroy h), (4, eventDestroy h),
          (5, tableDestroy (hIdx h)), (6, counterLose (hIdx h)), (7, channelDestroy h), (8, modelDestroy (hIdx h))] →
        hKind h = k → (k = 5 → isOperator c.mbx = true) → w = f (taken 0x506 c.mbx s) →
      exec (.destroy c h) s = .next (irqSettle { w with
        obj := { w.obj with dying := w.obj.dying ++ [{ h := h, mbx := c.mbx, accepted := now w }] } })))
  ∧ (∀ (s : State) (h : Handle) (m : Fin 64) (a : Tick), Serving s → s.obj.dying = [{ h := h, mbx := m, accepted := a }] →
    (destroyReady s h = false → exec (.destroyComplete h) s = .next (irqSettle s))
    ∧ (coreAnswers s = false → exec (.destroyComplete h) s = .next (irqSettle s))
    ∧ (∀ e, coreAnswers s = true → hKind h = 4 → mapGet s.obj.events (hIdx h) = some e → (s.obj.events.map (fun x => x.1)).Pairwise (· < ·) →
      ∃ u, exec (.destroyComplete h) s = .next (irqSettle u) ∧ Answered u m .ok 0 [] ∧ mapGet u.obj.events (hIdx h) = none
        ∧ u.obj.dying = []))

-- queues ----------------------------------------------------------------------------------------------------------------

/-- Doorbells, fetch and dispatch (R18, R437 to R441, R446, R453, R454, R457, R486): a doorbell moves the queue's tail, and a bad one stops
the queue with RANGE; a consumer write moves the event's consumer or is refused; either waits behind the host's posted writes that are still
under way; a matching descriptor is taken, and one that does not match is read again 256 ns later, up to 8 times; the head of the queue is
dispatched, or waits on its counter. A bound slot reads its queue's
fetch position with its phase, its handle, and the state, the error and the retire position (R421, HIF_DB_STAT); an event's slot reads the
producer position, and whether the event lives and whether a consumer position was refused (R453). -/
def Obligations.QueuesFetchAndDispatch : Prop :=
  (∀ (s : State) (p : Fin 2) (page : Fin 4096) (slot : Fin 128) (v : BitVec 32) (t : Nat) (h : Handle), barOpen s p.val = true →
      postedGuards s p.val = [] →
      mapGet s.obj.pages page.val = some t → mapGet s.obj.dbSlots (page.val * 128 + slot.val) = some h → bitsOf v.toNat 30 17 = 0 →
    (∀ q pos, hKind h = 2 → queueOf s h = some q → q.state ≠ .destroying → pos = bitsOf v.toNat 16 0 → ringHost s q = false →
        ringFar s q = none →
      (bitsOf v.toNat 31 31 = b2n (phaseAt ((pos + posMod - 1) % posMod) q.size) → posDist pos q.retire ≤ q.size →
        ∃ u, exec (.doorbellWrite p page slot v) s = .next (irqSettle u)
          ∧ queueOf u h = some { q with tail := pos, state := if q.state = .stopped then .active else q.state } ∧ SameBut [.objects] s u)
      ∧ (q.state = .active → q.size < posDist pos q.retire →
        ∃ u x, exec (.doorbellWrite p page slot v) s = .next u ∧ queueOf u h = some x ∧ x.state = .stopped ∧ x.err = Status.code .range
          ∧ x.tail = q.tail ∧ SameBut (.objects :: tells) s u))
    ∧ (∀ e pos, hKind h = 4 → eventOf s h = some e → pos = bitsOf v.toNat 16 0 →
      (posDist pos e.cons ≤ posDist e.prod e.cons →
        exec (.eventConsumerWrite p page slot v) s
          = .next (irqSettle (eventFlush h (eventMod h (fun e => { e with cons := pos, errRange := false }) s))))
      ∧ (posDist e.prod e.cons < posDist pos e.cons →
        ∃ u, exec (.eventConsumerWrite p page slot v) s = .next (irqSettle u) ∧ eventOf u h = some { e with errRange := true }
          ∧ SameBut [.events] s u)))
  ∧ (∀ (s : State) (p : Fin 2) (page : Fin 4096) (slot : Fin 128) (v : BitVec 32) (i : Instr), barOpen s p.val = true →
      i ∈ [Instr.doorbellWrite p page slot v, .eventConsumerWrite p page slot v] → postedGuards s p.val ≠ [] →
    ∃ u, exec i s = .next (irqSettle u) ∧ SameBut [.host] s u
      ∧ u.hif.pageHeld = s.hif.pageHeld ++ [{ port := p.val, w := .slot page.val slot.val v.toNat, guards := postedGuards s p.val }])
  ∧ (∀ (s : State) (page : Fin 4096) (slot : Fin 128) (t : Nat) (h : Handle) (q : Queue), mapGet s.obj.pages page.val = some t →
      mapGet s.obj.dbSlots (page.val * 128 + slot.val) = some h → hKind h = 2 → queueOf s h = some q →
      q.fetchPos < posMod → q.retire < posMod → q.err < 256 →
    wordShown (slotOffset page.val slot.val) s = q.fetchPos + (if phaseAt q.fetchPos q.size then 2 ^ 31 else 0)
    ∧ wordShown (slotOffset page.val slot.val + 8) s = h % 2 ^ 32
    ∧ wordShown (slotOffset page.val slot.val + 12) s = QueueState.code q.state * 2 ^ 28 + q.err * 2 ^ 20 + q.retire)
  ∧ (∀ (s : State) (page : Fin 4096) (slot : Fin 128) (t : Nat) (h : Handle) (e : Event), mapGet s.obj.pages page.val = some t →
      mapGet s.obj.dbSlots (page.val * 128 + slot.val) = some h → hKind h = 4 → eventOf s h = some e → e.prod < posMod →
    wordShown (slotOffset page.val slot.val) s = e.prod
    ∧ wordShown (slotOffset page.val slot.val + 12) s
        = (if e.destroying then 5 else 1) * 2 ^ 28 + (if e.errRange then Status.code .range * 2 ^ 20 else 0))
  ∧ (∀ (s : State) (p : Fin 2) (page : Fin 4096) (slot : Fin 128) (v : BitVec 32), barOpen s p.val = true →
      postedGuards s p.val = [] → mapGet s.obj.pages page.val = none ∨ mapGet s.obj.dbSlots (page.val * 128 + slot.val) = none →
    exec (.doorbellWrite p page slot v) s = .next (irqSettle (swErrSet 1 (slotOffset page.val slot.val) s)))
  ∧ (∀ (s : State) (h : Handle) (q : Queue) (r : FetchRead), queueOf s h = some q →
    (Serving s → queueNow s h = true → fetchDue q = false → exec (.descriptorFetch h r) s = .next (irqSettle s))
    ∧ (Serving s → queueNow s h = true → fetchDue q = true → ringHost s q = false ∨ (primaryOf s q.table).isSome = true →
      exec (.descriptorFetch h r) s = .next (irqSettle (fetchArrive h r (fetchAnswered h s))))
    ∧ (∀ b, fetchDue q = true → ringRead s q r = .bytes b → ringHost s q = false →
      (descMatches q (descOf b) = false →
        ∃ u, fetchArrive h r s = u
          ∧ queueOf u h = some { q with rereads := 0, rereadAt := some (now s + 256) } ∧ SameBut [.objects] s u)
      ∧ (descMatches q (descOf b) = true → descNames (descOf b) = false → fetchStatus s q (descOf b) = .ok → (descOf b).step = false →
          ringFar s { q with fetchPos := (q.fetchPos + 1) % posMod } = none →
        ∃ u x e, fetchArrive h r s = u ∧ queueOf u h = some x ∧ x.entries = q.entries ++ [e]
          ∧ e.d = descOf b ∧ e.pos = q.fetchPos ∧ e.state = .fetched ∧ x.fetchPos = (q.fetchPos + 1) % posMod
          ∧ SameBut [.objects] s u)))
  ∧ (∀ (s : State) (h : Handle) (q : Queue) (r : FetchRead), Serving s → queueOf s h = some q → queueNow s h = true → ringHost s q = false →
    (∀ (t : Tick) (b : List Byte), q.rereadAt = some t → t ≤ now s → q.state = .active → ringRead s q r = .bytes b →
      (descMatches q (descOf b) = true →
        exec (.descriptorReread h r) s
          = .next (irqSettle (fetchKick h (fetchAccept h (descOf b) (queueMod h (fun q => { q with rereadAt := none }) s)))))
      ∧ (descMatches q (descOf b) = false → q.rereads + 1 < 8 →
        ∃ u, exec (.descriptorReread h r) s = .next (irqSettle u)
          ∧ queueOf u h = some { q with rereads := q.rereads + 1, rereadAt := some (now s + 256) } ∧ SameBut [.objects] s u)
      ∧ (descMatches q (descOf b) = false → 8 ≤ q.rereads + 1 →
        exec (.descriptorReread h r) s = .next (irqSettle (fetchFail h .torn 0 s)))))
  ∧ (∀ (s : State) (h : Handle) (q : Queue) (e : QEntry), Serving s → queueOf s h = some q → queueNow s h = true → ringHost s q = false →
      ringFar s q = none → q.state = .active → q.entries = [e] → e.state = .fetched → e.events = [] → q.retryAt = none → dispatchHeld s q e = false →
    (e.d.waitCtr = 0 → (∀ st, e.d.body ≠ .badNme st) → (∀ c n, e.d.body ≠ .nme c n) →
      ∃ u, exec (.dispatch h) s = .next (irqSettle u) ∧ entryOf u { queue := h, pos := e.pos } = some { e with state := .dispatched }
        ∧ SameBut [.objects] s u)
    ∧ (e.d.waitCtr ≠ 0 → counterCheck s (some ((tenantOf s q.table).getD 0)) e.d.waitCtr = .ok →
        (counterOf s (hIdx e.d.waitCtr)).value < e.d.waitValue → e.d.waitValue ≤ (counterOf s (hIdx e.d.waitCtr)).value + 2 ^ 62 →
        ∀ w, waiterTake { counter := hIdx e.d.waitCtr, gen := hGen e.d.waitCtr, target := e.d.waitValue,
                          kind := .queue { queue := h, pos := e.pos }, ctx := q.ctx, table := q.table, registered := now s } s = some w →
      ∃ u, exec (.dispatch h) s = .next (irqSettle u) ∧ entryOf u { queue := h, pos := e.pos } = some { e with state := .waiting }
        ∧ u.tck = w.tck))
  ∧ (∀ (s : State) (h : Handle) (e : Event), Serving s → eventOf s h = some e → eventLive s h = true →
    (e.msgDue = true → exec (.msixModerationExpiry h) s = .next (irqSettle (eventMessage h s)))
    ∧ (e.msgDue = false → exec (.msixModerationExpiry h) s = .next (irqSettle s)))

/-- Commands (R341, R430 to R436, R442 to R447): a NOP presents its commit at once; COPY and FILL join their channel; a LAUNCH goes to its
cluster, and DONE presents its commit or its end, or answers the hub that sent it once what the cores wrote is in place; the event presented
first decides a command; a decided command that nothing holds any more retires, or its queue pauses when the ring cannot be reached. -/
def Obligations.CommandsRunAndRetire : Prop :=
  (∀ (s : State) (r : CmdRef) (q : Queue) (e : QEntry), Serving s → queueOf s r.queue = some q → entryOf s r = some e →
    (e.state = .dispatched →
      (e.d.body = .nop →
        ∃ u x, exec (.nop r) s = .next (irqSettle u) ∧ entryOf u r = some x ∧ x.state = .running ∧ x.d = e.d ∧ ArbEvent.commit ∈ x.events
          ∧ (e.events = [] → x.events = [.commit]) ∧ SameBut [.objects] s u)
      ∧ (∀ (b : CopyBody) (c : Channel) (fill : Bool) (i : Instr),
          (fill, i) ∈ [(false, Instr.copy r), (true, .fill r)] → e.d.body = (if fill = true then .fill b else .copy b) →
          checkOwned s ((tenantOf s q.table).getD 0) q.table 7 b.channel = .ok → copyBad b = false →
          chanOf s b.channel = some c → c.destroying = false →
        ∃ u j, exec i s = .next (irqSettle u) ∧ chanOf u b.channel = some { c with jobs := c.jobs ++ [j] } ∧ j.ref = r ∧ j.b = b
          ∧ j.isFill = fill ∧ j.doneBytes = 0 ∧ entryOf u r = some { e with state := .running } ∧ SameBut [.objects] s u)
      ∧ (∀ seat mask entry args i w, e.d.body = .launch seat mask entry args → (dirEntry s q.table seat).kind = .cluster →
          (dirEntry s q.table seat).epoch ≠ 0 → (dirEntry s q.table seat).state ≠ .free → entry % 4 = 0 → entry < 2 ^ 57 →
          (dirEntry s q.table seat).node = s.sys.nodeId →
          seatTake s ((tenantOf s q.table).getD 0) seat (dirEntry s q.table seat).epoch true = .takes i →
          w = entryMod r (fun e => { e with state := .running }) s →
        exec (.launch r) s = .next (irqSettle (launchHere i q.table (.launch mask entry args) (inStep w r) (some r) none w))
        ∧ ((bindAt s i).state = .bound →
            (if mask = 0 then 2 ^ 64 - 1 else mask) &&& coresOn s i = (if mask = 0 then 2 ^ 64 - 1 else mask) → (∀ x ∈ s.obj.launched, x.tag ≠ s.obj.nextLaunch) →
          Out.cfLaunch i q.table s.obj.nextLaunch mask entry args
            ∈ (launchHere i q.table (.launch mask entry args) (inStep w r) (some r) none w).out)))
    ∧ (e.isDecided = false →
      (e.events = [.commit] →
        ∃ u x, exec (.commandCommit r) s = .next (irqSettle u) ∧ entryOf u r = some x ∧ x.state = .decided true .ok ∧ x.events = []
          ∧ (e.d.sigOp ≠ 0 → ∃ k ∈ u.tck.held, k.cmd = some r ∧ k.counter = e.d.sigCtr)
          ∧ (∀ tb, tableAt s q.table = some tb → tableAt u q.table = some { tb with renegeTicks := 0, renegedOnce := false })
          ∧ SameBut [.objects, .tck, .tables] s u)
      ∧ (∀ st cause, e.events = [.fail st cause] →
        exec (.commandCommit r) s = .next (irqSettle (decideEnd r st cause (entryMod r (fun e => { e with events := [] }) s))))
      ∧ (∀ m, e.events = [.abort (some m)] →
        exec (.commandCommit r) s
          = .next (irqSettle (decideEnd r .aborted 0 (answer m.val { st := .ok } (entryMod r (fun e => { e with events := [] }) s))))))
    ∧ (recordReady s q r e = true →
      (objReachable s q.table q.cplObj = true →
        ∃ u, exec (.completionWrite r) s = .next u ∧ entryOf u r = none ∧ ∀ l ∈ u.obj.launched, l.ref ≠ some r)
      ∧ (objReachable s q.table q.cplObj = false → q.state = .active →
        ∃ u, exec (.completionWrite r) s = .next (irqSettle u) ∧ queueOf u r.queue = some { q with state := .paused }
          ∧ SameBut [.objects] s u))
    ∧ (recordReady s q r e = false → exec (.completionWrite r) s = .next (irqSettle s)))
  ∧ (∀ (s : State) (cl : Fin 120) (st : Status) (tag : Nat) (cores : BitVec 64) (l : Launched), Serving s →
      s.obj.launched.find? (fun l => l.tag = tag && l.cluster = cl.val && !l.waitCore) = some l →
    (∀ r q e, l.ref = some r → l.replyTo = none → queueOf s r.queue = some q → entryOf s r = some e → e.isDecided = false →
      ∃ u x, exec (.done cl st tag cores) s = .next (irqSettle u) ∧ entryOf u r = some x ∧ x.ran = some (cl.val, l.mask)
        ∧ (if st = .ok then ArbEvent.commit else .fail st 0) ∈ x.events
        ∧ (e.events = [] → x.events = [if st = .ok then .commit else .fail st 0])
        ∧ (∀ x ∈ u.obj.launched, x.tag ≠ tag) ∧ SameBut [.objects, .pwr] s u)
    ∧ (∀ src t g, l.ref = none → l.replyTo = some (src, t) → s.obj.doneWaits = [] → g = coresGuards s cl.val l.mask →
      (g.any (guardStands s) = false → PairOpen s src →
        ∃ u q, exec (.done cl st tag cores) s = .next (irqSettle u) ∧ Out.packet src q ∈ u.out ∧ q.type = 0x20 ∧ q.status = st ∧ q.tag = t
          ∧ (∀ x ∈ u.obj.launched, x.tag ≠ tag) ∧ SameBut [.objects, .pwr, .sends, .out] s u)
      ∧ (g.any (guardStands s) = true →
        ∃ u, exec (.done cl st tag cores) s = .next (irqSettle u) ∧ SameBut [.objects, .pwr] s u
          ∧ u.obj.doneWaits = [{ node := src, table := l.table, tag := t, st := st, guards := g }])))

-- the copy engines and the host endpoint --------------------------------------------------------------------------------

/-- The host's accesses and the copies (R124, R404, R433, R444, R464 to R472, R478, R481, R482, R487, R488): a request that a port takes is
presented to its window's table, and one that no valid entry takes, that may not write, or that crosses a page completes UR, the first two
captured; a CXL message is presented in the same way and, about a coherent page, is the matching request; other requests complete UR and
protocol errors are logged, both in AER; a copy engine asks for its draw, begins the burst of the channel in turn, and is free when the
burst's writes are answered. -/
def Obligations.HostAccessesAndCopies : Prop :=
  (∀ (s : State) (p : Fin 2) (off : BitVec 30) (write ep : Bool) (len tag : Nat) (data : List Byte) (e : WinEntry), Serving s →
      barOpen s p.val = true → e = mapGetD s.hif.win (off.toNat / 2 ^ 24) {} →
    (0 < len → off.toNat % 4096 + len ≤ 4096 →
      (e.valid = true → (write = true → e.write = true) → (write = true → ep = false) →
        exec (.bar2Request p off write len data ep tag) s
          = .next (irqSettle (winAccess p e.table (e.va + off.toNat % 2 ^ 24) write len data tag off.toNat false none s)))
      ∧ (e.valid = true → e.write = true → write = true → ep = true →
        exec (.bar2Request p off write len data ep tag) s
          = .next (irqSettle (aerLog p.val "POISONED_TLP_RECEIVED" (hifErr 6 p.val e.table off.toNat s))))
      ∧ (e.valid = false ∨ (write = true ∧ e.write = false) →
        exec (.bar2Request p off write len data ep tag) s = .next (irqSettle (urDone p.val write (hifErr 6 p.val e.table off.toNat s)))
        ∧ (s.hif.errValid = false → (hifErr 6 p.val e.table off.toNat s).hif.errValid = true
          ∧ (hifErr 6 p.val e.table off.toNat s).hif.errAddr = off.toNat)))
    ∧ (len = 0 ∨ off.toNat % 4096 + len > 4096 →
      exec (.bar2Request p off write len data ep tag) s = .next (irqSettle (urDone p.val write s))))
  ∧ (∀ (s : State) (p : Fin 2) (off : BitVec 30) (write : Bool) (data : List Byte) (tag : Nat), Serving s → barOpen s p.val = true →
      (portOf s p.val).cxl = true → off.toNat % 64 = 0 →
    ((mapGetD s.hif.hdm p.val {}).valid = true →
      exec (.hdmRequest p off write data tag) s = .next (irqSettle (winAccess p (mapGetD s.hif.hdm p.val {}).table
        ((mapGetD s.hif.hdm p.val {}).va + off.toNat) write 64 data tag off.toNat true none s)))
    ∧ ((mapGetD s.hif.hdm p.val {}).valid = false →
      ∃ u, exec (.hdmRequest p off write data tag) s = .next u ∧ Out.hdm p.val tag .fault [] ∈ u.out ∧ SameBut (.host :: tells) s u))
  ∧ (∀ (s : State) (p : Fin 2) (off tag : Nat) (m : HdmMsg) (w : Bool) (bs b : List Byte) (k : List Bool) (st : LineState) (e : WinEntry),
      Serving s → barOpen s p.val = true → (portOf s p.val).cxl = true → off % 64 = 0 → off < 2 ^ 30 → e = mapGetD s.hif.hdm p.val {} →
      e.valid = true →
      (m, w, bs) ∈ [(HdmMsg.memRdAny, false, []), (.memRdShared, false, []), (.memRdInvalid, false, []), (.memInvAny, false, []),
        (.memInvInvalid, false, []), (.biRsp st, false, []), (.memWr b, true, b.take 64), (.memWrPtl b k, true, b.take 64)] →
    exec (.hdmDbMessage p off m tag) s = .next (irqSettle (winAccess p e.table (e.va + off) w 64 bs tag off true (some m) s)))
  ∧ (∀ (s : State) (p : Fin 2) (t : TileRec) (m : HdmMsg) (tg : Target) (pa n type : Nat), t.src = .hostWindow p → t.hdm = some m →
      tg = .home ∨ tg = .remote n true →
    hdmRun t tg pa s = some (hdmGo p t.table (bitsOf t.d.tag 45 16) (t.d.tag % 2 ^ 16) pa m (tileDel t.src t.d.tag s))
    ∧ ((type, m) ∈ [(0x31, HdmMsg.memRdAny), (0x30, .memRdShared), (0x33, .memRdInvalid), (0x32, .memInvAny)] →
      ∀ k off tag, hdmGo p k off tag pa m s = hdmAsk p k off tag type pa [] [] s))
  ∧ (∀ (s : State) (p : Fin 2), portLinked s p.val = true →
    (∀ kind posted, kind ≠ .mseClear → kind ≠ .nonConfigD3 →
      ∃ u, exec (.unsupportedRequest p kind posted) s = .next (irqSettle u) ∧ Out.aer p.val "UNSUPPORTED_REQUEST" ∈ u.out
        ∧ (posted = false → Out.ur p.val ∈ u.out) ∧ "UNSUPPORTED_REQUEST" ∈ (portOf u p.val).aerSticky ∧ SameBut tells s u)
    ∧ (∀ kind posted, (kind = .mseClear ∧ (portOf s p.val).state = .up ∧ (portOf s p.val).mse = false)
        ∨ (kind = .nonConfigD3 ∧ (portOf s p.val).state = .d3hot) →
      exec (.unsupportedRequest p kind posted) s = .next (irqSettle (urDone p.val posted s)))
    ∧ (∀ kind, ∃ u, exec (.protocolError p kind) s = .next (irqSettle u) ∧ Out.aer p.val (protoName kind) ∈ u.out
        ∧ protoName kind ∈ (portOf u p.val).aerSticky ∧ SameBut tells s u))
  ∧ (∀ (s : State) (k : Fin 40) (i : Nat) (c : Channel) (rest : List (Nat × Channel)) (j : CopyJob), Serving s → (ceOf s k.val).busy = none →
      chansTurn s k.val = (i, c) :: rest → c.jobs.head? = some j → chanHost c = false ∨ (burstPort s c j).isSome = true →
    (anteHas s 5 k.val = false →
      exec (.copyBurst k) s = .next (irqSettle (anteRequest 5 k.val false (ceMod k.val (fun x => { x with waitPort := false }) s))))
    ∧ (∀ (w w1 : State) (gs : List Segment), anteHas s 5 k.val = true →
        w = ceMod k.val (fun x => { x with turn := i, waitPort := false }) s →
        j.doneBytes ≠ 0 ∨ copySuits (copyAccessor s k c j) c.kind j (2 * (copyTotal j.b / 4096 + 2) + j.b.rows) 0 w = true →
        burstSegs (copyAccessor s k c j) c.kind j j.doneBytes (min 65536 (copyTotal j.b - j.doneBytes)) w = (.ok gs, w1) →
      ∃ u, exec (.copyBurst k) s = .next (irqSettle u) ∧ (ceOf u k.val).busy = some (liveHandle s 7 i)
        ∧ (ceOf u k.val).burst = segsLen gs ∧ (ceOf u k.val).moved = false))
  ∧ (∀ (s : State) (k : Fin 40) (h : Handle) (c : Channel) (j : CopyJob), Serving s → (ceOf s k.val).busy = some h → chanOf s h = some c →
      c.jobs.head? = some j → (ceOf s k.val).moved = true →
    (∀ st data, accEnd s (.copyEngine k) = some st → exec (.copyBurstDone k data) s = .next (irqSettle (burstEnd k h st s))
        ∧ (ceOf (burstEnd k h st s) k.val).busy = none ∧ anteHas (burstEnd k h st s) 5 k.val = false)
    ∧ (∀ data, accEnd s (.copyEngine k) = none → exec (.copyBurstDone k data) s = .next (irqSettle s)))

/-- The answers to the hub's own requests and the port's state (R343, R421, R461, R464, R465, R467, R471, R473 to R478, R490 to R493, R503,
R528): completions confirm writes or are captured; granted translations go out and denied pages are asked for; enables, power states and
resets take effect; attachments, windows and port configuration are set. -/
def Obligations.PortsAndTranslations : Prop :=
  (∀ (s : State) (p : Fin 2) (tag : Nat), Serving s →
    (readOf s p.val tag = none → portLinked s p.val = true → ∀ c,
      exec (.hostReadCompletion p tag c) s = .next (irqSettle (aerLog p.val "UNEXPECTED_COMPLETION" s)))
    ∧ (∀ r, readOf s p.val tag = some r → r.what = .flush → s.trn.moves = [] → s.obj.doneWaits = [] →
      (∀ bs, exec (.hostReadCompletion p tag (.data bs)) s = .next (irqSettle (tilesRecheck (readDone p.val r s)))
        ∧ (portOf (readDone p.val r s) p.val).unconfirmed = (portOf s p.val).unconfirmed.drop r.after
        ∧ ∀ x ∈ (portOf (readDone p.val r s) p.val).reads, x.tag ≠ r.tag)
      ∧ exec (.hostReadCompletion p tag .ur) s
          = .next (irqSettle (tilesRecheck (hifErr 1 p.val r.table r.addr (readDone p.val r s))))
      ∧ ∃ w, exec (.completionTimeout p tag) s = .next (irqSettle (tilesRecheck w)) ∧ w.hif.errValid = true
          ∧ (s.hif.errValid = false → w.hif.errKind = 3 ∧ w.hif.errAddr = r.addr)
          ∧ Out.aer p.val "COMPLETION_TIMEOUT" ∈ w.out ∧ ∀ x ∈ (portOf w p.val).reads, x.tag ≠ tag))
  ∧ (∀ (s : State) (p : Fin 2) (page : Nat), Serving s →
    (∀ q d addr n t a, (portOf s p.val).atsWait = [(page, .hostRead q d addr n t)] → page ∉ (portOf s p.val).pageReqs →
        page ∉ (portOf s p.val).pageWait → portCarries s p.val = true →
      ∃ u, exec (.translationCompletion p page (.granted a)) s = .next (irqSettle (tilesRecheck u))
        ∧ mapGet (portOf u p.val).atc page = some a ∧ (portOf u p.val).atsWait = []
        ∧ u.out = s.out ++ [.hostRead q d (a + addr % 4096) n t] ∧ SameBut [.ports, .out] s u)
    ∧ (∀ o, (portOf s p.val).atsWait = [(page, o)] → page ∉ (portOf s p.val).pageReqs → page ∉ (portOf s p.val).pageWait →
        (portOf s p.val).priEnable = true →
      ((portOf s p.val).pageReqs.length < 512 →
        ∃ u, exec (.translationCompletion p page .deniedAccess) s = .next (irqSettle u) ∧ page ∈ (portOf u p.val).pageReqs
          ∧ u.out = s.out ++ [.ats p.val "PAGE_REQUEST" page] ∧ SameBut [.ports, .out] s u)
      ∧ (512 ≤ (portOf s p.val).pageReqs.length →
        ∃ u, exec (.translationCompletion p page .deniedAccess) s = .next (irqSettle u)
          ∧ (portOf u p.val).pageWait = (portOf s p.val).pageWait ++ [page] ∧ SameBut [.ports] s u))
    ∧ (page ∈ (portOf s p.val).pageReqs → (portOf s p.val).pageWait = [] →
      ∃ u, exec (.pageRequestResponse p page .success) s = .next (irqSettle u) ∧ page ∉ (portOf u p.val).pageReqs
        ∧ u.out = s.out ++ [.ats p.val "TRANSLATION_REQUEST" page] ∧ SameBut [.ports, .out] s u)
    ∧ (∀ count itag, portLinked s p.val = true → (portOf s p.val).atsEnable = true →
      ∃ u, exec (.atsInvalidate p page count itag) s = .next (irqSettle u)
        ∧ (∀ x ∈ (portOf u p.val).atc, x.1 < page ∨ page + count ≤ x.1)
        ∧ u.out = s.out ++ [.ats p.val "INVALIDATE_COMPLETION" itag] ∧ SameBut [.ports, .out] s u)
    ∧ (∀ t a b, (portOf s p.val).unconfirmed.getLast? = some (.write t a b) → portCarries s p.val = true →
        (∀ r ∈ (portOf s p.val).reads, r.what = .flush → r.after < (portOf s p.val).unconfirmed.length) →
      exec (.confirmRead p) s = .next (irqSettle (hostReadSend p.val t a 0 .flush s)))
    ∧ ((portOf s p.val).unconfirmed = [] → exec (.confirmRead p) s = .next (irqSettle s)))
  ∧ (∀ (s w : State) (p : Fin 2) (v : BitVec 16), portLinked s p.val = true →
      w = portMod p.val (fun h => { h with mse := v.getLsbD 1, bme := v.getLsbD 2, serr := v.getLsbD 8, intxDisable := v.getLsbD 10 }) s →
    (portCarries w p.val = false → exec (.commandRegisterWrite p v) s = .next (irqSettle (portsGone w))
      ∧ (portOf (portsGone w) p.val).mse = v.getLsbD 1 ∧ (portOf (portsGone w) p.val).bme = v.getLsbD 2)
    ∧ (portCarries w p.val = true →
      exec (.commandRegisterWrite p v) s
        = .next (irqSettle (portKick p.val ((s.tables.map (fun x => x.1)).foldl (fun s t => portBack t s) w)))))
  ∧ (∀ (s : State) (p : Fin 2), s.sys.stopped = false →
    ((portOf s p.val).state = .up →
      ∃ u, exec (.powerStateWrite p true) s = .next (irqSettle u) ∧ (portOf u p.val).state = .d3hot ∧ u.out = s.out)
    ∧ ((portOf s p.val).state = .d3hot → exec (.powerStateWrite p false) s = .next (irqSettle (portReset p.val s)))
    ∧ ((portOf s p.val).state ≠ .down → ((portOf s p.val).state = .resetting → portTrains s (portOf s p.val) = true) →
      exec (.endpointReset p) s = .next (irqSettle (portReset p.val s)))
    ∧ ((portOf s p.val).state = .down ∨ ((portOf s p.val).state = .resetting ∧ portTrains s (portOf s p.val) = false) →
      exec (.endpointReset p) s = .next s)
    ∧ (CohQuiet s → s.coh.dir = [] → s.trn.tiles = [] → s.trn.unitWalks = [] → (portOf s p.val).reads = [] →
        (portOf s p.val).unconfirmed = [] →
      (portOf (portReset p.val s) p.val).state = .resetting ∧ (portOf (portReset p.val s) p.val).resetAt = now s ∧ (portOf (portReset p.val s) p.val).mse = false
        ∧ (portOf (portReset p.val s) p.val).bme = false
        ∧ (portOf (portReset p.val s) p.val).resets = min 65535 ((portOf s p.val).resets + 1)
        ∧ (irqSrcOf (portReset p.val s) (54 + p.val)).latch = true ∧ ∀ q, q ≠ p.val → portOf (portReset p.val s) q = portOf s q)
    ∧ (∀ cxl speed width, portTrains s (portOf s p.val) = true → 1 ≤ speed → speed ≤ 7 → width ∈ [1, 2, 4, 8, 16] →
      ∃ u, exec (.hostLinkUp p cxl speed width) s = .next (irqSettle u) ∧ (portOf u p.val).state = .up
        ∧ (portOf u p.val).cxl = (cxl && (portOf s p.val).cxlAllow) ∧ (portOf u p.val).width = width
        ∧ (portOf u p.val).speed ≤ (portOf s p.val).maxSpeed ∧ SameBut [.ports, .coh] s u))
  ∧ (∀ (s : State) (c : Caller) (t port pasid : Nat), Takes s c.mbx .o → OnTable s c t →
    (port > 1 ∨ pasid ≥ 2 ^ 20 → ∃ u, exec (.attach c port pasid) s = .next u ∧ Answered u c.mbx .range 0 [] ∧ SameBut (.mbx :: tells) s u)
    ∧ (port ≤ 1 → pasid < 2 ^ 20 → portCarries s 0 = false → portCarries s 1 = false →
      ∃ u, exec (.attach c port pasid) s = .next u ∧ Answered u c.mbx .ok 0 [] ∧ attachedTo u t port = true ∧ pasidOf u t port = pasid
        ∧ (attachedTo s t 0 = false → attachedTo s t 1 = false → (hifTbl u t).primary = port) ∧ SameBut (([.mbx, .host] : List Part) ++ tells) s u))
  ∧ (∀ (s : State) (c : Caller) (t port : Nat), Takes s c.mbx .ot → OnTable s c t →
    (port > 1 ∨ attachedTo s t port = false →
      ∃ u, exec (.hostPort c port) s = .next u ∧ Answered u c.mbx .range 0 [] ∧ SameBut (.mbx :: tells) s u)
    ∧ (port ≤ 1 → attachedTo s t port = true → portCarries s 0 = false → portCarries s 1 = false →
      ∃ u, exec (.hostPort c port) s = .next u ∧ Answered u c.mbx .ok 0 [] ∧ (hifTbl u t).primary = port
        ∧ SameBut (([.mbx, .host] : List Part) ++ tells) s u))
  ∧ (∀ (s : State) (c : Caller) (t : Nat), Takes s c.mbx .t → OnTable s c t →
    (∀ w write va, w ≤ 63 → va % 2 ^ 24 = 0 → va < 2 ^ 57 →
      (winBusy s w = false → ∃ u, exec (.windowSet c w write false va) s = .next u ∧ Answered u c.mbx .ok 0 []
        ∧ mapGet u.hif.win w = some { valid := true, write := write, va := va, table := t } ∧ SameBut (([.mbx, .host] : List Part) ++ tells) s u)
      ∧ (winBusy s w = true → ∃ u, exec (.windowSet c w write false va) s = .next u ∧ Unanswered u c.mbx ∧ u.hif.win = s.hif.win
        ∧ SameBut (([.mbx, .host] : List Part) ++ tells) s u))
    ∧ (∀ (p : Fin 2) split va, va % 2 ^ 30 = 0 → va < 2 ^ 57 →
        (∀ x ∈ s.coh.dir, (∀ a ∈ x.2.presence, a ≠ 120 + 2 * p.val ∧ a ≠ 121 + 2 * p.val) ∧ x.2.owner ≠ 120 + 2 * p.val
          ∧ x.2.owner ≠ 121 + 2 * p.val) →
      ∃ u, exec (.hdmSet c p.val split false va) s = .next u ∧ Answered u c.mbx .ok 0 []
        ∧ mapGet u.hif.hdm p.val = some { valid := true, split := split, va := va, table := t } ∧ SameBut (([.mbx, .host, .coh] : List Part) ++ tells) s u))
  ∧ (∀ (s : State) (c : Caller) (p : Fin 2) (allow speed : Nat), Takes s c.mbx .o → allow ≤ 1 → 1 ≤ speed → speed ≤ 7 →
    ∃ u, exec (.portCfg c p.val allow speed) s = .next (irqSettle u) ∧ Answered u c.mbx .ok 0 []
      ∧ (portOf u p.val).cxlAllow = decide (allow = 1) ∧ (portOf u p.val).maxSpeed = speed
      ∧ (portOf u p.val).state = (portOf s p.val).state ∧ SameBut ([.mbx, .ports, .irq]) s u)

/-- DOE, SPDM, IDE and tenant keys (R458, R497 to R502, R530, R531): while the control core does not run, or has no clock, DOE is busy; the requests go in
order, each answered OK or with an error; sessions are begun, established and ended, at most 4 to a port; a stream is keyed and a
tenant's key loaded once, only inside a session; a stream whose check fails is Insecure and resets the port. -/
def Obligations.SecureSessions : Prop :=
  (∀ (s : State) (p : Fin 2), portLinked s p.val = true →
    (∀ (i : Instr) (need next : Nat) (name : String), (i, need, next, name) ∈ [(Instr.getVersion p, 0, 1, "VERSION"),
        (.getCapabilities p, 1, 2, "CAPABILITIES"), (.negotiateAlgorithms p, 2, 3, "ALGORITHMS"), (.getDigests p, 3, 3, "DIGESTS"),
        (.getCertificate p 0, 3, 3, "CERTIFICATE"), (.challenge p, 3, 3, "CHALLENGE_AUTH"), (.getMeasurements p, 3, 3, "MEASUREMENTS")] →
      (coreAnswers s = false → exec i s = .next (emit (.spdm p.val "DOE_BUSY" .busy) s))
      ∧ (coreAnswers s = true → need ≤ (portOf s p.val).spdmStage →
        ∃ u, exec i s = .next (irqSettle u) ∧ u.out = s.out ++ [.spdm p.val name .ok] ∧ next ≤ (portOf u p.val).spdmStage
          ∧ (next = 1 → (portOf u p.val).spdmStage = 1) ∧ SameBut [.ports, .out] s u)
      ∧ (coreAnswers s = true → (portOf s p.val).spdmStage < need → exec i s = .next (irqSettle (emit (.spdm p.val "ERROR" .range) s))))
    ∧ (coreAnswers s = true →
      (∀ index, exec (.doeDiscovery p index) s
        = .next (irqSettle (emit (.spdm p.val "DOE_DISCOVERY" (if index ≤ 2 then .ok else .range)) s)))
      ∧ (3 ≤ (portOf s p.val).spdmStage → (portOf s p.val).sessions.length < 4 →
        ∃ u, exec (.keyExchange p) s = .next (irqSettle u) ∧ u.out = s.out ++ [.spdm p.val "KEY_EXCHANGE_RSP" .ok]
          ∧ (portOf u p.val).sessions = (portOf s p.val).sessions ++ [((portOf s p.val).nextSession, false)] ∧ SameBut [.ports, .out] s u)
      ∧ (3 ≤ (portOf s p.val).spdmStage → 4 ≤ (portOf s p.val).sessions.length →
        exec (.keyExchange p) s = .next (irqSettle (emit (.spdm p.val "ERROR" .noResource) s)))
      ∧ (∀ id, (id, false) ∈ (portOf s p.val).sessions →
        ∃ u, exec (.finish p id) s = .next (irqSettle u) ∧ u.out = s.out ++ [.spdm p.val "FINISH_RSP" .ok] ∧ sessionUp u p.val id = true
          ∧ SameBut [.ports, .out] s u)
      ∧ (∀ id, sessionUp s p.val id = true →
        exec (.keyUpdate p id) s = .next (irqSettle (emit (.spdm p.val "KEY_UPDATE_ACK" .ok) (portMod p.val (fun h => h) s)))
        ∧ exec (.heartbeat p id) s = .next (irqSettle (emit (.spdm p.val "HEARTBEAT_ACK" .ok) (portMod p.val (fun h => h) s)))
        ∧ (∃ u, exec (.endSession p id) s = .next (irqSettle u) ∧ (∀ x ∈ (portOf u p.val).sessions, x.1 ≠ id) ∧ SameBut [.ports, .out] s u)
        ∧ ∀ k : Fin 8, ∃ u, exec (.ideKm p id k) s = .next (irqSettle u) ∧ (portOf u p.val).ideKeyed.getLsbD k.val = true
            ∧ (portOf u p.val).ideInsecure.getLsbD k.val = false ∧ SameBut [.ports, .out] s u)
      ∧ (∀ id, sessionUp s p.val id = false → ∀ i, (∃ k, i = Instr.ideKm p id k) ∨ i ∈ [Instr.keyUpdate p id, .heartbeat p id, .endSession p id] →
        exec i s = .next (irqSettle (emit (.spdm p.val "ERROR" .denied) s)))
      ∧ (∀ session g dk tk t tb, slotOfGlobal s g = some t → tableAt s t = some tb →
        (tenantKeyStatus s p.val session g dk tk = .ok →
          ∃ u x, exec (.tenantKey p session g dk tk) s = .next (irqSettle u) ∧ u.out = s.out ++ [.spdm p.val "TENANT_KEY" .ok]
            ∧ mapGet u.mem.keys tb.keySlot = some x ∧ x.state = .loaded ∧ x.table = t ∧ x.dataKey = dk ∧ x.tweakKey = tk ∧ SameBut [.memory, .out] s u)
        ∧ (∀ st, tenantKeyStatus s p.val session g dk tk = st → st ≠ .ok →
          exec (.tenantKey p session g dk tk) s = .next (irqSettle (emit (.spdm p.val "TENANT_KEY" st) s)))
        ∧ (session = none → tenantKeyStatus s p.val session g dk tk = .denied)))
    ∧ (∀ k : Fin 8, (portOf s p.val).ideKeyed.getLsbD k.val = true →
      exec (.ideCheckFailed p k) s = .next (irqSettle (portReset p.val (aerLog p.val "IDE_CHECK_FAILED"
        (portMod p.val (fun h => { h with ideInsecure := h.ideInsecure ||| BitVec.ofNat 8 (2 ^ k.val) }) s))))))

-- mailboxes and the control core ------------------------------------------------------------------------------------------

/-- R542: a GO whose LENGTH is below 32 or above 1,792, or below 32 plus the header's LENGTH, starts no request; the response is RANGE with
the SEQ of the request area, STATE is DONE, and LAST_SEQ is unchanged. -/
def Obligations.GoOutOfRange : Prop :=
  ∀ (s : State) (p : Fin 2) (m : Fin 64) (v : BitVec 32), barOpen s p.val = true → postedGuards s p.val = [] → bitsOf v.toNat 31 31 = 1 →
      (boxOf s m.val).busy = false →
      bitsOf v.toNat 10 0 < 32 ∨ 1792 < bitsOf v.toNat 10 0 ∨ bitsOf v.toNat 10 0 < 32 + areaField (goArea s m.val) 8 4 →
    ∃ t, exec (.mbxGo p m v) s = .next t ∧ (boxOf t m.val).busy = false ∧ (boxOf t m.val).executing = (boxOf s m.val).executing
      ∧ (boxOf t m.val).req = (boxOf s m.val).req ∧ (boxOf t m.val).done = true
      ∧ (∃ r, (boxOf t m.val).resp = some r ∧ r.status = .range ∧ r.seq = areaField (goArea s m.val) 4 4)
      ∧ (boxOf t m.val).lastSeq = (boxOf s m.val).lastSeq ∧ SameBut (([.mbx, .sys] : List Part) ++ tells) s t

/-- Requests in a mailbox (R510, R513, R516, R519, R520, R522, R524, R533, R486): a GO copies the request and sets BUSY, one while BUSY is
discarded, and either waits behind the host's posted writes that are still under way; a request with the next SEQ is executed as its row says, one with the last SEQ gets the stored response again, any other SEQ
gets RANGE; HELLO agrees version 4; without it every other request fails VERSION, a mailbox that may not send it is DENIED, and an
unknown code is UNSUPPORTED; QUERY answers its entries; MBX_ASSIGN gives and takes a mailbox. -/
def Obligations.MailboxRequests : Prop :=
  (∀ (s : State) (p : Fin 2) (m : Fin 64) (v : BitVec 32), barOpen s p.val = true → postedGuards s p.val = [] → bitsOf v.toNat 30 11 = 0 →
    (bitsOf v.toNat 31 31 = 1 → (boxOf s m.val).busy = false → 32 ≤ bitsOf v.toNat 10 0 → bitsOf v.toNat 10 0 ≤ 1792 →
        32 + areaField (goArea s m.val) 8 4 ≤ bitsOf v.toNat 10 0 →
      ∃ t, exec (.mbxGo p m v) s = .next (irqSettle t) ∧ (boxOf t m.val).busy = true ∧ (boxOf t m.val).done = false
        ∧ (boxOf t m.val).req
          = (List.range (bitsOf v.toNat 10 0)).map (fun i => mapGetD s.mbx.area (m.val * 4096 + 0x100 + i) 0)
        ∧ (boxOf t m.val).lastSeq = (boxOf s m.val).lastSeq ∧ (irqSrcOf t (160 + m.val)).latch = true
        ∧ (irqSrcOf t (96 + m.val)).latch = false ∧ SameBut [.mbx, .irq] s t)
    ∧ ((boxOf s m.val).busy = true ∨ bitsOf v.toNat 31 31 = 0 → exec (.mbxGo p m v) s = .next (irqSettle s)))
  ∧ (∀ (s : State) (p : Fin 2) (m : Fin 64) (v : BitVec 32), barOpen s p.val = true → postedGuards s p.val ≠ [] →
    ∃ t, exec (.mbxGo p m v) s = .next (irqSettle t) ∧ SameBut [.host] s t
      ∧ t.hif.pageHeld = s.hif.pageHeld ++ [{ port := p.val, w := .go m.val v.toNat (goArea s m.val), guards := postedGuards s p.val }])
  ∧ (∀ (s : State) (m : Fin 64) (b : Mailbox), Serving s → b = boxOf s m.val →
    (coreRuns s = false ∨ b.busy = false ∨ b.executing = true → exec (.requestExecute m) s = .next (irqSettle s))
    ∧ (coreRuns s = true → b.busy = true → b.executing = false → b.early = false →
      (∀ w r, fieldAt b.req 4 4 = (b.lastSeq + 1) % 2 ^ 32 → fieldAt b.req 0 2 ≠ 1 → fieldAt b.req 2 1 = 4 →
          reqDecode (fieldAt b.req 0 2) ((b.req.drop 32).take (fieldAt b.req 8 4)) = some r →
          w = boxMod m.val (fun x => { x with seq := fieldAt b.req 4 4, early := false }) s →
        exec (.requestExecute m) s
          = gararn (fieldAt b.req 0 2) r.letter ⟨m, fieldAt b.req 12 4⟩ (r.act ⟨m, fieldAt b.req 12 4⟩) w)
      ∧ (fieldAt b.req 4 4 = (b.lastSeq + 1) % 2 ^ 32 → fieldAt b.req 0 2 ≠ 1 → fieldAt b.req 2 1 = 4 → b.version = 4 →
          letterOk s m .ot = true →
          reqDecode (fieldAt b.req 0 2) ((b.req.drop 32).take (fieldAt b.req 8 4)) = none →
        ∃ t, exec (.requestExecute m) s = .next t ∧ Answered t m .unsupported 0 [] ∧ (boxOf t m.val).lastSeq = fieldAt b.req 4 4
          ∧ SameBut (.mbx :: tells) s t)
      ∧ (∀ r, fieldAt b.req 4 4 = b.lastSeq → b.stored = some r →
        ∃ t, exec (.requestExecute m) s = .next t ∧ (boxOf t m.val).resp = some r ∧ (boxOf t m.val).stored = some r
          ∧ (boxOf t m.val).busy = false ∧ (boxOf t m.val).done = true ∧ (boxOf t m.val).lastSeq = b.lastSeq ∧ SameBut (.mbx :: tells) s t)
      ∧ (fieldAt b.req 4 4 ≠ b.lastSeq → fieldAt b.req 4 4 ≠ (b.lastSeq + 1) % 2 ^ 32 →
        ∃ t r, exec (.requestExecute m) s = .next t ∧ (boxOf t m.val).resp = some r ∧ r.status = .range
          ∧ (boxOf t m.val).stored = b.stored ∧ (boxOf t m.val).busy = false ∧ (boxOf t m.val).done = true
          ∧ (boxOf t m.val).lastSeq = b.lastSeq ∧ SameBut (.mbx :: tells) s t)))
  ∧ (∀ (s : State) (c : Caller) (versions : Nat), CoreServes s →
    (letterOk s c.mbx .ot = true → versions / 16 % 2 = 1 →
      ∃ t, exec (.gararnHello c versions) s = .next t ∧ Answered t c.mbx .ok 0 (leBytes 1 4 ++ leBytes 3 0 ++ leBytes 4 (fwRunning s))
        ∧ (boxOf t c.mbx.val).version = 4 ∧ SameBut (.mbx :: tells) s t)
    ∧ (letterOk s c.mbx .ot = true → versions / 16 % 2 = 0 →
      ∃ t, exec (.gararnHello c versions) s = .next t ∧ Answered t c.mbx .version 0 []
        ∧ (boxOf t c.mbx.val).version = (boxOf s c.mbx.val).version ∧ SameBut (.mbx :: tells) s t)
    ∧ (letterOk s c.mbx .ot = false →
      ∃ t, exec (.gararnHello c versions) s = .next t ∧ Answered t c.mbx .denied 0 [] ∧ SameBut (.mbx :: tells) s t)
    ∧ (∀ op l f, (boxOf s c.mbx.val).version ≠ 4 →
      ∃ t, gararn op l c f s = .next t ∧ Answered t c.mbx .version 0 [] ∧ SameBut (.mbx :: tells) s t)
    ∧ (∀ op l f, (boxOf s c.mbx.val).version = 4 → letterOk s c.mbx l = false →
      ∃ t, gararn op l c f s = .next t ∧ Answered t c.mbx .denied 0 [] ∧ SameBut (.mbx :: tells) s t))
  ∧ (∀ (s : State) (c : Caller) (id index limit : Nat) (f : State → List Byte), Takes s c.mbx .ot →
    ((id, limit, f) ∈ [(1, 1, queryIdentity), (2, 1, fun _ => queryLimits), (3, 16, queryStack index), (4, 16, queryEngine index),
        (5, 16, queryLink index), (6, 2, queryHost index)] →
      (index < limit → ∃ t, exec (.query c id index) s = .next t ∧ Answered t c.mbx .ok 0 (queryEntry id index (f s))
        ∧ SameBut (.mbx :: tells) s t)
      ∧ (limit ≤ index → ∃ t, exec (.query c id index) s = .next t ∧ Answered t c.mbx .range 0 [] ∧ SameBut (.mbx :: tells) s t))
    ∧ (id = 7 → index < 256 → queryOwner c index (taken 0x002 c.mbx s) = .ok →
      ∃ t, exec (.query c id index) s = .next t ∧ Answered t c.mbx .ok 0 (queryEntry 7 index (queryTable index s))
        ∧ SameBut (.mbx :: tells) s t)
    ∧ (id = 0 ∨ 7 < id ∨ (id = 7 ∧ 256 ≤ index) →
      ∃ t, exec (.query c id index) s = .next t ∧ Answered t c.mbx .range 0 [] ∧ SameBut (.mbx :: tells) s t))
  ∧ (∀ (s : State) (c : Caller) (k : Nat) (h : Handle), Takes s c.mbx .o →
      h = 0 ∨ (∃ tb, checkHandle s none 5 h = .ok ∧ tableAt s (hIdx h) = some tb ∧ tb.destroying = false) →
    (k < 4 ∨ 63 < k → ∃ t, exec (.mbxAssign c k h) s = .next t ∧ Answered t c.mbx .range 0 [] ∧ SameBut (.mbx :: tells) s t)
    ∧ (4 ≤ k → k ≤ 63 →
      ((boxOf s k).busy = true → ∃ t, exec (.mbxAssign c k h) s = .next t ∧ Answered t c.mbx .busy 0 [] ∧ boxOf t k = boxOf s k
        ∧ SameBut (.mbx :: tells) s t)
      ∧ ((boxOf s k).busy = false → ∃ t, exec (.mbxAssign c k h) s = .next t ∧ Answered t c.mbx .ok 0 []
        ∧ (boxOf t k).assigned = (if h = 0 then none else some (hIdx h)) ∧ (boxOf t k).lastSeq = 0 ∧ (boxOf t k).version = 0
        ∧ (boxOf t k).stored = none ∧ SameBut (.mbx :: tells) s t)))

/-- Images, restarts, dumps and limits (R117, R348, R374, R509, R524, R534 to R541, R587, R606): a piece of an image is staged; a passed
activation begins the handover, and a failed one is DENIED; the watchdog, a fatal error and a late handover begin a restart, which ends
RUNNING with the generation advanced and a CORE dump, and then takes what other hubs have sent meanwhile; in the cold start the two former are
recorded with a CORE dump, after the HUB_STOP dump if one is due, and the core stays as it is (the model's choice, notes/assumptions/155); a finished handover runs the new image and answers; a dump is read, cleared and
taken; the renege time, the waiter quota and the walk limit are set. -/
def Obligations.FirmwareAndDumps : Prop :=
  (∀ (s : State) (c : Caller) (off : Nat) (bs : List Byte), Takes s c.mbx .o →
    (bs ≠ [] → bs.length ≤ 1024 → off = 0 ∨ off = s.mbx.staged.length → off + bs.length ≤ 3 * 2 ^ 20 →
      ∃ t, exec (.fwStage c off bs) s = .next t ∧ Answered t c.mbx .ok 0 []
        ∧ t.mbx.staged = (if off = 0 then bs else s.mbx.staged ++ bs) ∧ SameBut (.mbx :: tells) s t)
    ∧ (bs = [] ∨ 1024 < bs.length ∨ (off ≠ 0 ∧ off ≠ s.mbx.staged.length) ∨ 3 * 2 ^ 20 < off + bs.length →
      ∃ t, exec (.fwStage c off bs) s = .next t ∧ Answered t c.mbx .range 0 [] ∧ t.mbx.staged = s.mbx.staged ∧ SameBut (.mbx :: tells) s t))
  ∧ (∀ (s : State) (c : Caller) (k g d : Bool), Takes s c.mbx .o →
    (k = true → g = true → d = true → 512 ≤ s.mbx.staged.length → fieldAt s.mbx.staged 4 4 = s.mbx.staged.length →
        fieldAt s.mbx.staged 0 4 = 1 → s.sys.fuse.minSvn ≤ fieldAt s.mbx.staged 12 2 →
      ∃ t, exec (.fwActivate c k g d) s = .next t ∧ Unanswered t c.mbx ∧ t.mbx.core = .handover ∧ t.mbx.activating = some c.mbx
        ∧ t.mbx.since = now s ∧ t.mbx.image = s.mbx.image ∧ SameBut (.mbx :: tells) s t)
    ∧ (k = false ∨ g = false ∨ d = false ∨ fieldAt s.mbx.staged 4 4 ≠ s.mbx.staged.length ∨ fieldAt s.mbx.staged 12 2 < s.sys.fuse.minSvn →
      ∃ t, exec (.fwActivate c k g d) s = .next t ∧ Answered t c.mbx .denied 0 [] ∧ t.mbx.core = .running ∧ SameBut (.mbx :: tells) s t))
  ∧ (∀ s : State, CoreServes s → exec .watchdogExpiry s = .next (irqSettle (coreFail .watchdog s)))
  ∧ (∀ (s : State) (ecc : Bool), Serving s → coreExecutes s = true →
    exec (.coreFatalError ecc) s = .next (irqSettle (coreFail (if ecc then .ecc else .trap) s)))
  ∧ (∀ s : State, coreBooting s = true → pllOn s 11 = true →
    exec .watchdogExpiry s = .next (irqSettle (bootRestart .watchdog s))
    ∧ (∀ ecc, exec (.coreFatalError ecc) s = .next (irqSettle (bootRestart (if ecc then .ecc else .trap) s)))
    ∧ ∀ cause, (bootRestart cause s).mbx.core = s.mbx.core ∧ (bootRestart cause s).mbx.lastCause = cause
      ∧ (bootRestart cause s).mbx.restarts = min 65535 (s.mbx.restarts + 1)
      ∧ (s.sys.aonValid = true → (bootRestart cause s).mbx.dumpSeq = s.mbx.dumpSeq + 2)
      ∧ (s.sys.aonValid = false → (bootRestart cause s).mbx.dumpSeq = s.mbx.dumpSeq + 1))
  ∧ (∀ s : State, Serving s → s.mbx.core = .handover →
    (s.mbx.since + 50000000 ≤ now s → exec .handoverTimeout s = .next (irqSettle (coreFail .handoverFail s)))
    ∧ (now s < s.mbx.since + 50000000 → exec .handoverTimeout s = .next (irqSettle s)))
  ∧ (∀ (s : State) (cause : CoreCause), (coreFail cause s).mbx.core = .restarting ∧ (coreFail cause s).mbx.lastCause = cause
    ∧ (coreFail cause s).mbx.gated = false ∧ (coreFail cause s).mbx.restarts = min 65535 (s.mbx.restarts + 1)
    ∧ (∀ p, (portOf (coreFail cause s) p).sessions = []) ∧ SameBut [.mbx, .ports] s (coreFail cause s))
  ∧ (∀ (s : State) (digestOk : Bool), Serving s → pllOn s 11 = true → s.mbx.core = .restarting →
    ∃ t, exec (.coreRestart digestOk [] []) s = .next (irqSettle (ctrlsTake t)) ∧ t.mbx.core = .running
      ∧ t.mbx.generation = (s.mbx.generation + 1) % 256 ∧ t.mbx.dumpSeq = s.mbx.dumpSeq + 1 ∧ (irqSrcOf t 58).latch = true
      ∧ t.mbx.source = (s.mbx.source && decide (s.mbx.lastCause ≠ .handoverFail) && digestOk
          && decide ((s.mbx.restartLog.filter (fun x => now s < x + 60000000000)).length < 2))
      ∧ ((s.irq.tgts.map (fun x => x.1)).Pairwise (· < ·) → (irqTgtOf t 0).armed = false) ∧ (∀ id, (irqSrcOf t id).insvc ≠ some 0)
      ∧ ((∀ x ∈ s.mbx.boxes, x.2.owed = none) → ∀ k, (boxOf t k).lastSeq = (boxOf s k).lastSeq ∨ s.mbx.activating.isSome = true))
  ∧ (∀ (s : State) (digestOk : Bool) (m : Fin 64), Serving s → pllOn s 11 = true → s.mbx.core = .handover → s.mbx.activating = some m →
    (now s ≤ s.mbx.since + 50000000 →
      ∃ t, exec (.coreRestart digestOk [] []) s = .next (irqSettle (ctrlsTake t)) ∧ t.mbx.core = .running ∧ t.mbx.source = true
        ∧ t.mbx.image = s.mbx.staged.take 512 ∧ t.mbx.generation = (s.mbx.generation + 1) % 256 ∧ t.mbx.activating = none
        ∧ Answered t m .ok 0 [])
    ∧ (s.mbx.since + 50000000 < now s → exec (.coreRestart digestOk [] []) s = .next (irqSettle s)))
  ∧ (∀ (s : State) (c : Caller) (slot off len : Nat), Takes s c.mbx .o → slot ≤ 3 → 0 < len → len ≤ 1024 →
    (mapGet s.mbx.dumps slot = none →
      ∃ t, exec (.dumpRead c slot off len) s = .next t ∧ Answered t c.mbx .gone 0 [] ∧ SameBut (.mbx :: tells) s t)
    ∧ (∀ d, mapGet s.mbx.dumps slot = some d →
      (off + len ≤ d.length → ∃ t, exec (.dumpRead c slot off len) s = .next t
        ∧ Answered t c.mbx .ok 0 ((List.range len).map (fun i => dumpByteAt d (off + i))) ∧ SameBut (.mbx :: tells) s t)
      ∧ (d.length < off + len → ∃ t, exec (.dumpRead c slot off len) s = .next t ∧ Answered t c.mbx .range 0 []
        ∧ SameBut (.mbx :: tells) s t)))
  ∧ (∀ (s : State) (c : Caller) (slot : Nat), Takes s c.mbx .o → slot ≤ 3 →
    ((s.mbx.dumps.map (fun x => x.1)).Pairwise (· < ·) →
      ∃ t, exec (.dumpClear c slot) s = .next t ∧ Answered t c.mbx .ok 0 [] ∧ mapGet t.mbx.dumps slot = none
        ∧ (∀ k, k ≠ slot → mapGet t.mbx.dumps k = mapGet s.mbx.dumps k) ∧ SameBut (.mbx :: tells) s t)
    ∧ ∃ t d, exec (.dumpTake c slot) s = .next t ∧ mapGet t.mbx.dumps slot = some d ∧ d.kind = 3 ∧ d.seq = s.mbx.dumpSeq + 1
        ∧ d.time = now s ∧ d.sections = [1, 2, 4, 5, 6] ∧ t.mbx.dumpSeq = s.mbx.dumpSeq + 1
        ∧ Answered t c.mbx .ok 0 (leBytes 4 (s.mbx.dumpSeq + 1) ++ leBytes 4 (Config.dumpLength (s.mbx.dumpSeq + 1)))
        ∧ SameBut (.mbx :: tells) s t)
  ∧ (∀ (s : State) (c : Caller) (t n : Nat), Takes s c.mbx .o → OnTable s c t →
    (1 ≤ n → n ≤ 60000 → ∃ u tb, exec (.renegeSet c n) s = .next u ∧ Answered u c.mbx .ok 0 [] ∧ tableAt u t = some tb ∧ tb.renegeMs = n
      ∧ SameBut (([.mbx, .tables] : List Part) ++ tells) s u)
    ∧ (n = 0 ∨ 60000 < n → ∃ u, exec (.renegeSet c n) s = .next u ∧ Answered u c.mbx .range 0 [] ∧ SameBut (.mbx :: tells) s u)
    ∧ (1 ≤ n → n ≤ 16384 → ∃ u tb, exec (.waitQuota c n) s = .next u ∧ Answered u c.mbx .ok 0 [] ∧ tableAt u t = some tb ∧ tb.quota = n
      ∧ SameBut (([.mbx, .tables] : List Part) ++ tells) s u)
    ∧ (n = 0 ∨ 16384 < n → ∃ u, exec (.waitQuota c n) s = .next u ∧ Answered u c.mbx .range 0 [] ∧ SameBut (.mbx :: tells) s u))
  ∧ (∀ (s : State) (c : Caller) (n : Nat), Takes s c.mbx .o →
    (1 ≤ n → n ≤ 96 → ∃ u, exec (.walkLimit c n) s = .next u ∧ Answered u c.mbx .ok 0 [] ∧ u.trn.tableMax = n
      ∧ SameBut (([.mbx, .trn] : List Part) ++ tells) s u)
    ∧ (n = 0 ∨ 96 < n → ∃ u, exec (.walkLimit c n) s = .next u ∧ Answered u c.mbx .range 0 [] ∧ SameBut (.mbx :: tells) s u))

-- serving steps, the hand and power ---------------------------------------------------------------------------------------

/-- Serving steps (R545, R547, R549 to R551, R554, R555): a step opens when it is the next one and nothing of R545 stands against it; a kill
is decided at the lead hub, and a member sends it there; a member acts on STEP_ABORT for its own open step and answers it, and the lead hub
decides a kill that a member sends; the status of the last step is read; pre-emption holds a table's dispatch and saves its contexts, and
resumption restores them, failing LOST where one is lost (the model's choice, log 154); PUBLISH keeps P for each block of its range and
waits for the shootdown. -/
def Obligations.StepsRun : Prop :=
  (∀ (s : State) (c : Caller) (t : Nat) (tb : Table) (b : StepBody), Takes s c.mbx .t → OnTable s c t → tableAt s t = some tb →
      (tb.lead = s.sys.nodeId ∧ b.commitCtr ≠ 0 ∧ checkOwned s tb.tenant t 6 b.commitCtr = .ok
        ∧ counterCheck s (some tb.tenant) b.commitCtr ≠ .lost ∧ (counterOf s (hIdx b.commitCtr)).value < b.commitValue)
      ∨ (tb.lead ≠ s.sys.nodeId ∧ b.commitCtr = 0 ∧ b.commitValue = 0) →
      b.models.length ≤ 16 → (∀ h ∈ b.models, ∃ i, modelCheck s t h = .ok i) →
    (b.step = tb.step.last + 1 → tb.step.onHold = false →
      ∃ u tb', exec (.stepOpen c b) s = .next u ∧ Answered u c.mbx .ok 0 [] ∧ tableAt u t = some tb'
        ∧ tb'.step = { last := b.step, isOpen := true, state := .open_, ctr := b.commitCtr, value := b.commitValue, models := b.models }
        ∧ SameBut (([.mbx, .tables, .objects] : List Part) ++ tells) s u)
    ∧ (b.step ≠ tb.step.last + 1 → tb.step.onHold = false →
      ∃ u, exec (.stepOpen c b) s = .next u ∧ Answered u c.mbx .range 0 [] ∧ SameBut (.mbx :: tells) s u)
    ∧ (b.step = tb.step.last + 1 → tb.step.onHold = true →
      ∃ u, exec (.stepOpen c b) s = .next u ∧ Answered u c.mbx .busy 0 [] ∧ SameBut (.mbx :: tells) s u))
  ∧ (∀ (s : State) (c : Caller) (t step action : Nat) (tb : Table), Takes s c.mbx .ot → OnTable s c t → tableAt s t = some tb →
    (action ≠ 1 → action ≠ 2 →
      ∃ u, exec (.stepKill c step action) s = .next u ∧ Answered u c.mbx .range 0 [] ∧ SameBut (.mbx :: tells) s u)
    ∧ (action = 1 ∨ action = 2 → tb.lead = s.sys.nodeId →
      (killStatus tb step = .ok →
        exec (.stepKill c step action) s
          = .next (irqSettle (answer c.mbx { st := .ok } (stepKillLead t action (taken 0x701 c.mbx s)))))
      ∧ (∀ st, killStatus tb step = st → st ≠ .ok →
        ∃ u, exec (.stepKill c step action) s = .next u ∧ Answered u c.mbx st 0 [] ∧ SameBut (.mbx :: tells) s u)
      ∧ (step = tb.step.last → step ≠ 0 → tb.step.state = .committed → killStatus tb step = .alreadyComplete)
      ∧ (step ≠ tb.step.last → killStatus tb step = .gone))
    ∧ (action = 1 ∨ action = 2 → tb.lead ≠ s.sys.nodeId →
      ∃ u, exec (.stepKill c step action) s = .next u ∧ Unanswered u c.mbx
        ∧ Out.ctrl tb.lead 0x808 tb.globalId step .ok action ∈ u.out
        ∧ (∃ a ∈ u.bnd.asked, a.code = 0x808 ∧ a.mbx = c.mbx ∧ a.dst = tb.lead ∧ a.seat = step) ∧ SameBut (([.mbx, .bnd] : List Part) ++ tells) s u)
    ∧ (step = tb.step.last → step ≠ 0 →
      ∃ u, exec (.stepStatus c step) s = .next u ∧ Answered u c.mbx .ok 0 (stepBody tb.step) ∧ SameBut (.mbx :: tells) s u)
    ∧ (step ≠ tb.step.last ∨ step = 0 →
      ∃ u, exec (.stepStatus c step) s = .next u ∧ Answered u c.mbx .gone 0 [] ∧ SameBut (.mbx :: tells) s u))
  ∧ (∀ (s : State) (t action : Nat) (tb : Table), tableAt (stepAct t action s) t = some tb →
    (action = 2 → tb.step.isOpen = false ∧ tb.step.state = .ended ∧ tb.step.onHold = false)
    ∧ (action = 3 → tb.step.onHold = true ∧ tb.step.state = .heldStep) ∧ (action = 1 → tb.step.onHold = false)
    ∧ (action = 4 → tb.step.onHold = false))
  ∧ (∀ (s v : State) (src : CtrlFrom) (g step action t : Nat) (tb : Table), Arrives s src v →
    (slotOfGlobal v g = none → exec (.stepAbort src g step action) s = .next (irqSettle (lnkDrop v)))
    ∧ (slotOfGlobal v g = some t → tableAt v t = some tb → src.node ∉ membersOf tb →
      exec (.stepAbort src g step action) s = .next (irqSettle (lnkDrop v)))
    ∧ (slotOfGlobal v g = some t → tableAt v t = some tb → src.node ∈ membersOf tb → tb.lead ≠ v.sys.nodeId →
      (tb.step.last ≠ step ∨ step = 0 ∨ tb.step.isOpen = false →
        exec (.stepAbort src g step action) s = .next (irqSettle (ctrlSend src.node 0x808 g step .gone 0 (irqRaise 11 v))))
      ∧ (tb.step.last = step → step ≠ 0 → tb.step.isOpen = true → action = 1 →
        exec (.stepAbort src g step action) s
          = .next (irqSettle (ctrlSend src.node 0x808 g step .ok 0 (contextsLeave (stepContexts (irqRaise 11 v) t) (stepAct t 1 (irqRaise 11 v))))))
      ∧ (tb.step.last = step → step ≠ 0 → tb.step.isOpen = true → action = 2 →
        exec (.stepAbort src g step action) s
          = .next (irqSettle (ctrlSend src.node 0x808 g step .ok 0 (stepAct t 2 (irqRaise 11 v)))))
      ∧ (tb.step.last = step → step ≠ 0 → tb.step.isOpen = true → action = 3 →
        exec (.stepAbort src g step action) s
          = .next (irqSettle (ctrlSend src.node 0x808 g step .ok 0 (preemptHere t (stepAct t 3 (irqRaise 11 v))))))
      ∧ (tb.step.last = step → step ≠ 0 → tb.step.isOpen = true → action = 4 →
        exec (.stepAbort src g step action) s
          = .next (irqSettle (ctrlSend src.node 0x808 g step .ok 0 (resumeHere t (stepAct t 4 (irqRaise 11 v)))))))
    ∧ (slotOfGlobal v g = some t → tableAt v t = some tb → src.node ∈ membersOf tb → tb.lead = v.sys.nodeId → action = 1 ∨ action = 2 →
      (killStatus tb step = .ok →
        exec (.stepAbort src g step action) s
          = .next (irqSettle (ctrlSend src.node 0x808 g step .ok 0 (stepKillLead t action (irqRaise 11 v)))))
      ∧ (∀ st, killStatus tb step = st → st ≠ .ok →
        exec (.stepAbort src g step action) s = .next (irqSettle (ctrlSend src.node 0x808 g step st 0 (irqRaise 11 v))))))
  ∧ (∀ (s : State) (c : Caller) (t : Nat) (tb : Table), Takes s c.mbx .o → OnTable s c t → tableAt s t = some tb →
    (tb.step.isOpen = false →
      exec (.preempt c) s = .next (irqSettle (answer c.mbx { st := .ok } (preemptHere t (taken 0x703 c.mbx s)))))
    ∧ (tb.step.isOpen = true → tb.step.state = .committed →
      ∃ u tb', exec (.preempt c) s = .next u ∧ Answered u c.mbx .ok 0 [] ∧ tableAt u t = some tb' ∧ tb'.preempted = true
        ∧ SameBut (([.mbx, .tables] : List Part) ++ tells) s u)
    ∧ (∀ w, tb.step.isOpen = true → tb.step.state = .open_ → tb.lead = s.sys.nodeId →
        w = preemptHere t (stepKillLead t 3 (taken 0x703 c.mbx s)) →
      ((∀ n ∈ membersOf tb, n = w.sys.nodeId) → exec (.preempt c) s = .next (irqSettle (answer c.mbx { st := .ok } w)))
      ∧ (∀ n ∈ membersOf tb, n ≠ w.sys.nodeId → ∃ u, exec (.preempt c) s = .next (irqSettle u)
          ∧ (∃ a ∈ u.bnd.asked, a.code = 0x703 ∧ a.mbx = c.mbx ∧ a.dst = n ∧ a.globalId = tb.globalId) ∧ SameBut [.bnd] w u))
    ∧ (∀ w, tb.step.onHold = false → w = resumeHere t (taken 0x704 c.mbx s) →
      (hasLost w t = false → exec (.resume c) s = .next (irqSettle (answer c.mbx { st := .ok } w)))
      ∧ (hasLost w t = true → exec (.resume c) s = .next (irqSettle (answer c.mbx { st := .lost } w))))
    ∧ (∀ w, tb.step.onHold = true → tb.lead = s.sys.nodeId → hasLost (resumeHere t (taken 0x704 c.mbx s)) t = false →
        w = stepKillLead t 4 (resumeHere t (taken 0x704 c.mbx s)) →
      ((∀ n ∈ membersOf tb, n = w.sys.nodeId) → exec (.resume c) s = .next (irqSettle (answer c.mbx { st := .ok } w)))
      ∧ (∀ n ∈ membersOf tb, n ≠ w.sys.nodeId → ∃ u, exec (.resume c) s = .next (irqSettle u)
          ∧ (∃ a ∈ u.bnd.asked, a.code = 0x704 ∧ a.mbx = c.mbx ∧ a.dst = n ∧ a.globalId = tb.globalId) ∧ SameBut [.bnd] w u))
    ∧ (ctxsOfTable s t = [] → (∃ tb', tableAt (preemptHere t s) t = some tb' ∧ tb'.preempted = true)
      ∧ ∃ tb', tableAt (resumeHere t s) t = some tb' ∧ tb'.preempted = false))
  ∧ (∀ (s : State) (cx : Handle) (x : Ctx), ctxOf s cx = some x → x.state = .parked →
    ∃ y, ctxOf (ctxSave cx (ctxMod cx (fun x => { x with state := .saved, wasParked := true }) s)) cx = some y ∧ y.state = .saved
      ∧ y.wasParked = true)
  ∧ (∀ (s : State) (c : Caller) (t va len p : Nat), Takes s c.mbx .t → OnTable s c t →
    (va % 65536 ≠ 0 ∨ len % 65536 ≠ 0 ∨ 1 < p ∨ hbRange s t va len = none →
      ∃ u, exec (.publish c va len p) s = .next u ∧ Answered u c.mbx .range 0 [] ∧ SameBut (.mbx :: tells) s u)
    ∧ (∀ i o h, va % 65536 = 0 → len % 65536 = 0 → p ≤ 1 → hbRange s t va len = some (i, o, h) →
        (s.obj.mems.map (fun x => x.1)).Pairwise (· < ·) →
      ∃ w o' h', exec (.publish c va len p) s = .next (irqSettle (shootInternal t va (len / 4096) (.mailbox c.mbx) w))
        ∧ mapGet w.obj.mems i = some o' ∧ o'.hb = some h' ∧ h'.b = h.b
        ∧ (∀ j, j < len / 65536 → (blockOf h' ((va - h.b.va) / 65536 + j)).p = decide (p = 1))
        ∧ SameBut [.mbx, .objects, .store, .memory, .irq, .out, .sends, .ante] s w))

/-- The hand (R413, R415, R556 to R560): a pool is set; a model takes its slot DISCARDED; a load takes free blocks, and its end makes the
model RESIDENT, under the draw of its copy, or answers FAULT; a discard and pins follow the model's state, and a handle that names no model of the table fails. -/
def Obligations.HandRuns : Prop :=
  (∀ (s : State) (c : Caller) (t : Nat) (tb : Table) (pool : Handle), Takes s c.mbx .t → OnTable s c t → tableAt s t = some tb →
    (∀ o, checkOwned s tb.tenant t 3 pool = .ok → memOf s pool = some o → o.state = .live →
      (o.kind = .device → (∀ x ∈ o.extents, x.1 % 2 ^ 21 = 0 ∧ x.2 % 2 ^ 21 = 0) →
        ∃ u, exec (.handSet c pool) s = .next u ∧ Answered u c.mbx .ok 0 [] ∧ tableAt u t = some { tb with hand := pool }
          ∧ SameBut (([.mbx, .tables] : List Part) ++ tells) s u)
      ∧ (o.kind ≠ .device → ∃ u, exec (.handSet c pool) s = .next u ∧ Answered u c.mbx .range 0 [] ∧ SameBut (.mbx :: tells) s u))
    ∧ (∀ st, checkOwned s tb.tenant t 3 pool = st → st ≠ .ok →
      ∃ u, exec (.handSet c pool) s = .next u ∧ Answered u c.mbx st 0 [] ∧ SameBut (.mbx :: tells) s u))
  ∧ (∀ (s : State) (c : Caller) (t : Nat) (b : ModelBody), Takes s c.mbx .t → OnTable s c t →
    (b.backingKind = 0 ∨ 2 < b.backingKind ∨ (backingStatus s t b = .ok ∧ (b.va % 2 ^ 21 ≠ 0 ∨ b.size % 2 ^ 21 ≠ 0 ∨ b.size = 0
        ∨ 2 ^ 38 < b.size ∨ 2 ^ 57 < b.va + b.size
        ∨ ∃ x ∈ s.obj.models, x.2.table = t ∧ b.va < x.2.b.va + x.2.b.size ∧ x.2.b.va < b.va + b.size)) →
      ∃ u, exec (.modelCreate c b) s = .next u ∧ Answered u c.mbx .range 0 [] ∧ SameBut (.mbx :: tells) s u)
    ∧ (∀ (w : State) (i : Nat), b.va % 2 ^ 21 = 0 → b.size % 2 ^ 21 = 0 → 0 < b.size → b.size ≤ 2 ^ 38 → b.va + b.size ≤ 2 ^ 57 →
        backingStatus s t b = .ok → (∀ x ∈ s.obj.mems, x.2.hb = none) → (∀ x ∈ s.obj.models, x.2.table ≠ t) →
        (∀ k, b.va / 2 ^ 30 ≤ k → k * 2 ^ 30 < b.va + b.size → (levelTwo s t (k * 2 ^ 30)).isSome = true) →
        takeSlot s 8 ((tenantOf s t).getD 0) t = some (i, w) →
      ∃ u m, exec (.modelCreate c b) s = .next (irqSettle (answer c.mbx { st := .ok, handle := liveHandle w 8 i }
          (shootInternal t b.va (b.size / 4096) .internal u)))
        ∧ mapGet u.obj.models i = some m ∧ m.table = t ∧ m.b = b ∧ m.state = .discarded ∧ m.blocks = [] ∧ m.pins = 0
        ∧ SameBut [.mbx, .objects, .store, .memory, .irq, .out, .sends, .ante] s u))
  ∧ (∀ (s : State) (c : Caller) (t : Nat) (h : Handle), Takes s c.mbx .t → OnTable s c t →
    (∀ st, modelCheck s t h = .error st → ∀ i ∈ [Instr.modelLoad c h, .modelDiscard c h, .modelPin c h, .modelUnpin c h],
      ∃ u, exec i s = .next u ∧ Answered u c.mbx st 0 [] ∧ SameBut (.mbx :: tells) s u)
    ∧ (∀ i m, modelCheck s t h = .ok i → mapGet s.obj.models i = some m →
      (m.state = .resident → ∃ u, exec (.modelLoad c h) s = .next u ∧ Answered u c.mbx .ok 0 []
        ∧ mapGet u.obj.models i = some { m with lastUse := now s } ∧ SameBut (([.mbx, .objects] : List Part) ++ tells) s u)
      ∧ (m.state = .loading → ∃ u, exec (.modelLoad c h) s = .next u ∧ Unanswered u c.mbx
        ∧ mapGet u.obj.models i = some { m with lastUse := now s, loadFor := m.loadFor ++ [c.mbx] }
        ∧ SameBut (([.mbx, .objects] : List Part) ++ tells) s u)
      ∧ (m.state = .discarding → ∃ u, exec (.modelLoad c h) s = .next u ∧ Unanswered u c.mbx
        ∧ mapGet u.obj.models i = some { m with lastUse := now s, loadFor := m.loadFor ++ [c.mbx], again := true }
        ∧ SameBut (([.mbx, .objects] : List Part) ++ tells) s u)
      ∧ (m.state = .discarded → m.table = t → m.blocks = [] → 2 ^ 21 ≤ m.b.size → m.b.size / 2 ^ 21 ≤ (handFree s t).length →
          (s.obj.models.map (fun x => x.1)).Pairwise (· < ·) → (∀ x ∈ s.obj.models, modelWaits x.2 = false) →
        ∃ u, exec (.modelLoad c h) s = .next u ∧ Unanswered u c.mbx
          ∧ mapGet u.obj.models i = some { m with state := .loading, again := false, lastUse := now s, loadFor := m.loadFor ++ [c.mbx],
                                                  blocks := (handFree s t).take (m.b.size / 2 ^ 21) }
          ∧ SameBut (([.mbx, .objects] : List Part) ++ tells) s u)
      ∧ (m.state = .discarded → ∃ u, exec (.modelDiscard c h) s = .next u ∧ Answered u c.mbx .ok 0 [] ∧ SameBut (.mbx :: tells) s u)
      ∧ (m.state = .loading ∨ (m.state = .resident ∧ modelVictim s i m = false) →
        ∃ u, exec (.modelDiscard c h) s = .next u ∧ Answered u c.mbx .busy 0 [] ∧ SameBut (.mbx :: tells) s u)
      ∧ (m.state = .resident → modelVictim s i m = true → exec (.modelDiscard c h) s
          = .next (irqSettle (modelDrop i (modelMod i (fun x => { x with discardFor := x.discardFor ++ [c.mbx] }) (taken 0x713 c.mbx s)))))
      ∧ (m.state = .discarding → ∃ u, exec (.modelDiscard c h) s = .next u ∧ Unanswered u c.mbx
        ∧ mapGet u.obj.models i = some { m with discardFor := m.discardFor ++ [c.mbx] }
        ∧ SameBut (([.mbx, .objects] : List Part) ++ tells) s u)
      ∧ (0 < m.pins → m.state = .resident → modelVictim s i m = false)
      ∧ (m.pins < 255 → ∃ u, exec (.modelPin c h) s = .next u ∧ Answered u c.mbx .ok 0 []
        ∧ mapGet u.obj.models i = some { m with pins := m.pins + 1 } ∧ SameBut (([.mbx, .objects] : List Part) ++ tells) s u)
      ∧ (255 ≤ m.pins → ∃ u, exec (.modelPin c h) s = .next u ∧ Answered u c.mbx .range 0 [] ∧ SameBut (.mbx :: tells) s u)
      ∧ (0 < m.pins → ∃ u, exec (.modelUnpin c h) s = .next u ∧ Answered u c.mbx .ok 0 []
        ∧ mapGet u.obj.models i = some { m with pins := m.pins - 1 } ∧ SameBut (([.mbx, .objects] : List Part) ++ tells) s u)
      ∧ (m.pins = 0 → ∃ u, exec (.modelUnpin c h) s = .next u ∧ Answered u c.mbx .range 0 [] ∧ SameBut (.mbx :: tells) s u)))
  ∧ (∀ (s : State) (h : Handle) (m : Model) (data : List Byte), Serving s → mapGet s.obj.models (hIdx h) = some m → modelHandle s (hIdx h) = h →
      m.state = .loading → m.blocks ≠ [] → (s.obj.models.map (fun x => x.1)).Pairwise (· < ·) →
      (∀ x ∈ s.obj.models, modelWaits x.2 = false) → modelEntries s m = [] →
    (data.length = m.b.size → (copyTake (modelInst (hIdx h)) false s).1 = true → coreAnswers s = true →
      ∃ u, exec (.modelLoadDone h true data) s = .next u
        ∧ mapGet u.obj.models (hIdx h) = some { m with state := .resident, lastUse := now s, loadFor := [] }
        ∧ (∀ b ∈ m.loadFor, ∃ r, (boxOf u b.val).done = true ∧ (boxOf u b.val).resp = some r ∧ r.status = .ok))
    ∧ (data.length = m.b.size → (copyTake (modelInst (hIdx h)) false s).1 = false →
      exec (.modelLoadDone h true data) s = .next (irqSettle (copyTake (modelInst (hIdx h)) false s).2))
    ∧ (coreAnswers s = true → ∃ u, exec (.modelLoadDone h false data) s = .next u
        ∧ mapGet u.obj.models (hIdx h) = some { m with state := .discarded, blocks := [], loadFor := [] }
        ∧ (∀ b ∈ m.loadFor, ∃ r, (boxOf u b.val).done = true ∧ (boxOf u b.val).resp = some r ∧ r.status = .fault)
        ∧ SameBut (([.mbx, .objects] : List Part) ++ tells) s u))

/-- Power (R529, R561 to R569, R572): the requests set the cap of the next window, the mode, the sensors and the cores' power, or fail
RANGE; the end of a window measures each class and takes the cap that was set; a step down parks idle cores and lowers the rate, and a
step up raises the ante limit before the rate; a phase boundary takes the highest rate that fits; cores are admitted, deferred, turned
on and parked. -/
def Obligations.PowerRuns : Prop :=
  (∀ (s : State) (c : Caller) (a b x y : Nat), Takes s c.mbx .o →
    (400 ≤ a → a ≤ 2000 → ∃ u, exec (.powerCap c a) s = .next u ∧ Answered u c.mbx .ok 0 [] ∧ u.pwr = { s.pwr with capNext := 8 * a }
      ∧ SameBut (([.mbx, .pwr] : List Part) ++ tells) s u)
    ∧ (a < 400 ∨ 2000 < a → ∃ u, exec (.powerCap c a) s = .next u ∧ Answered u c.mbx .range 0 [] ∧ SameBut (.mbx :: tells) s u)
    ∧ (a ≤ 1 → 100 ≤ b → b ≤ 10000 → ∃ u, exec (.powerMode c a b) s = .next u ∧ Answered u c.mbx .ok 0 []
      ∧ u.pwr = { s.pwr with mode := decide (a = 1), periodUs := b } ∧ SameBut (([.mbx, .pwr] : List Part) ++ tells) s u)
    ∧ (1 < a ∨ b < 100 ∨ 10000 < b →
      ∃ u, exec (.powerMode c a b) s = .next u ∧ Answered u c.mbx .range 0 [] ∧ SameBut (.mbx :: tells) s u)
    ∧ (∃ u, exec (.powerClear c) s = .next (irqSettle u) ∧ Answered u c.mbx .ok 0 []
      ∧ u.pwr = { s.pwr with distrust := false, run := 0 } ∧ SameBut [.mbx, .pwr, .irq] s u)
    ∧ (a ≤ 31 → b ≤ 5 → x ≤ 4095 → (s.pwr.sensors.map (fun z => z.1)).Pairwise (· < ·) →
      ∃ u, exec (.sensorCfg c a b x y) s = .next u ∧ Answered u c.mbx .ok 0 []
        ∧ mapGetD u.pwr.sensors a {} = { cls := pwrClass b, mv := x, max := y % 65536 }
        ∧ (∀ k, k ≠ a → mapGetD u.pwr.sensors k {} = mapGetD s.pwr.sensors k {}) ∧ SameBut (([.mbx, .pwr] : List Part) ++ tells) s u)
    ∧ (31 < a ∨ 5 < b ∨ 4095 < x →
      ∃ u, exec (.sensorCfg c a b x y) s = .next u ∧ Answered u c.mbx .range 0 [] ∧ SameBut (.mbx :: tells) s u)
    ∧ (1 ≤ a → a ≤ 255 → 1 ≤ b → b ≤ 1023 → ∃ u, exec (.powerCore c a b) s = .next u ∧ Answered u c.mbx .ok 0 []
      ∧ u.pwr = { s.pwr with parkUs := a, coreMw := b } ∧ SameBut (([.mbx, .pwr] : List Part) ++ tells) s u)
    ∧ (a = 0 ∨ 255 < a ∨ b = 0 ∨ 1023 < b →
      ∃ u, exec (.powerCore c a b) s = .next u ∧ Answered u c.mbx .range 0 [] ∧ SameBut (.mbx :: tells) s u))
  ∧ (∀ s : State, Serving s →
    (now s / 10000 ≤ s.pwr.lastWindow / 10000 → exec .powerWindow s = .next (irqSettle s))
    ∧ (s.pwr.lastWindow / 10000 < now s / 10000 →
      ∃ u, exec .powerWindow s = .next (irqSettle u) ∧ u.pwr.lastWindow = now s
        ∧ u.pwr.link = classPower s .link ∧ u.pwr.memory = classPower s .memory ∧ u.pwr.hub = classPower s .hub
        ∧ u.pwr.compute = classPower s .compute ∧ u.pwr.other = classPower s .other
        ∧ u.pwr.measured = classPower s .link + classPower s .memory + classPower s .hub + classPower s .compute + classPower s .other
        ∧ u.pwr.cap = s.pwr.capNext
        ∧ u.pwr.allowance = s.pwr.capNext - (classPower s .link + classPower s .memory + classPower s .hub + classPower s .other)
        ∧ u.sys.telSum = [] ∧ u.sys.telCount = [] ∧ (pwrConfigured s = false → u.sys.anteLimit = s.sys.anteLimit)
        ∧ (∀ d ∈ u.pwr.deferred, ∃ e ∈ s.pwr.deferred, d.cluster = e.cluster ∧ d.mask = e.mask ∧ d.seen = e.seen + 1 ∧ d.seen < 2)))
  ∧ (∀ (s : State) (package : Nat),
    (s.pwr.compute > s.pwr.allowance → s.pwr.mode = false → (pwrControl package s).pwr.rate = s.pwr.rate - 1)
    ∧ (s.pwr.compute > s.pwr.allowance → s.pwr.rate = 0 → s.pwr.distrust = false →
      (pwrControl package s).sys.anteLimit = max 380 (s.sys.anteLimit - 32))
    ∧ (s.pwr.compute ≤ s.pwr.allowance → package * 100 < 95 * s.pwr.cap → 3 ≤ s.pwr.lowWindows →
      (s.sys.anteLimit < 1520 → s.pwr.distrust = false → (pwrControl package s).sys.anteLimit = min 1520 (s.sys.anteLimit + 32)
        ∧ (pwrControl package s).pwr.rate = s.pwr.rate)
      ∧ (1520 ≤ s.sys.anteLimit → s.pwr.mode = false → s.pwr.rate < 15 → (pwrControl package s).pwr.rate = s.pwr.rate + 1))
    ∧ (s.pwr.compute ≤ s.pwr.allowance → 95 * s.pwr.cap ≤ package * 100 → (pwrControl package s).pwr.rate = s.pwr.rate
      ∧ (pwrControl package s).sys.anteLimit = s.sys.anteLimit ∧ (pwrControl package s).pwr.lowWindows = 0))
  ∧ (∀ s : State, Serving s →
    (s.pwr.mode = false → exec .phaseBoundary s = .next (irqSettle s))
    ∧ (s.pwr.mode = true → phaseOf s (now s) ≠ s.pwr.phaseNow → pwrConfigured s = true →
      ∃ u, exec .phaseBoundary s = .next (irqSettle u) ∧ u.pwr.phaseNow = phaseOf s (now s) ∧ u.pwr.rate ≤ 15
        ∧ (∀ r, r ≤ 15 → mapGetD s.pwr.phases (phaseOf s (now s)) 0 * rateShare r ≤ s.pwr.allowance * 64 → r ≤ u.pwr.rate)
        ∧ (u.pwr.rate ≠ 0 →
            mapGetD s.pwr.phases (phaseOf s (now s)) 0 * rateShare u.pwr.rate ≤ s.pwr.allowance * 64)
        ∧ SameBut [.pwr, .out] s u))
  ∧ (∀ (s : State) (cl : Fin 120) (m : BitVec 64), Serving s → (bindAt s cl.val).state = .bound → m ≠ 0 →
      m.toNat = mapGetD s.pwr.onAsked cl.val 0 → mapGetD s.pwr.onGranted cl.val 0 = 0 → s.pwr.deferred = [] →
    (pwrAdmits s (maskCount m.toNat) = true →
      ∃ u, exec (.coreOnRequest cl m) s = .next (irqSettle u) ∧ Out.coreOn cl.val m.toNat ∈ u.out
        ∧ mapGetD u.pwr.onGranted cl.val 0 = m.toNat ∧ u.pwr.cores = s.pwr.cores ∧ SameBut [.pwr, .out] s u)
    ∧ (pwrAdmits s (maskCount m.toNat) = false →
      ∃ u, exec (.coreOnRequest cl m) s = .next u ∧ u.pwr.deferred = [⟨cl.val, m.toNat, false, 0⟩]
        ∧ u.pwr.cntDefer = sat64 (s.pwr.cntDefer + 1) ∧ SameBut (.pwr :: tells) s u))
  ∧ (∀ (s : State) (cl : Fin 120), Serving s →
    (mapGetD s.pwr.onGranted cl.val 0 = 0 → exec (.coreOnAck cl) s = .next (irqSettle s))
    ∧ (mapGetD s.pwr.onGranted cl.val 0 ≠ 0 → (∀ l ∈ s.obj.launched, l.cluster ≠ cl.val ∨ l.waitCore = false) →
        (s.pwr.onGranted.map (fun x => x.1)).Pairwise (· < ·) →
      ∃ u, exec (.coreOnAck cl) s = .next u ∧ coresOn u cl.val = (coresOn s cl.val ||| mapGetD s.pwr.onGranted cl.val 0)
        ∧ mapGetD u.pwr.onGranted cl.val 0 = 0 ∧ SameBut (.pwr :: tells) s u))
  ∧ (∀ (s : State) (cl : Fin 120) (co : Fin 64), Serving s →
    (coreIdleDue s cl.val co.val = false → exec (.coreIdlePark cl co) s = .next (irqSettle s))
    ∧ (coreIdleDue s cl.val co.val = true → (s.pwr.cores.map (fun x => x.1)).Pairwise (· < ·) →
      ∃ u, exec (.coreIdlePark cl co) s = .next (irqSettle u) ∧ Out.coreOff cl.val (2 ^ co.val) ∈ u.out
        ∧ coresOn u cl.val / 2 ^ co.val % 2 = 0 ∧ (∀ k, k ≠ cl.val → coresOn u k = coresOn s k) ∧ SameBut [.pwr, .out] s u))
end

