-- ==== Sys2Proof/Laws/State.lean ====
section
/-! SUPPORT. What each named update of the state leaves as it is: one lemma per update and field. -/

namespace Sys2Proof.Machine

variable (s : State)

@[simp] theorem emit_sys (o : Out) : (emit o s).sys = s.sys := rfl
@[simp] theorem emit_bnd (o : Out) : (emit o s).bnd = s.bnd := rfl
@[simp] theorem emit_tables (o : Out) : (emit o s).tables = s.tables := rfl
@[simp] theorem emit_trn (o : Out) : (emit o s).trn = s.trn := rfl
@[simp] theorem emit_mem (o : Out) : (emit o s).mem = s.mem := rfl
@[simp] theorem emit_lnk (o : Out) : (emit o s).lnk = s.lnk := rfl
@[simp] theorem emit_nme (o : Out) : (emit o s).nme = s.nme := rfl
@[simp] theorem emit_tck (o : Out) : (emit o s).tck = s.tck := rfl
@[simp] theorem emit_coh (o : Out) : (emit o s).coh = s.coh := rfl
@[simp] theorem emit_obj (o : Out) : (emit o s).obj = s.obj := rfl
@[simp] theorem emit_hif (o : Out) : (emit o s).hif = s.hif := rfl
@[simp] theorem emit_mbx (o : Out) : (emit o s).mbx = s.mbx := rfl
@[simp] theorem emit_pwr (o : Out) : (emit o s).pwr = s.pwr := rfl
@[simp] theorem emit_irq (o : Out) : (emit o s).irq = s.irq := rfl
@[simp] theorem emit_fresh (o : Out) : (emit o s).fresh = s.fresh := rfl
@[simp] theorem emit_pending (o : Out) : (emit o s).pending = s.pending := rfl

@[simp] theorem freshUp_sys : (freshUp s).sys = s.sys := rfl
@[simp] theorem freshUp_bnd : (freshUp s).bnd = s.bnd := rfl
@[simp] theorem freshUp_tables : (freshUp s).tables = s.tables := rfl
@[simp] theorem freshUp_trn : (freshUp s).trn = s.trn := rfl
@[simp] theorem freshUp_mem : (freshUp s).mem = s.mem := rfl
@[simp] theorem freshUp_lnk : (freshUp s).lnk = s.lnk := rfl
@[simp] theorem freshUp_nme : (freshUp s).nme = s.nme := rfl
@[simp] theorem freshUp_tck : (freshUp s).tck = s.tck := rfl
@[simp] theorem freshUp_coh : (freshUp s).coh = s.coh := rfl
@[simp] theorem freshUp_obj : (freshUp s).obj = s.obj := rfl
@[simp] theorem freshUp_hif : (freshUp s).hif = s.hif := rfl
@[simp] theorem freshUp_mbx : (freshUp s).mbx = s.mbx := rfl
@[simp] theorem freshUp_pwr : (freshUp s).pwr = s.pwr := rfl
@[simp] theorem freshUp_irq : (freshUp s).irq = s.irq := rfl
@[simp] theorem freshUp_out : (freshUp s).out = s.out := rfl
@[simp] theorem freshUp_pending : (freshUp s).pending = s.pending := rfl

@[simp] theorem irqRaise_sys (i : Nat) : (irqRaise i s).sys = s.sys := rfl
@[simp] theorem irqRaise_bnd (i : Nat) : (irqRaise i s).bnd = s.bnd := rfl
@[simp] theorem irqRaise_tables (i : Nat) : (irqRaise i s).tables = s.tables := rfl
@[simp] theorem irqRaise_trn (i : Nat) : (irqRaise i s).trn = s.trn := rfl
@[simp] theorem irqRaise_mem (i : Nat) : (irqRaise i s).mem = s.mem := rfl
@[simp] theorem irqRaise_lnk (i : Nat) : (irqRaise i s).lnk = s.lnk := rfl
@[simp] theorem irqRaise_nme (i : Nat) : (irqRaise i s).nme = s.nme := rfl
@[simp] theorem irqRaise_tck (i : Nat) : (irqRaise i s).tck = s.tck := rfl
@[simp] theorem irqRaise_coh (i : Nat) : (irqRaise i s).coh = s.coh := rfl
@[simp] theorem irqRaise_obj (i : Nat) : (irqRaise i s).obj = s.obj := rfl
@[simp] theorem irqRaise_hif (i : Nat) : (irqRaise i s).hif = s.hif := rfl
@[simp] theorem irqRaise_mbx (i : Nat) : (irqRaise i s).mbx = s.mbx := rfl
@[simp] theorem irqRaise_pwr (i : Nat) : (irqRaise i s).pwr = s.pwr := rfl
@[simp] theorem irqRaise_out (i : Nat) : (irqRaise i s).out = s.out := rfl
@[simp] theorem irqRaise_fresh (i : Nat) : (irqRaise i s).fresh = s.fresh := rfl
@[simp] theorem irqRaise_pending (i : Nat) : (irqRaise i s).pending = s.pending := rfl
@[simp] theorem irqRaise_irq_tgts (i : Nat) : (irqRaise i s).irq.tgts = s.irq.tgts := rfl
@[simp] theorem irqRaise_irq_errTarget (i : Nat) : (irqRaise i s).irq.errTarget = s.irq.errTarget := rfl
@[simp] theorem irqRaise_irq_errEvent (i : Nat) : (irqRaise i s).irq.errEvent = s.irq.errEvent := rfl
@[simp] theorem irqRaise_irq_errComplete (i : Nat) : (irqRaise i s).irq.errComplete = s.irq.errComplete := rfl

@[simp] theorem irqSrcMod_sys (i : Nat) (f : IrqSrc → IrqSrc) : (irqSrcMod i f s).sys = s.sys := rfl
@[simp] theorem irqSrcMod_bnd (i : Nat) (f : IrqSrc → IrqSrc) : (irqSrcMod i f s).bnd = s.bnd := rfl
@[simp] theorem irqSrcMod_tables (i : Nat) (f : IrqSrc → IrqSrc) : (irqSrcMod i f s).tables = s.tables := rfl
@[simp] theorem irqSrcMod_trn (i : Nat) (f : IrqSrc → IrqSrc) : (irqSrcMod i f s).trn = s.trn := rfl
@[simp] theorem irqSrcMod_mem (i : Nat) (f : IrqSrc → IrqSrc) : (irqSrcMod i f s).mem = s.mem := rfl
@[simp] theorem irqSrcMod_lnk (i : Nat) (f : IrqSrc → IrqSrc) : (irqSrcMod i f s).lnk = s.lnk := rfl
@[simp] theorem irqSrcMod_nme (i : Nat) (f : IrqSrc → IrqSrc) : (irqSrcMod i f s).nme = s.nme := rfl
@[simp] theorem irqSrcMod_tck (i : Nat) (f : IrqSrc → IrqSrc) : (irqSrcMod i f s).tck = s.tck := rfl
@[simp] theorem irqSrcMod_coh (i : Nat) (f : IrqSrc → IrqSrc) : (irqSrcMod i f s).coh = s.coh := rfl
@[simp] theorem irqSrcMod_obj (i : Nat) (f : IrqSrc → IrqSrc) : (irqSrcMod i f s).obj = s.obj := rfl
@[simp] theorem irqSrcMod_hif (i : Nat) (f : IrqSrc → IrqSrc) : (irqSrcMod i f s).hif = s.hif := rfl
@[simp] theorem irqSrcMod_mbx (i : Nat) (f : IrqSrc → IrqSrc) : (irqSrcMod i f s).mbx = s.mbx := rfl
@[simp] theorem irqSrcMod_pwr (i : Nat) (f : IrqSrc → IrqSrc) : (irqSrcMod i f s).pwr = s.pwr := rfl
@[simp] theorem irqSrcMod_out (i : Nat) (f : IrqSrc → IrqSrc) : (irqSrcMod i f s).out = s.out := rfl
@[simp] theorem irqSrcMod_fresh (i : Nat) (f : IrqSrc → IrqSrc) : (irqSrcMod i f s).fresh = s.fresh := rfl
@[simp] theorem irqSrcMod_pending (i : Nat) (f : IrqSrc → IrqSrc) : (irqSrcMod i f s).pending = s.pending := rfl
@[simp] theorem irqSrcMod_irq_tgts (i : Nat) (f : IrqSrc → IrqSrc) : (irqSrcMod i f s).irq.tgts = s.irq.tgts := rfl
@[simp] theorem irqSrcMod_irq_errTarget (i : Nat) (f : IrqSrc → IrqSrc) : (irqSrcMod i f s).irq.errTarget = s.irq.errTarget := rfl
@[simp] theorem irqSrcMod_irq_errEvent (i : Nat) (f : IrqSrc → IrqSrc) : (irqSrcMod i f s).irq.errEvent = s.irq.errEvent := rfl
@[simp] theorem irqSrcMod_irq_errComplete (i : Nat) (f : IrqSrc → IrqSrc) : (irqSrcMod i f s).irq.errComplete = s.irq.errComplete := rfl

@[simp] theorem irqTgtMod_sys (i : Nat) (f : IrqTgt → IrqTgt) : (irqTgtMod i f s).sys = s.sys := rfl
@[simp] theorem irqTgtMod_bnd (i : Nat) (f : IrqTgt → IrqTgt) : (irqTgtMod i f s).bnd = s.bnd := rfl
@[simp] theorem irqTgtMod_tables (i : Nat) (f : IrqTgt → IrqTgt) : (irqTgtMod i f s).tables = s.tables := rfl
@[simp] theorem irqTgtMod_trn (i : Nat) (f : IrqTgt → IrqTgt) : (irqTgtMod i f s).trn = s.trn := rfl
@[simp] theorem irqTgtMod_mem (i : Nat) (f : IrqTgt → IrqTgt) : (irqTgtMod i f s).mem = s.mem := rfl
@[simp] theorem irqTgtMod_lnk (i : Nat) (f : IrqTgt → IrqTgt) : (irqTgtMod i f s).lnk = s.lnk := rfl
@[simp] theorem irqTgtMod_nme (i : Nat) (f : IrqTgt → IrqTgt) : (irqTgtMod i f s).nme = s.nme := rfl
@[simp] theorem irqTgtMod_tck (i : Nat) (f : IrqTgt → IrqTgt) : (irqTgtMod i f s).tck = s.tck := rfl
@[simp] theorem irqTgtMod_coh (i : Nat) (f : IrqTgt → IrqTgt) : (irqTgtMod i f s).coh = s.coh := rfl
@[simp] theorem irqTgtMod_obj (i : Nat) (f : IrqTgt → IrqTgt) : (irqTgtMod i f s).obj = s.obj := rfl
@[simp] theorem irqTgtMod_hif (i : Nat) (f : IrqTgt → IrqTgt) : (irqTgtMod i f s).hif = s.hif := rfl
@[simp] theorem irqTgtMod_mbx (i : Nat) (f : IrqTgt → IrqTgt) : (irqTgtMod i f s).mbx = s.mbx := rfl
@[simp] theorem irqTgtMod_pwr (i : Nat) (f : IrqTgt → IrqTgt) : (irqTgtMod i f s).pwr = s.pwr := rfl
@[simp] theorem irqTgtMod_out (i : Nat) (f : IrqTgt → IrqTgt) : (irqTgtMod i f s).out = s.out := rfl
@[simp] theorem irqTgtMod_fresh (i : Nat) (f : IrqTgt → IrqTgt) : (irqTgtMod i f s).fresh = s.fresh := rfl
@[simp] theorem irqTgtMod_pending (i : Nat) (f : IrqTgt → IrqTgt) : (irqTgtMod i f s).pending = s.pending := rfl
@[simp] theorem irqTgtMod_irq_srcs (i : Nat) (f : IrqTgt → IrqTgt) : (irqTgtMod i f s).irq.srcs = s.irq.srcs := rfl
@[simp] theorem irqTgtMod_irq_errTarget (i : Nat) (f : IrqTgt → IrqTgt) : (irqTgtMod i f s).irq.errTarget = s.irq.errTarget := rfl
@[simp] theorem irqTgtMod_irq_errEvent (i : Nat) (f : IrqTgt → IrqTgt) : (irqTgtMod i f s).irq.errEvent = s.irq.errEvent := rfl
@[simp] theorem irqTgtMod_irq_errComplete (i : Nat) (f : IrqTgt → IrqTgt) : (irqTgtMod i f s).irq.errComplete = s.irq.errComplete := rfl

@[simp] theorem swErrSet_bnd (b o : Nat) : (swErrSet b o s).bnd = s.bnd := rfl
@[simp] theorem swErrSet_tables (b o : Nat) : (swErrSet b o s).tables = s.tables := rfl
@[simp] theorem swErrSet_trn (b o : Nat) : (swErrSet b o s).trn = s.trn := rfl
@[simp] theorem swErrSet_mem (b o : Nat) : (swErrSet b o s).mem = s.mem := rfl
@[simp] theorem swErrSet_lnk (b o : Nat) : (swErrSet b o s).lnk = s.lnk := rfl
@[simp] theorem swErrSet_nme (b o : Nat) : (swErrSet b o s).nme = s.nme := rfl
@[simp] theorem swErrSet_tck (b o : Nat) : (swErrSet b o s).tck = s.tck := rfl
@[simp] theorem swErrSet_coh (b o : Nat) : (swErrSet b o s).coh = s.coh := rfl
@[simp] theorem swErrSet_obj (b o : Nat) : (swErrSet b o s).obj = s.obj := rfl
@[simp] theorem swErrSet_hif (b o : Nat) : (swErrSet b o s).hif = s.hif := rfl
@[simp] theorem swErrSet_mbx (b o : Nat) : (swErrSet b o s).mbx = s.mbx := rfl
@[simp] theorem swErrSet_pwr (b o : Nat) : (swErrSet b o s).pwr = s.pwr := rfl
@[simp] theorem swErrSet_out (b o : Nat) : (swErrSet b o s).out = s.out := rfl
@[simp] theorem swErrSet_fresh (b o : Nat) : (swErrSet b o s).fresh = s.fresh := rfl
@[simp] theorem swErrSet_pending (b o : Nat) : (swErrSet b o s).pending = s.pending := rfl
@[simp] theorem swErrSet_sys_phase (b o : Nat) : (swErrSet b o s).sys.phase = s.sys.phase := rfl
@[simp] theorem swErrSet_sys_stopped (b o : Nat) : (swErrSet b o s).sys.stopped = s.sys.stopped := rfl
@[simp] theorem swErrSet_sys_time (b o : Nat) : (swErrSet b o s).sys.time = s.sys.time := rfl
@[simp] theorem swErrSet_sys_timeRuns (b o : Nat) : (swErrSet b o s).sys.timeRuns = s.sys.timeRuns := rfl

@[simp] theorem anteFreeDraw_bnd (c i : Nat) : (anteFreeDraw c i s).bnd = s.bnd := rfl
@[simp] theorem anteFreeDraw_tables (c i : Nat) : (anteFreeDraw c i s).tables = s.tables := rfl
@[simp] theorem anteFreeDraw_trn (c i : Nat) : (anteFreeDraw c i s).trn = s.trn := rfl
@[simp] theorem anteFreeDraw_mem (c i : Nat) : (anteFreeDraw c i s).mem = s.mem := rfl
@[simp] theorem anteFreeDraw_lnk (c i : Nat) : (anteFreeDraw c i s).lnk = s.lnk := rfl
@[simp] theorem anteFreeDraw_nme (c i : Nat) : (anteFreeDraw c i s).nme = s.nme := rfl
@[simp] theorem anteFreeDraw_tck (c i : Nat) : (anteFreeDraw c i s).tck = s.tck := rfl
@[simp] theorem anteFreeDraw_coh (c i : Nat) : (anteFreeDraw c i s).coh = s.coh := rfl
@[simp] theorem anteFreeDraw_obj (c i : Nat) : (anteFreeDraw c i s).obj = s.obj := rfl
@[simp] theorem anteFreeDraw_hif (c i : Nat) : (anteFreeDraw c i s).hif = s.hif := rfl
@[simp] theorem anteFreeDraw_mbx (c i : Nat) : (anteFreeDraw c i s).mbx = s.mbx := rfl
@[simp] theorem anteFreeDraw_pwr (c i : Nat) : (anteFreeDraw c i s).pwr = s.pwr := rfl
@[simp] theorem anteFreeDraw_irq (c i : Nat) : (anteFreeDraw c i s).irq = s.irq := rfl
@[simp] theorem anteFreeDraw_out (c i : Nat) : (anteFreeDraw c i s).out = s.out := rfl
@[simp] theorem anteFreeDraw_fresh (c i : Nat) : (anteFreeDraw c i s).fresh = s.fresh := rfl
@[simp] theorem anteFreeDraw_pending (c i : Nat) : (anteFreeDraw c i s).pending = s.pending := rfl
@[simp] theorem anteFreeDraw_sys_phase (c i : Nat) : (anteFreeDraw c i s).sys.phase = s.sys.phase := rfl
@[simp] theorem anteFreeDraw_sys_stopped (c i : Nat) : (anteFreeDraw c i s).sys.stopped = s.sys.stopped := rfl
@[simp] theorem anteFreeDraw_sys_time (c i : Nat) : (anteFreeDraw c i s).sys.time = s.sys.time := rfl
@[simp] theorem anteFreeDraw_sys_timeRuns (c i : Nat) : (anteFreeDraw c i s).sys.timeRuns = s.sys.timeRuns := rfl
@[simp] theorem anteFreeDraw_sys_nodeId (c i : Nat) : (anteFreeDraw c i s).sys.nodeId = s.sys.nodeId := rfl
@[simp] theorem anteFreeDraw_sys_anteWait (c i : Nat) : (anteFreeDraw c i s).sys.anteWait = s.sys.anteWait := rfl

@[simp] theorem phaseTo_bnd (p : Phase) : (phaseTo p s).bnd = s.bnd := rfl
@[simp] theorem phaseTo_tables (p : Phase) : (phaseTo p s).tables = s.tables := rfl
@[simp] theorem phaseTo_trn (p : Phase) : (phaseTo p s).trn = s.trn := rfl
@[simp] theorem phaseTo_mem (p : Phase) : (phaseTo p s).mem = s.mem := rfl
@[simp] theorem phaseTo_lnk (p : Phase) : (phaseTo p s).lnk = s.lnk := rfl
@[simp] theorem phaseTo_nme (p : Phase) : (phaseTo p s).nme = s.nme := rfl
@[simp] theorem phaseTo_tck (p : Phase) : (phaseTo p s).tck = s.tck := rfl
@[simp] theorem phaseTo_coh (p : Phase) : (phaseTo p s).coh = s.coh := rfl
@[simp] theorem phaseTo_obj (p : Phase) : (phaseTo p s).obj = s.obj := rfl
@[simp] theorem phaseTo_hif (p : Phase) : (phaseTo p s).hif = s.hif := rfl
@[simp] theorem phaseTo_mbx (p : Phase) : (phaseTo p s).mbx = s.mbx := rfl
@[simp] theorem phaseTo_pwr (p : Phase) : (phaseTo p s).pwr = s.pwr := rfl
@[simp] theorem phaseTo_irq (p : Phase) : (phaseTo p s).irq = s.irq := rfl
@[simp] theorem phaseTo_out (p : Phase) : (phaseTo p s).out = s.out := rfl
@[simp] theorem phaseTo_fresh (p : Phase) : (phaseTo p s).fresh = s.fresh := rfl
@[simp] theorem phaseTo_pending (p : Phase) : (phaseTo p s).pending = s.pending := rfl
@[simp] theorem phaseTo_sys_stopped (p : Phase) : (phaseTo p s).sys.stopped = s.sys.stopped := rfl
@[simp] theorem phaseTo_sys_time (p : Phase) : (phaseTo p s).sys.time = s.sys.time := rfl
@[simp] theorem phaseTo_sys_timeRuns (p : Phase) : (phaseTo p s).sys.timeRuns = s.sys.timeRuns := rfl
@[simp] theorem phaseTo_sys_fuse (p : Phase) : (phaseTo p s).sys.fuse = s.sys.fuse := rfl
@[simp] theorem phaseTo_sys_nodeId (p : Phase) : (phaseTo p s).sys.nodeId = s.sys.nodeId := rfl

@[simp] theorem acquireOn_bnd (p : Nat) (x : TimeState) : (acquireOn p x s).bnd = s.bnd := rfl
@[simp] theorem acquireOn_tables (p : Nat) (x : TimeState) : (acquireOn p x s).tables = s.tables := rfl
@[simp] theorem acquireOn_trn (p : Nat) (x : TimeState) : (acquireOn p x s).trn = s.trn := rfl
@[simp] theorem acquireOn_mem (p : Nat) (x : TimeState) : (acquireOn p x s).mem = s.mem := rfl
@[simp] theorem acquireOn_lnk (p : Nat) (x : TimeState) : (acquireOn p x s).lnk = s.lnk := rfl
@[simp] theorem acquireOn_nme (p : Nat) (x : TimeState) : (acquireOn p x s).nme = s.nme := rfl
@[simp] theorem acquireOn_tck (p : Nat) (x : TimeState) : (acquireOn p x s).tck = s.tck := rfl
@[simp] theorem acquireOn_coh (p : Nat) (x : TimeState) : (acquireOn p x s).coh = s.coh := rfl
@[simp] theorem acquireOn_obj (p : Nat) (x : TimeState) : (acquireOn p x s).obj = s.obj := rfl
@[simp] theorem acquireOn_hif (p : Nat) (x : TimeState) : (acquireOn p x s).hif = s.hif := rfl
@[simp] theorem acquireOn_mbx (p : Nat) (x : TimeState) : (acquireOn p x s).mbx = s.mbx := rfl
@[simp] theorem acquireOn_pwr (p : Nat) (x : TimeState) : (acquireOn p x s).pwr = s.pwr := rfl
@[simp] theorem acquireOn_irq (p : Nat) (x : TimeState) : (acquireOn p x s).irq = s.irq := rfl
@[simp] theorem acquireOn_out (p : Nat) (x : TimeState) : (acquireOn p x s).out = s.out := rfl
@[simp] theorem acquireOn_fresh (p : Nat) (x : TimeState) : (acquireOn p x s).fresh = s.fresh := rfl
@[simp] theorem acquireOn_pending (p : Nat) (x : TimeState) : (acquireOn p x s).pending = s.pending := rfl

@[simp] theorem tableMod_sys (t : Nat) (f : Table → Table) : (tableMod t f s).sys = s.sys := rfl
@[simp] theorem tableMod_bnd (t : Nat) (f : Table → Table) : (tableMod t f s).bnd = s.bnd := rfl
@[simp] theorem tableMod_trn (t : Nat) (f : Table → Table) : (tableMod t f s).trn = s.trn := rfl
@[simp] theorem tableMod_mem (t : Nat) (f : Table → Table) : (tableMod t f s).mem = s.mem := rfl
@[simp] theorem tableMod_lnk (t : Nat) (f : Table → Table) : (tableMod t f s).lnk = s.lnk := rfl
@[simp] theorem tableMod_nme (t : Nat) (f : Table → Table) : (tableMod t f s).nme = s.nme := rfl
@[simp] theorem tableMod_tck (t : Nat) (f : Table → Table) : (tableMod t f s).tck = s.tck := rfl
@[simp] theorem tableMod_coh (t : Nat) (f : Table → Table) : (tableMod t f s).coh = s.coh := rfl
@[simp] theorem tableMod_obj (t : Nat) (f : Table → Table) : (tableMod t f s).obj = s.obj := rfl
@[simp] theorem tableMod_hif (t : Nat) (f : Table → Table) : (tableMod t f s).hif = s.hif := rfl
@[simp] theorem tableMod_mbx (t : Nat) (f : Table → Table) : (tableMod t f s).mbx = s.mbx := rfl
@[simp] theorem tableMod_pwr (t : Nat) (f : Table → Table) : (tableMod t f s).pwr = s.pwr := rfl
@[simp] theorem tableMod_irq (t : Nat) (f : Table → Table) : (tableMod t f s).irq = s.irq := rfl
@[simp] theorem tableMod_out (t : Nat) (f : Table → Table) : (tableMod t f s).out = s.out := rfl
@[simp] theorem tableMod_fresh (t : Nat) (f : Table → Table) : (tableMod t f s).fresh = s.fresh := rfl
@[simp] theorem tableMod_pending (t : Nat) (f : Table → Table) : (tableMod t f s).pending = s.pending := rfl

@[simp] theorem bindPut_sys (i : Nat) (b : Binding) : (bindPut i b s).sys = s.sys := rfl
@[simp] theorem bindPut_tables (i : Nat) (b : Binding) : (bindPut i b s).tables = s.tables := rfl
@[simp] theorem bindPut_trn (i : Nat) (b : Binding) : (bindPut i b s).trn = s.trn := rfl
@[simp] theorem bindPut_mem (i : Nat) (b : Binding) : (bindPut i b s).mem = s.mem := rfl
@[simp] theorem bindPut_lnk (i : Nat) (b : Binding) : (bindPut i b s).lnk = s.lnk := rfl
@[simp] theorem bindPut_nme (i : Nat) (b : Binding) : (bindPut i b s).nme = s.nme := rfl
@[simp] theorem bindPut_tck (i : Nat) (b : Binding) : (bindPut i b s).tck = s.tck := rfl
@[simp] theorem bindPut_coh (i : Nat) (b : Binding) : (bindPut i b s).coh = s.coh := rfl
@[simp] theorem bindPut_obj (i : Nat) (b : Binding) : (bindPut i b s).obj = s.obj := rfl
@[simp] theorem bindPut_hif (i : Nat) (b : Binding) : (bindPut i b s).hif = s.hif := rfl
@[simp] theorem bindPut_mbx (i : Nat) (b : Binding) : (bindPut i b s).mbx = s.mbx := rfl
@[simp] theorem bindPut_pwr (i : Nat) (b : Binding) : (bindPut i b s).pwr = s.pwr := rfl
@[simp] theorem bindPut_irq (i : Nat) (b : Binding) : (bindPut i b s).irq = s.irq := rfl
@[simp] theorem bindPut_out (i : Nat) (b : Binding) : (bindPut i b s).out = s.out := rfl
@[simp] theorem bindPut_fresh (i : Nat) (b : Binding) : (bindPut i b s).fresh = s.fresh := rfl
@[simp] theorem bindPut_pending (i : Nat) (b : Binding) : (bindPut i b s).pending = s.pending := rfl

@[simp] theorem staleCount_sys : (staleCount s).sys = s.sys := rfl
@[simp] theorem staleCount_tables : (staleCount s).tables = s.tables := rfl
@[simp] theorem staleCount_trn : (staleCount s).trn = s.trn := rfl
@[simp] theorem staleCount_mem : (staleCount s).mem = s.mem := rfl
@[simp] theorem staleCount_lnk : (staleCount s).lnk = s.lnk := rfl
@[simp] theorem staleCount_nme : (staleCount s).nme = s.nme := rfl
@[simp] theorem staleCount_tck : (staleCount s).tck = s.tck := rfl
@[simp] theorem staleCount_coh : (staleCount s).coh = s.coh := rfl
@[simp] theorem staleCount_obj : (staleCount s).obj = s.obj := rfl
@[simp] theorem staleCount_hif : (staleCount s).hif = s.hif := rfl
@[simp] theorem staleCount_mbx : (staleCount s).mbx = s.mbx := rfl
@[simp] theorem staleCount_pwr : (staleCount s).pwr = s.pwr := rfl
@[simp] theorem staleCount_irq : (staleCount s).irq = s.irq := rfl
@[simp] theorem staleCount_out : (staleCount s).out = s.out := rfl
@[simp] theorem staleCount_fresh : (staleCount s).fresh = s.fresh := rfl
@[simp] theorem staleCount_pending : (staleCount s).pending = s.pending := rfl

@[simp] theorem trnMod_sys (f : TrnSt → TrnSt) : (trnMod f s).sys = s.sys := rfl
@[simp] theorem trnMod_bnd (f : TrnSt → TrnSt) : (trnMod f s).bnd = s.bnd := rfl
@[simp] theorem trnMod_tables (f : TrnSt → TrnSt) : (trnMod f s).tables = s.tables := rfl
@[simp] theorem trnMod_mem (f : TrnSt → TrnSt) : (trnMod f s).mem = s.mem := rfl
@[simp] theorem trnMod_lnk (f : TrnSt → TrnSt) : (trnMod f s).lnk = s.lnk := rfl
@[simp] theorem trnMod_nme (f : TrnSt → TrnSt) : (trnMod f s).nme = s.nme := rfl
@[simp] theorem trnMod_tck (f : TrnSt → TrnSt) : (trnMod f s).tck = s.tck := rfl
@[simp] theorem trnMod_coh (f : TrnSt → TrnSt) : (trnMod f s).coh = s.coh := rfl
@[simp] theorem trnMod_obj (f : TrnSt → TrnSt) : (trnMod f s).obj = s.obj := rfl
@[simp] theorem trnMod_hif (f : TrnSt → TrnSt) : (trnMod f s).hif = s.hif := rfl
@[simp] theorem trnMod_mbx (f : TrnSt → TrnSt) : (trnMod f s).mbx = s.mbx := rfl
@[simp] theorem trnMod_pwr (f : TrnSt → TrnSt) : (trnMod f s).pwr = s.pwr := rfl
@[simp] theorem trnMod_irq (f : TrnSt → TrnSt) : (trnMod f s).irq = s.irq := rfl
@[simp] theorem trnMod_out (f : TrnSt → TrnSt) : (trnMod f s).out = s.out := rfl
@[simp] theorem trnMod_fresh (f : TrnSt → TrnSt) : (trnMod f s).fresh = s.fresh := rfl
@[simp] theorem trnMod_pending (f : TrnSt → TrnSt) : (trnMod f s).pending = s.pending := rfl

@[simp] theorem stackMod_sys (k : Nat) (f : StackSt → StackSt) : (stackMod k f s).sys = s.sys := rfl
@[simp] theorem stackMod_bnd (k : Nat) (f : StackSt → StackSt) : (stackMod k f s).bnd = s.bnd := rfl
@[simp] theorem stackMod_tables (k : Nat) (f : StackSt → StackSt) : (stackMod k f s).tables = s.tables := rfl
@[simp] theorem stackMod_trn (k : Nat) (f : StackSt → StackSt) : (stackMod k f s).trn = s.trn := rfl
@[simp] theorem stackMod_lnk (k : Nat) (f : StackSt → StackSt) : (stackMod k f s).lnk = s.lnk := rfl
@[simp] theorem stackMod_nme (k : Nat) (f : StackSt → StackSt) : (stackMod k f s).nme = s.nme := rfl
@[simp] theorem stackMod_tck (k : Nat) (f : StackSt → StackSt) : (stackMod k f s).tck = s.tck := rfl
@[simp] theorem stackMod_coh (k : Nat) (f : StackSt → StackSt) : (stackMod k f s).coh = s.coh := rfl
@[simp] theorem stackMod_obj (k : Nat) (f : StackSt → StackSt) : (stackMod k f s).obj = s.obj := rfl
@[simp] theorem stackMod_hif (k : Nat) (f : StackSt → StackSt) : (stackMod k f s).hif = s.hif := rfl
@[simp] theorem stackMod_mbx (k : Nat) (f : StackSt → StackSt) : (stackMod k f s).mbx = s.mbx := rfl
@[simp] theorem stackMod_pwr (k : Nat) (f : StackSt → StackSt) : (stackMod k f s).pwr = s.pwr := rfl
@[simp] theorem stackMod_irq (k : Nat) (f : StackSt → StackSt) : (stackMod k f s).irq = s.irq := rfl
@[simp] theorem stackMod_out (k : Nat) (f : StackSt → StackSt) : (stackMod k f s).out = s.out := rfl
@[simp] theorem stackMod_fresh (k : Nat) (f : StackSt → StackSt) : (stackMod k f s).fresh = s.fresh := rfl
@[simp] theorem stackMod_pending (k : Nat) (f : StackSt → StackSt) : (stackMod k f s).pending = s.pending := rfl
@[simp] theorem stackMod_mem_cells (k : Nat) (f : StackSt → StackSt) : (stackMod k f s).mem.cells = s.mem.cells := rfl
@[simp] theorem stackMod_mem_keyOf (k : Nat) (f : StackSt → StackSt) : (stackMod k f s).mem.keyOf = s.mem.keyOf := rfl
@[simp] theorem stackMod_mem_poison (k : Nat) (f : StackSt → StackSt) : (stackMod k f s).mem.poison = s.mem.poison := rfl
@[simp] theorem stackMod_mem_keys (k : Nat) (f : StackSt → StackSt) : (stackMod k f s).mem.keys = s.mem.keys := rfl
@[simp] theorem stackMod_mem_rowLocal (k : Nat) (f : StackSt → StackSt) : (stackMod k f s).mem.rowLocal = s.mem.rowLocal := rfl
@[simp] theorem stackMod_mem_scrubs (k : Nat) (f : StackSt → StackSt) : (stackMod k f s).mem.scrubs = s.mem.scrubs := rfl

@[simp] theorem poisonPut_sys (k r : Nat) (p : Bool) : (poisonPut k r p s).sys = s.sys := rfl
@[simp] theorem poisonPut_bnd (k r : Nat) (p : Bool) : (poisonPut k r p s).bnd = s.bnd := rfl
@[simp] theorem poisonPut_tables (k r : Nat) (p : Bool) : (poisonPut k r p s).tables = s.tables := rfl
@[simp] theorem poisonPut_trn (k r : Nat) (p : Bool) : (poisonPut k r p s).trn = s.trn := rfl
@[simp] theorem poisonPut_lnk (k r : Nat) (p : Bool) : (poisonPut k r p s).lnk = s.lnk := rfl
@[simp] theorem poisonPut_nme (k r : Nat) (p : Bool) : (poisonPut k r p s).nme = s.nme := rfl
@[simp] theorem poisonPut_tck (k r : Nat) (p : Bool) : (poisonPut k r p s).tck = s.tck := rfl
@[simp] theorem poisonPut_coh (k r : Nat) (p : Bool) : (poisonPut k r p s).coh = s.coh := rfl
@[simp] theorem poisonPut_obj (k r : Nat) (p : Bool) : (poisonPut k r p s).obj = s.obj := rfl
@[simp] theorem poisonPut_hif (k r : Nat) (p : Bool) : (poisonPut k r p s).hif = s.hif := rfl
@[simp] theorem poisonPut_mbx (k r : Nat) (p : Bool) : (poisonPut k r p s).mbx = s.mbx := rfl
@[simp] theorem poisonPut_pwr (k r : Nat) (p : Bool) : (poisonPut k r p s).pwr = s.pwr := rfl
@[simp] theorem poisonPut_irq (k r : Nat) (p : Bool) : (poisonPut k r p s).irq = s.irq := rfl
@[simp] theorem poisonPut_out (k r : Nat) (p : Bool) : (poisonPut k r p s).out = s.out := rfl
@[simp] theorem poisonPut_fresh (k r : Nat) (p : Bool) : (poisonPut k r p s).fresh = s.fresh := rfl
@[simp] theorem poisonPut_pending (k r : Nat) (p : Bool) : (poisonPut k r p s).pending = s.pending := rfl
@[simp] theorem poisonPut_mem_stk (k r : Nat) (p : Bool) : (poisonPut k r p s).mem.stk = s.mem.stk := rfl
@[simp] theorem poisonPut_mem_cells (k r : Nat) (p : Bool) : (poisonPut k r p s).mem.cells = s.mem.cells := rfl
@[simp] theorem poisonPut_mem_keyOf (k r : Nat) (p : Bool) : (poisonPut k r p s).mem.keyOf = s.mem.keyOf := rfl
@[simp] theorem poisonPut_mem_keys (k r : Nat) (p : Bool) : (poisonPut k r p s).mem.keys = s.mem.keys := rfl
@[simp] theorem poisonPut_mem_rowLocal (k r : Nat) (p : Bool) : (poisonPut k r p s).mem.rowLocal = s.mem.rowLocal := rfl
@[simp] theorem poisonPut_mem_scrubs (k r : Nat) (p : Bool) : (poisonPut k r p s).mem.scrubs = s.mem.scrubs := rfl

@[simp] theorem clearRange_sys (a b : Nat) : (clearRange a b s).sys = s.sys := rfl
@[simp] theorem clearRange_bnd (a b : Nat) : (clearRange a b s).bnd = s.bnd := rfl
@[simp] theorem clearRange_tables (a b : Nat) : (clearRange a b s).tables = s.tables := rfl
@[simp] theorem clearRange_trn (a b : Nat) : (clearRange a b s).trn = s.trn := rfl
@[simp] theorem clearRange_lnk (a b : Nat) : (clearRange a b s).lnk = s.lnk := rfl
@[simp] theorem clearRange_nme (a b : Nat) : (clearRange a b s).nme = s.nme := rfl
@[simp] theorem clearRange_tck (a b : Nat) : (clearRange a b s).tck = s.tck := rfl
@[simp] theorem clearRange_coh (a b : Nat) : (clearRange a b s).coh = s.coh := rfl
@[simp] theorem clearRange_obj (a b : Nat) : (clearRange a b s).obj = s.obj := rfl
@[simp] theorem clearRange_hif (a b : Nat) : (clearRange a b s).hif = s.hif := rfl
@[simp] theorem clearRange_mbx (a b : Nat) : (clearRange a b s).mbx = s.mbx := rfl
@[simp] theorem clearRange_pwr (a b : Nat) : (clearRange a b s).pwr = s.pwr := rfl
@[simp] theorem clearRange_irq (a b : Nat) : (clearRange a b s).irq = s.irq := rfl
@[simp] theorem clearRange_out (a b : Nat) : (clearRange a b s).out = s.out := rfl
@[simp] theorem clearRange_fresh (a b : Nat) : (clearRange a b s).fresh = s.fresh := rfl
@[simp] theorem clearRange_pending (a b : Nat) : (clearRange a b s).pending = s.pending := rfl
@[simp] theorem clearRange_mem_stk (a b : Nat) : (clearRange a b s).mem.stk = s.mem.stk := rfl
@[simp] theorem clearRange_mem_poison (a b : Nat) : (clearRange a b s).mem.poison = s.mem.poison := rfl
@[simp] theorem clearRange_mem_keys (a b : Nat) : (clearRange a b s).mem.keys = s.mem.keys := rfl
@[simp] theorem clearRange_mem_rowLocal (a b : Nat) : (clearRange a b s).mem.rowLocal = s.mem.rowLocal := rfl
@[simp] theorem clearRange_mem_scrubs (a b : Nat) : (clearRange a b s).mem.scrubs = s.mem.scrubs := rfl

@[simp] theorem lnkPortMod_sys (p : Nat) (f : LinkPort → LinkPort) : (lnkPortMod p f s).sys = s.sys := rfl
@[simp] theorem lnkPortMod_bnd (p : Nat) (f : LinkPort → LinkPort) : (lnkPortMod p f s).bnd = s.bnd := rfl
@[simp] theorem lnkPortMod_tables (p : Nat) (f : LinkPort → LinkPort) : (lnkPortMod p f s).tables = s.tables := rfl
@[simp] theorem lnkPortMod_trn (p : Nat) (f : LinkPort → LinkPort) : (lnkPortMod p f s).trn = s.trn := rfl
@[simp] theorem lnkPortMod_mem (p : Nat) (f : LinkPort → LinkPort) : (lnkPortMod p f s).mem = s.mem := rfl
@[simp] theorem lnkPortMod_nme (p : Nat) (f : LinkPort → LinkPort) : (lnkPortMod p f s).nme = s.nme := rfl
@[simp] theorem lnkPortMod_tck (p : Nat) (f : LinkPort → LinkPort) : (lnkPortMod p f s).tck = s.tck := rfl
@[simp] theorem lnkPortMod_coh (p : Nat) (f : LinkPort → LinkPort) : (lnkPortMod p f s).coh = s.coh := rfl
@[simp] theorem lnkPortMod_obj (p : Nat) (f : LinkPort → LinkPort) : (lnkPortMod p f s).obj = s.obj := rfl
@[simp] theorem lnkPortMod_hif (p : Nat) (f : LinkPort → LinkPort) : (lnkPortMod p f s).hif = s.hif := rfl
@[simp] theorem lnkPortMod_mbx (p : Nat) (f : LinkPort → LinkPort) : (lnkPortMod p f s).mbx = s.mbx := rfl
@[simp] theorem lnkPortMod_pwr (p : Nat) (f : LinkPort → LinkPort) : (lnkPortMod p f s).pwr = s.pwr := rfl
@[simp] theorem lnkPortMod_irq (p : Nat) (f : LinkPort → LinkPort) : (lnkPortMod p f s).irq = s.irq := rfl
@[simp] theorem lnkPortMod_out (p : Nat) (f : LinkPort → LinkPort) : (lnkPortMod p f s).out = s.out := rfl
@[simp] theorem lnkPortMod_fresh (p : Nat) (f : LinkPort → LinkPort) : (lnkPortMod p f s).fresh = s.fresh := rfl
@[simp] theorem lnkPortMod_pending (p : Nat) (f : LinkPort → LinkPort) : (lnkPortMod p f s).pending = s.pending := rfl
@[simp] theorem lnkPortMod_lnk_tx (p : Nat) (f : LinkPort → LinkPort) : (lnkPortMod p f s).lnk.tx = s.lnk.tx := rfl
@[simp] theorem lnkPortMod_lnk_rx (p : Nat) (f : LinkPort → LinkPort) : (lnkPortMod p f s).lnk.rx = s.lnk.rx := rfl
@[simp] theorem lnkPortMod_lnk_txns (p : Nat) (f : LinkPort → LinkPort) : (lnkPortMod p f s).lnk.txns = s.lnk.txns := rfl
@[simp] theorem lnkPortMod_lnk_routes (p : Nat) (f : LinkPort → LinkPort) : (lnkPortMod p f s).lnk.routes = s.lnk.routes := rfl

@[simp] theorem lnkDrop_sys : (lnkDrop s).sys = s.sys := rfl
@[simp] theorem lnkDrop_bnd : (lnkDrop s).bnd = s.bnd := rfl
@[simp] theorem lnkDrop_tables : (lnkDrop s).tables = s.tables := rfl
@[simp] theorem lnkDrop_trn : (lnkDrop s).trn = s.trn := rfl
@[simp] theorem lnkDrop_mem : (lnkDrop s).mem = s.mem := rfl
@[simp] theorem lnkDrop_nme : (lnkDrop s).nme = s.nme := rfl
@[simp] theorem lnkDrop_tck : (lnkDrop s).tck = s.tck := rfl
@[simp] theorem lnkDrop_coh : (lnkDrop s).coh = s.coh := rfl
@[simp] theorem lnkDrop_obj : (lnkDrop s).obj = s.obj := rfl
@[simp] theorem lnkDrop_hif : (lnkDrop s).hif = s.hif := rfl
@[simp] theorem lnkDrop_mbx : (lnkDrop s).mbx = s.mbx := rfl
@[simp] theorem lnkDrop_pwr : (lnkDrop s).pwr = s.pwr := rfl
@[simp] theorem lnkDrop_irq : (lnkDrop s).irq = s.irq := rfl
@[simp] theorem lnkDrop_out : (lnkDrop s).out = s.out := rfl
@[simp] theorem lnkDrop_fresh : (lnkDrop s).fresh = s.fresh := rfl
@[simp] theorem lnkDrop_pending : (lnkDrop s).pending = s.pending := rfl

@[simp] theorem txnClose_sys (g : Nat) : (txnClose g s).sys = s.sys := rfl
@[simp] theorem txnClose_bnd (g : Nat) : (txnClose g s).bnd = s.bnd := rfl
@[simp] theorem txnClose_tables (g : Nat) : (txnClose g s).tables = s.tables := rfl
@[simp] theorem txnClose_trn (g : Nat) : (txnClose g s).trn = s.trn := rfl
@[simp] theorem txnClose_mem (g : Nat) : (txnClose g s).mem = s.mem := rfl
@[simp] theorem txnClose_nme (g : Nat) : (txnClose g s).nme = s.nme := rfl
@[simp] theorem txnClose_tck (g : Nat) : (txnClose g s).tck = s.tck := rfl
@[simp] theorem txnClose_coh (g : Nat) : (txnClose g s).coh = s.coh := rfl
@[simp] theorem txnClose_obj (g : Nat) : (txnClose g s).obj = s.obj := rfl
@[simp] theorem txnClose_hif (g : Nat) : (txnClose g s).hif = s.hif := rfl
@[simp] theorem txnClose_mbx (g : Nat) : (txnClose g s).mbx = s.mbx := rfl
@[simp] theorem txnClose_pwr (g : Nat) : (txnClose g s).pwr = s.pwr := rfl
@[simp] theorem txnClose_irq (g : Nat) : (txnClose g s).irq = s.irq := rfl
@[simp] theorem txnClose_out (g : Nat) : (txnClose g s).out = s.out := rfl
@[simp] theorem txnClose_fresh (g : Nat) : (txnClose g s).fresh = s.fresh := rfl
@[simp] theorem txnClose_pending (g : Nat) : (txnClose g s).pending = s.pending := rfl

@[simp] theorem rxMod_sys (n : Nat) (f : RxPair → RxPair) : (rxMod n f s).sys = s.sys := rfl
@[simp] theorem rxMod_bnd (n : Nat) (f : RxPair → RxPair) : (rxMod n f s).bnd = s.bnd := rfl
@[simp] theorem rxMod_tables (n : Nat) (f : RxPair → RxPair) : (rxMod n f s).tables = s.tables := rfl
@[simp] theorem rxMod_trn (n : Nat) (f : RxPair → RxPair) : (rxMod n f s).trn = s.trn := rfl
@[simp] theorem rxMod_mem (n : Nat) (f : RxPair → RxPair) : (rxMod n f s).mem = s.mem := rfl
@[simp] theorem rxMod_nme (n : Nat) (f : RxPair → RxPair) : (rxMod n f s).nme = s.nme := rfl
@[simp] theorem rxMod_tck (n : Nat) (f : RxPair → RxPair) : (rxMod n f s).tck = s.tck := rfl
@[simp] theorem rxMod_coh (n : Nat) (f : RxPair → RxPair) : (rxMod n f s).coh = s.coh := rfl
@[simp] theorem rxMod_obj (n : Nat) (f : RxPair → RxPair) : (rxMod n f s).obj = s.obj := rfl
@[simp] theorem rxMod_hif (n : Nat) (f : RxPair → RxPair) : (rxMod n f s).hif = s.hif := rfl
@[simp] theorem rxMod_mbx (n : Nat) (f : RxPair → RxPair) : (rxMod n f s).mbx = s.mbx := rfl
@[simp] theorem rxMod_pwr (n : Nat) (f : RxPair → RxPair) : (rxMod n f s).pwr = s.pwr := rfl
@[simp] theorem rxMod_irq (n : Nat) (f : RxPair → RxPair) : (rxMod n f s).irq = s.irq := rfl
@[simp] theorem rxMod_out (n : Nat) (f : RxPair → RxPair) : (rxMod n f s).out = s.out := rfl
@[simp] theorem rxMod_fresh (n : Nat) (f : RxPair → RxPair) : (rxMod n f s).fresh = s.fresh := rfl
@[simp] theorem rxMod_pending (n : Nat) (f : RxPair → RxPair) : (rxMod n f s).pending = s.pending := rfl

@[simp] theorem engineMod_sys (e : Nat) (f : Engine → Engine) : (engineMod e f s).sys = s.sys := rfl
@[simp] theorem engineMod_bnd (e : Nat) (f : Engine → Engine) : (engineMod e f s).bnd = s.bnd := rfl
@[simp] theorem engineMod_tables (e : Nat) (f : Engine → Engine) : (engineMod e f s).tables = s.tables := rfl
@[simp] theorem engineMod_trn (e : Nat) (f : Engine → Engine) : (engineMod e f s).trn = s.trn := rfl
@[simp] theorem engineMod_mem (e : Nat) (f : Engine → Engine) : (engineMod e f s).mem = s.mem := rfl
@[simp] theorem engineMod_lnk (e : Nat) (f : Engine → Engine) : (engineMod e f s).lnk = s.lnk := rfl
@[simp] theorem engineMod_tck (e : Nat) (f : Engine → Engine) : (engineMod e f s).tck = s.tck := rfl
@[simp] theorem engineMod_coh (e : Nat) (f : Engine → Engine) : (engineMod e f s).coh = s.coh := rfl
@[simp] theorem engineMod_obj (e : Nat) (f : Engine → Engine) : (engineMod e f s).obj = s.obj := rfl
@[simp] theorem engineMod_hif (e : Nat) (f : Engine → Engine) : (engineMod e f s).hif = s.hif := rfl
@[simp] theorem engineMod_mbx (e : Nat) (f : Engine → Engine) : (engineMod e f s).mbx = s.mbx := rfl
@[simp] theorem engineMod_pwr (e : Nat) (f : Engine → Engine) : (engineMod e f s).pwr = s.pwr := rfl
@[simp] theorem engineMod_irq (e : Nat) (f : Engine → Engine) : (engineMod e f s).irq = s.irq := rfl
@[simp] theorem engineMod_out (e : Nat) (f : Engine → Engine) : (engineMod e f s).out = s.out := rfl
@[simp] theorem engineMod_fresh (e : Nat) (f : Engine → Engine) : (engineMod e f s).fresh = s.fresh := rfl
@[simp] theorem engineMod_pending (e : Nat) (f : Engine → Engine) : (engineMod e f s).pending = s.pending := rfl
@[simp] theorem engineMod_nme_folds (e : Nat) (f : Engine → Engine) : (engineMod e f s).nme.folds = s.nme.folds := rfl
@[simp] theorem engineMod_nme_subs (e : Nat) (f : Engine → Engine) : (engineMod e f s).nme.subs = s.nme.subs := rfl
@[simp] theorem engineMod_nme_pieces (e : Nat) (f : Engine → Engine) : (engineMod e f s).nme.pieces = s.nme.pieces := rfl

@[simp] theorem foldPut_sys (k : Nat) (x : Fold) : (foldPut k x s).sys = s.sys := rfl
@[simp] theorem foldPut_bnd (k : Nat) (x : Fold) : (foldPut k x s).bnd = s.bnd := rfl
@[simp] theorem foldPut_tables (k : Nat) (x : Fold) : (foldPut k x s).tables = s.tables := rfl
@[simp] theorem foldPut_trn (k : Nat) (x : Fold) : (foldPut k x s).trn = s.trn := rfl
@[simp] theorem foldPut_mem (k : Nat) (x : Fold) : (foldPut k x s).mem = s.mem := rfl
@[simp] theorem foldPut_lnk (k : Nat) (x : Fold) : (foldPut k x s).lnk = s.lnk := rfl
@[simp] theorem foldPut_tck (k : Nat) (x : Fold) : (foldPut k x s).tck = s.tck := rfl
@[simp] theorem foldPut_coh (k : Nat) (x : Fold) : (foldPut k x s).coh = s.coh := rfl
@[simp] theorem foldPut_obj (k : Nat) (x : Fold) : (foldPut k x s).obj = s.obj := rfl
@[simp] theorem foldPut_hif (k : Nat) (x : Fold) : (foldPut k x s).hif = s.hif := rfl
@[simp] theorem foldPut_mbx (k : Nat) (x : Fold) : (foldPut k x s).mbx = s.mbx := rfl
@[simp] theorem foldPut_pwr (k : Nat) (x : Fold) : (foldPut k x s).pwr = s.pwr := rfl
@[simp] theorem foldPut_irq (k : Nat) (x : Fold) : (foldPut k x s).irq = s.irq := rfl
@[simp] theorem foldPut_out (k : Nat) (x : Fold) : (foldPut k x s).out = s.out := rfl
@[simp] theorem foldPut_fresh (k : Nat) (x : Fold) : (foldPut k x s).fresh = s.fresh := rfl
@[simp] theorem foldPut_pending (k : Nat) (x : Fold) : (foldPut k x s).pending = s.pending := rfl

@[simp] theorem counterMod_sys (i : Nat) (f : Counter → Counter) : (counterMod i f s).sys = s.sys := rfl
@[simp] theorem counterMod_bnd (i : Nat) (f : Counter → Counter) : (counterMod i f s).bnd = s.bnd := rfl
@[simp] theorem counterMod_tables (i : Nat) (f : Counter → Counter) : (counterMod i f s).tables = s.tables := rfl
@[simp] theorem counterMod_trn (i : Nat) (f : Counter → Counter) : (counterMod i f s).trn = s.trn := rfl
@[simp] theorem counterMod_mem (i : Nat) (f : Counter → Counter) : (counterMod i f s).mem = s.mem := rfl
@[simp] theorem counterMod_lnk (i : Nat) (f : Counter → Counter) : (counterMod i f s).lnk = s.lnk := rfl
@[simp] theorem counterMod_nme (i : Nat) (f : Counter → Counter) : (counterMod i f s).nme = s.nme := rfl
@[simp] theorem counterMod_coh (i : Nat) (f : Counter → Counter) : (counterMod i f s).coh = s.coh := rfl
@[simp] theorem counterMod_obj (i : Nat) (f : Counter → Counter) : (counterMod i f s).obj = s.obj := rfl
@[simp] theorem counterMod_hif (i : Nat) (f : Counter → Counter) : (counterMod i f s).hif = s.hif := rfl
@[simp] theorem counterMod_mbx (i : Nat) (f : Counter → Counter) : (counterMod i f s).mbx = s.mbx := rfl
@[simp] theorem counterMod_pwr (i : Nat) (f : Counter → Counter) : (counterMod i f s).pwr = s.pwr := rfl
@[simp] theorem counterMod_irq (i : Nat) (f : Counter → Counter) : (counterMod i f s).irq = s.irq := rfl
@[simp] theorem counterMod_out (i : Nat) (f : Counter → Counter) : (counterMod i f s).out = s.out := rfl
@[simp] theorem counterMod_fresh (i : Nat) (f : Counter → Counter) : (counterMod i f s).fresh = s.fresh := rfl
@[simp] theorem counterMod_pending (i : Nat) (f : Counter → Counter) : (counterMod i f s).pending = s.pending := rfl
@[simp] theorem counterMod_tck_waiters (i : Nat) (f : Counter → Counter) : (counterMod i f s).tck.waiters = s.tck.waiters := rfl
@[simp] theorem counterMod_tck_ramp (i : Nat) (f : Counter → Counter) : (counterMod i f s).tck.ramp = s.tck.ramp := rfl
@[simp] theorem counterMod_tck_mirrors (i : Nat) (f : Counter → Counter) : (counterMod i f s).tck.mirrors = s.tck.mirrors := rfl
@[simp] theorem counterMod_tck_windows (i : Nat) (f : Counter → Counter) : (counterMod i f s).tck.windows = s.tck.windows := rfl
@[simp] theorem counterMod_tck_held (i : Nat) (f : Counter → Counter) : (counterMod i f s).tck.held = s.tck.held := rfl

@[simp] theorem cohMod_sys (f : CohSt → CohSt) : (cohMod f s).sys = s.sys := rfl
@[simp] theorem cohMod_bnd (f : CohSt → CohSt) : (cohMod f s).bnd = s.bnd := rfl
@[simp] theorem cohMod_tables (f : CohSt → CohSt) : (cohMod f s).tables = s.tables := rfl
@[simp] theorem cohMod_trn (f : CohSt → CohSt) : (cohMod f s).trn = s.trn := rfl
@[simp] theorem cohMod_mem (f : CohSt → CohSt) : (cohMod f s).mem = s.mem := rfl
@[simp] theorem cohMod_lnk (f : CohSt → CohSt) : (cohMod f s).lnk = s.lnk := rfl
@[simp] theorem cohMod_nme (f : CohSt → CohSt) : (cohMod f s).nme = s.nme := rfl
@[simp] theorem cohMod_tck (f : CohSt → CohSt) : (cohMod f s).tck = s.tck := rfl
@[simp] theorem cohMod_obj (f : CohSt → CohSt) : (cohMod f s).obj = s.obj := rfl
@[simp] theorem cohMod_hif (f : CohSt → CohSt) : (cohMod f s).hif = s.hif := rfl
@[simp] theorem cohMod_mbx (f : CohSt → CohSt) : (cohMod f s).mbx = s.mbx := rfl
@[simp] theorem cohMod_pwr (f : CohSt → CohSt) : (cohMod f s).pwr = s.pwr := rfl
@[simp] theorem cohMod_irq (f : CohSt → CohSt) : (cohMod f s).irq = s.irq := rfl
@[simp] theorem cohMod_out (f : CohSt → CohSt) : (cohMod f s).out = s.out := rfl
@[simp] theorem cohMod_fresh (f : CohSt → CohSt) : (cohMod f s).fresh = s.fresh := rfl
@[simp] theorem cohMod_pending (f : CohSt → CohSt) : (cohMod f s).pending = s.pending := rfl

@[simp] theorem queueMod_sys (h : Handle) (f : Queue → Queue) : (queueMod h f s).sys = s.sys := rfl
@[simp] theorem queueMod_bnd (h : Handle) (f : Queue → Queue) : (queueMod h f s).bnd = s.bnd := rfl
@[simp] theorem queueMod_tables (h : Handle) (f : Queue → Queue) : (queueMod h f s).tables = s.tables := rfl
@[simp] theorem queueMod_trn (h : Handle) (f : Queue → Queue) : (queueMod h f s).trn = s.trn := rfl
@[simp] theorem queueMod_mem (h : Handle) (f : Queue → Queue) : (queueMod h f s).mem = s.mem := rfl
@[simp] theorem queueMod_lnk (h : Handle) (f : Queue → Queue) : (queueMod h f s).lnk = s.lnk := rfl
@[simp] theorem queueMod_nme (h : Handle) (f : Queue → Queue) : (queueMod h f s).nme = s.nme := rfl
@[simp] theorem queueMod_tck (h : Handle) (f : Queue → Queue) : (queueMod h f s).tck = s.tck := rfl
@[simp] theorem queueMod_coh (h : Handle) (f : Queue → Queue) : (queueMod h f s).coh = s.coh := rfl
@[simp] theorem queueMod_hif (h : Handle) (f : Queue → Queue) : (queueMod h f s).hif = s.hif := rfl
@[simp] theorem queueMod_mbx (h : Handle) (f : Queue → Queue) : (queueMod h f s).mbx = s.mbx := rfl
@[simp] theorem queueMod_pwr (h : Handle) (f : Queue → Queue) : (queueMod h f s).pwr = s.pwr := rfl
@[simp] theorem queueMod_irq (h : Handle) (f : Queue → Queue) : (queueMod h f s).irq = s.irq := rfl
@[simp] theorem queueMod_out (h : Handle) (f : Queue → Queue) : (queueMod h f s).out = s.out := rfl
@[simp] theorem queueMod_fresh (h : Handle) (f : Queue → Queue) : (queueMod h f s).fresh = s.fresh := rfl
@[simp] theorem queueMod_pending (h : Handle) (f : Queue → Queue) : (queueMod h f s).pending = s.pending := rfl
@[simp] theorem queueMod_obj_slots (h : Handle) (f : Queue → Queue) : (queueMod h f s).obj.slots = s.obj.slots := rfl
@[simp] theorem queueMod_obj_ctxs (h : Handle) (f : Queue → Queue) : (queueMod h f s).obj.ctxs = s.obj.ctxs := rfl
@[simp] theorem queueMod_obj_mems (h : Handle) (f : Queue → Queue) : (queueMod h f s).obj.mems = s.obj.mems := rfl
@[simp] theorem queueMod_obj_events (h : Handle) (f : Queue → Queue) : (queueMod h f s).obj.events = s.obj.events := rfl
@[simp] theorem queueMod_obj_channels (h : Handle) (f : Queue → Queue) : (queueMod h f s).obj.channels = s.obj.channels := rfl
@[simp] theorem queueMod_obj_models (h : Handle) (f : Queue → Queue) : (queueMod h f s).obj.models = s.obj.models := rfl
@[simp] theorem queueMod_obj_dying (h : Handle) (f : Queue → Queue) : (queueMod h f s).obj.dying = s.obj.dying := rfl
@[simp] theorem queueMod_obj_pages (h : Handle) (f : Queue → Queue) : (queueMod h f s).obj.pages = s.obj.pages := rfl
@[simp] theorem queueMod_obj_dbSlots (h : Handle) (f : Queue → Queue) : (queueMod h f s).obj.dbSlots = s.obj.dbSlots := rfl
@[simp] theorem queueMod_obj_launched (h : Handle) (f : Queue → Queue) : (queueMod h f s).obj.launched = s.obj.launched := rfl
@[simp] theorem queueMod_obj_nextLaunch (h : Handle) (f : Queue → Queue) : (queueMod h f s).obj.nextLaunch = s.obj.nextLaunch := rfl

@[simp] theorem eventMod_sys (h : Handle) (f : Event → Event) : (eventMod h f s).sys = s.sys := rfl
@[simp] theorem eventMod_bnd (h : Handle) (f : Event → Event) : (eventMod h f s).bnd = s.bnd := rfl
@[simp] theorem eventMod_tables (h : Handle) (f : Event → Event) : (eventMod h f s).tables = s.tables := rfl
@[simp] theorem eventMod_trn (h : Handle) (f : Event → Event) : (eventMod h f s).trn = s.trn := rfl
@[simp] theorem eventMod_mem (h : Handle) (f : Event → Event) : (eventMod h f s).mem = s.mem := rfl
@[simp] theorem eventMod_lnk (h : Handle) (f : Event → Event) : (eventMod h f s).lnk = s.lnk := rfl
@[simp] theorem eventMod_nme (h : Handle) (f : Event → Event) : (eventMod h f s).nme = s.nme := rfl
@[simp] theorem eventMod_tck (h : Handle) (f : Event → Event) : (eventMod h f s).tck = s.tck := rfl
@[simp] theorem eventMod_coh (h : Handle) (f : Event → Event) : (eventMod h f s).coh = s.coh := rfl
@[simp] theorem eventMod_hif (h : Handle) (f : Event → Event) : (eventMod h f s).hif = s.hif := rfl
@[simp] theorem eventMod_mbx (h : Handle) (f : Event → Event) : (eventMod h f s).mbx = s.mbx := rfl
@[simp] theorem eventMod_pwr (h : Handle) (f : Event → Event) : (eventMod h f s).pwr = s.pwr := rfl
@[simp] theorem eventMod_irq (h : Handle) (f : Event → Event) : (eventMod h f s).irq = s.irq := rfl
@[simp] theorem eventMod_out (h : Handle) (f : Event → Event) : (eventMod h f s).out = s.out := rfl
@[simp] theorem eventMod_fresh (h : Handle) (f : Event → Event) : (eventMod h f s).fresh = s.fresh := rfl
@[simp] theorem eventMod_pending (h : Handle) (f : Event → Event) : (eventMod h f s).pending = s.pending := rfl
@[simp] theorem eventMod_obj_slots (h : Handle) (f : Event → Event) : (eventMod h f s).obj.slots = s.obj.slots := rfl
@[simp] theorem eventMod_obj_ctxs (h : Handle) (f : Event → Event) : (eventMod h f s).obj.ctxs = s.obj.ctxs := rfl
@[simp] theorem eventMod_obj_queues (h : Handle) (f : Event → Event) : (eventMod h f s).obj.queues = s.obj.queues := rfl
@[simp] theorem eventMod_obj_mems (h : Handle) (f : Event → Event) : (eventMod h f s).obj.mems = s.obj.mems := rfl
@[simp] theorem eventMod_obj_channels (h : Handle) (f : Event → Event) : (eventMod h f s).obj.channels = s.obj.channels := rfl
@[simp] theorem eventMod_obj_models (h : Handle) (f : Event → Event) : (eventMod h f s).obj.models = s.obj.models := rfl
@[simp] theorem eventMod_obj_dying (h : Handle) (f : Event → Event) : (eventMod h f s).obj.dying = s.obj.dying := rfl
@[simp] theorem eventMod_obj_pages (h : Handle) (f : Event → Event) : (eventMod h f s).obj.pages = s.obj.pages := rfl
@[simp] theorem eventMod_obj_dbSlots (h : Handle) (f : Event → Event) : (eventMod h f s).obj.dbSlots = s.obj.dbSlots := rfl
@[simp] theorem eventMod_obj_launched (h : Handle) (f : Event → Event) : (eventMod h f s).obj.launched = s.obj.launched := rfl
@[simp] theorem eventMod_obj_nextLaunch (h : Handle) (f : Event → Event) : (eventMod h f s).obj.nextLaunch = s.obj.nextLaunch := rfl

@[simp] theorem chanMod_sys (h : Handle) (f : Channel → Channel) : (chanMod h f s).sys = s.sys := rfl
@[simp] theorem chanMod_bnd (h : Handle) (f : Channel → Channel) : (chanMod h f s).bnd = s.bnd := rfl
@[simp] theorem chanMod_tables (h : Handle) (f : Channel → Channel) : (chanMod h f s).tables = s.tables := rfl
@[simp] theorem chanMod_trn (h : Handle) (f : Channel → Channel) : (chanMod h f s).trn = s.trn := rfl
@[simp] theorem chanMod_mem (h : Handle) (f : Channel → Channel) : (chanMod h f s).mem = s.mem := rfl
@[simp] theorem chanMod_lnk (h : Handle) (f : Channel → Channel) : (chanMod h f s).lnk = s.lnk := rfl
@[simp] theorem chanMod_nme (h : Handle) (f : Channel → Channel) : (chanMod h f s).nme = s.nme := rfl
@[simp] theorem chanMod_tck (h : Handle) (f : Channel → Channel) : (chanMod h f s).tck = s.tck := rfl
@[simp] theorem chanMod_coh (h : Handle) (f : Channel → Channel) : (chanMod h f s).coh = s.coh := rfl
@[simp] theorem chanMod_hif (h : Handle) (f : Channel → Channel) : (chanMod h f s).hif = s.hif := rfl
@[simp] theorem chanMod_mbx (h : Handle) (f : Channel → Channel) : (chanMod h f s).mbx = s.mbx := rfl
@[simp] theorem chanMod_pwr (h : Handle) (f : Channel → Channel) : (chanMod h f s).pwr = s.pwr := rfl
@[simp] theorem chanMod_irq (h : Handle) (f : Channel → Channel) : (chanMod h f s).irq = s.irq := rfl
@[simp] theorem chanMod_out (h : Handle) (f : Channel → Channel) : (chanMod h f s).out = s.out := rfl
@[simp] theorem chanMod_fresh (h : Handle) (f : Channel → Channel) : (chanMod h f s).fresh = s.fresh := rfl
@[simp] theorem chanMod_pending (h : Handle) (f : Channel → Channel) : (chanMod h f s).pending = s.pending := rfl
@[simp] theorem chanMod_obj_slots (h : Handle) (f : Channel → Channel) : (chanMod h f s).obj.slots = s.obj.slots := rfl
@[simp] theorem chanMod_obj_ctxs (h : Handle) (f : Channel → Channel) : (chanMod h f s).obj.ctxs = s.obj.ctxs := rfl
@[simp] theorem chanMod_obj_queues (h : Handle) (f : Channel → Channel) : (chanMod h f s).obj.queues = s.obj.queues := rfl
@[simp] theorem chanMod_obj_mems (h : Handle) (f : Channel → Channel) : (chanMod h f s).obj.mems = s.obj.mems := rfl
@[simp] theorem chanMod_obj_events (h : Handle) (f : Channel → Channel) : (chanMod h f s).obj.events = s.obj.events := rfl
@[simp] theorem chanMod_obj_models (h : Handle) (f : Channel → Channel) : (chanMod h f s).obj.models = s.obj.models := rfl
@[simp] theorem chanMod_obj_dying (h : Handle) (f : Channel → Channel) : (chanMod h f s).obj.dying = s.obj.dying := rfl
@[simp] theorem chanMod_obj_pages (h : Handle) (f : Channel → Channel) : (chanMod h f s).obj.pages = s.obj.pages := rfl
@[simp] theorem chanMod_obj_dbSlots (h : Handle) (f : Channel → Channel) : (chanMod h f s).obj.dbSlots = s.obj.dbSlots := rfl
@[simp] theorem chanMod_obj_launched (h : Handle) (f : Channel → Channel) : (chanMod h f s).obj.launched = s.obj.launched := rfl
@[simp] theorem chanMod_obj_nextLaunch (h : Handle) (f : Channel → Channel) : (chanMod h f s).obj.nextLaunch = s.obj.nextLaunch := rfl

@[simp] theorem modelMod_sys (i : Nat) (f : Model → Model) : (modelMod i f s).sys = s.sys := rfl
@[simp] theorem modelMod_bnd (i : Nat) (f : Model → Model) : (modelMod i f s).bnd = s.bnd := rfl
@[simp] theorem modelMod_tables (i : Nat) (f : Model → Model) : (modelMod i f s).tables = s.tables := rfl
@[simp] theorem modelMod_trn (i : Nat) (f : Model → Model) : (modelMod i f s).trn = s.trn := rfl
@[simp] theorem modelMod_mem (i : Nat) (f : Model → Model) : (modelMod i f s).mem = s.mem := rfl
@[simp] theorem modelMod_lnk (i : Nat) (f : Model → Model) : (modelMod i f s).lnk = s.lnk := rfl
@[simp] theorem modelMod_nme (i : Nat) (f : Model → Model) : (modelMod i f s).nme = s.nme := rfl
@[simp] theorem modelMod_tck (i : Nat) (f : Model → Model) : (modelMod i f s).tck = s.tck := rfl
@[simp] theorem modelMod_coh (i : Nat) (f : Model → Model) : (modelMod i f s).coh = s.coh := rfl
@[simp] theorem modelMod_hif (i : Nat) (f : Model → Model) : (modelMod i f s).hif = s.hif := rfl
@[simp] theorem modelMod_mbx (i : Nat) (f : Model → Model) : (modelMod i f s).mbx = s.mbx := rfl
@[simp] theorem modelMod_pwr (i : Nat) (f : Model → Model) : (modelMod i f s).pwr = s.pwr := rfl
@[simp] theorem modelMod_irq (i : Nat) (f : Model → Model) : (modelMod i f s).irq = s.irq := rfl
@[simp] theorem modelMod_out (i : Nat) (f : Model → Model) : (modelMod i f s).out = s.out := rfl
@[simp] theorem modelMod_fresh (i : Nat) (f : Model → Model) : (modelMod i f s).fresh = s.fresh := rfl
@[simp] theorem modelMod_pending (i : Nat) (f : Model → Model) : (modelMod i f s).pending = s.pending := rfl
@[simp] theorem modelMod_obj_slots (i : Nat) (f : Model → Model) : (modelMod i f s).obj.slots = s.obj.slots := rfl
@[simp] theorem modelMod_obj_ctxs (i : Nat) (f : Model → Model) : (modelMod i f s).obj.ctxs = s.obj.ctxs := rfl
@[simp] theorem modelMod_obj_queues (i : Nat) (f : Model → Model) : (modelMod i f s).obj.queues = s.obj.queues := rfl
@[simp] theorem modelMod_obj_mems (i : Nat) (f : Model → Model) : (modelMod i f s).obj.mems = s.obj.mems := rfl
@[simp] theorem modelMod_obj_events (i : Nat) (f : Model → Model) : (modelMod i f s).obj.events = s.obj.events := rfl
@[simp] theorem modelMod_obj_channels (i : Nat) (f : Model → Model) : (modelMod i f s).obj.channels = s.obj.channels := rfl
@[simp] theorem modelMod_obj_dying (i : Nat) (f : Model → Model) : (modelMod i f s).obj.dying = s.obj.dying := rfl
@[simp] theorem modelMod_obj_pages (i : Nat) (f : Model → Model) : (modelMod i f s).obj.pages = s.obj.pages := rfl
@[simp] theorem modelMod_obj_dbSlots (i : Nat) (f : Model → Model) : (modelMod i f s).obj.dbSlots = s.obj.dbSlots := rfl
@[simp] theorem modelMod_obj_launched (i : Nat) (f : Model → Model) : (modelMod i f s).obj.launched = s.obj.launched := rfl
@[simp] theorem modelMod_obj_nextLaunch (i : Nat) (f : Model → Model) : (modelMod i f s).obj.nextLaunch = s.obj.nextLaunch := rfl

@[simp] theorem hbMod_sys (i : Nat) (f : Hostback → Hostback) : (hbMod i f s).sys = s.sys := rfl
@[simp] theorem hbMod_bnd (i : Nat) (f : Hostback → Hostback) : (hbMod i f s).bnd = s.bnd := rfl
@[simp] theorem hbMod_tables (i : Nat) (f : Hostback → Hostback) : (hbMod i f s).tables = s.tables := rfl
@[simp] theorem hbMod_trn (i : Nat) (f : Hostback → Hostback) : (hbMod i f s).trn = s.trn := rfl
@[simp] theorem hbMod_mem (i : Nat) (f : Hostback → Hostback) : (hbMod i f s).mem = s.mem := rfl
@[simp] theorem hbMod_lnk (i : Nat) (f : Hostback → Hostback) : (hbMod i f s).lnk = s.lnk := rfl
@[simp] theorem hbMod_nme (i : Nat) (f : Hostback → Hostback) : (hbMod i f s).nme = s.nme := rfl
@[simp] theorem hbMod_tck (i : Nat) (f : Hostback → Hostback) : (hbMod i f s).tck = s.tck := rfl
@[simp] theorem hbMod_coh (i : Nat) (f : Hostback → Hostback) : (hbMod i f s).coh = s.coh := rfl
@[simp] theorem hbMod_hif (i : Nat) (f : Hostback → Hostback) : (hbMod i f s).hif = s.hif := rfl
@[simp] theorem hbMod_mbx (i : Nat) (f : Hostback → Hostback) : (hbMod i f s).mbx = s.mbx := rfl
@[simp] theorem hbMod_pwr (i : Nat) (f : Hostback → Hostback) : (hbMod i f s).pwr = s.pwr := rfl
@[simp] theorem hbMod_irq (i : Nat) (f : Hostback → Hostback) : (hbMod i f s).irq = s.irq := rfl
@[simp] theorem hbMod_out (i : Nat) (f : Hostback → Hostback) : (hbMod i f s).out = s.out := rfl
@[simp] theorem hbMod_fresh (i : Nat) (f : Hostback → Hostback) : (hbMod i f s).fresh = s.fresh := rfl
@[simp] theorem hbMod_pending (i : Nat) (f : Hostback → Hostback) : (hbMod i f s).pending = s.pending := rfl

@[simp] theorem freeSlot_sys (K I : Nat) : (freeSlot s K I).sys = s.sys := rfl
@[simp] theorem freeSlot_bnd (K I : Nat) : (freeSlot s K I).bnd = s.bnd := rfl
@[simp] theorem freeSlot_tables (K I : Nat) : (freeSlot s K I).tables = s.tables := rfl
@[simp] theorem freeSlot_trn (K I : Nat) : (freeSlot s K I).trn = s.trn := rfl
@[simp] theorem freeSlot_mem (K I : Nat) : (freeSlot s K I).mem = s.mem := rfl
@[simp] theorem freeSlot_lnk (K I : Nat) : (freeSlot s K I).lnk = s.lnk := rfl
@[simp] theorem freeSlot_nme (K I : Nat) : (freeSlot s K I).nme = s.nme := rfl
@[simp] theorem freeSlot_tck (K I : Nat) : (freeSlot s K I).tck = s.tck := rfl
@[simp] theorem freeSlot_coh (K I : Nat) : (freeSlot s K I).coh = s.coh := rfl
@[simp] theorem freeSlot_hif (K I : Nat) : (freeSlot s K I).hif = s.hif := rfl
@[simp] theorem freeSlot_mbx (K I : Nat) : (freeSlot s K I).mbx = s.mbx := rfl
@[simp] theorem freeSlot_pwr (K I : Nat) : (freeSlot s K I).pwr = s.pwr := rfl
@[simp] theorem freeSlot_irq (K I : Nat) : (freeSlot s K I).irq = s.irq := rfl
@[simp] theorem freeSlot_out (K I : Nat) : (freeSlot s K I).out = s.out := rfl
@[simp] theorem freeSlot_fresh (K I : Nat) : (freeSlot s K I).fresh = s.fresh := rfl
@[simp] theorem freeSlot_pending (K I : Nat) : (freeSlot s K I).pending = s.pending := rfl

@[simp] theorem portMod_sys (p : Nat) (f : HostPort → HostPort) : (portMod p f s).sys = s.sys := rfl
@[simp] theorem portMod_bnd (p : Nat) (f : HostPort → HostPort) : (portMod p f s).bnd = s.bnd := rfl
@[simp] theorem portMod_tables (p : Nat) (f : HostPort → HostPort) : (portMod p f s).tables = s.tables := rfl
@[simp] theorem portMod_trn (p : Nat) (f : HostPort → HostPort) : (portMod p f s).trn = s.trn := rfl
@[simp] theorem portMod_mem (p : Nat) (f : HostPort → HostPort) : (portMod p f s).mem = s.mem := rfl
@[simp] theorem portMod_lnk (p : Nat) (f : HostPort → HostPort) : (portMod p f s).lnk = s.lnk := rfl
@[simp] theorem portMod_nme (p : Nat) (f : HostPort → HostPort) : (portMod p f s).nme = s.nme := rfl
@[simp] theorem portMod_tck (p : Nat) (f : HostPort → HostPort) : (portMod p f s).tck = s.tck := rfl
@[simp] theorem portMod_coh (p : Nat) (f : HostPort → HostPort) : (portMod p f s).coh = s.coh := rfl
@[simp] theorem portMod_obj (p : Nat) (f : HostPort → HostPort) : (portMod p f s).obj = s.obj := rfl
@[simp] theorem portMod_mbx (p : Nat) (f : HostPort → HostPort) : (portMod p f s).mbx = s.mbx := rfl
@[simp] theorem portMod_pwr (p : Nat) (f : HostPort → HostPort) : (portMod p f s).pwr = s.pwr := rfl
@[simp] theorem portMod_irq (p : Nat) (f : HostPort → HostPort) : (portMod p f s).irq = s.irq := rfl
@[simp] theorem portMod_out (p : Nat) (f : HostPort → HostPort) : (portMod p f s).out = s.out := rfl
@[simp] theorem portMod_fresh (p : Nat) (f : HostPort → HostPort) : (portMod p f s).fresh = s.fresh := rfl
@[simp] theorem portMod_pending (p : Nat) (f : HostPort → HostPort) : (portMod p f s).pending = s.pending := rfl
@[simp] theorem portMod_hif_tbl (p : Nat) (f : HostPort → HostPort) : (portMod p f s).hif.tbl = s.hif.tbl := rfl
@[simp] theorem portMod_hif_win (p : Nat) (f : HostPort → HostPort) : (portMod p f s).hif.win = s.hif.win := rfl
@[simp] theorem portMod_hif_hdm (p : Nat) (f : HostPort → HostPort) : (portMod p f s).hif.hdm = s.hif.hdm := rfl
@[simp] theorem portMod_hif_ce (p : Nat) (f : HostPort → HostPort) : (portMod p f s).hif.ce = s.hif.ce := rfl
@[simp] theorem portMod_hif_errValid (p : Nat) (f : HostPort → HostPort) : (portMod p f s).hif.errValid = s.hif.errValid := rfl
@[simp] theorem portMod_hif_winWait (p : Nat) (f : HostPort → HostPort) : (portMod p f s).hif.winWait = s.hif.winWait := rfl
@[simp] theorem portMod_hif_lostWrites (p : Nat) (f : HostPort → HostPort) : (portMod p f s).hif.lostWrites = s.hif.lostWrites := rfl

@[simp] theorem ceMod_sys (k : Nat) (f : CopyEngine → CopyEngine) : (ceMod k f s).sys = s.sys := rfl
@[simp] theorem ceMod_bnd (k : Nat) (f : CopyEngine → CopyEngine) : (ceMod k f s).bnd = s.bnd := rfl
@[simp] theorem ceMod_tables (k : Nat) (f : CopyEngine → CopyEngine) : (ceMod k f s).tables = s.tables := rfl
@[simp] theorem ceMod_trn (k : Nat) (f : CopyEngine → CopyEngine) : (ceMod k f s).trn = s.trn := rfl
@[simp] theorem ceMod_mem (k : Nat) (f : CopyEngine → CopyEngine) : (ceMod k f s).mem = s.mem := rfl
@[simp] theorem ceMod_lnk (k : Nat) (f : CopyEngine → CopyEngine) : (ceMod k f s).lnk = s.lnk := rfl
@[simp] theorem ceMod_nme (k : Nat) (f : CopyEngine → CopyEngine) : (ceMod k f s).nme = s.nme := rfl
@[simp] theorem ceMod_tck (k : Nat) (f : CopyEngine → CopyEngine) : (ceMod k f s).tck = s.tck := rfl
@[simp] theorem ceMod_coh (k : Nat) (f : CopyEngine → CopyEngine) : (ceMod k f s).coh = s.coh := rfl
@[simp] theorem ceMod_obj (k : Nat) (f : CopyEngine → CopyEngine) : (ceMod k f s).obj = s.obj := rfl
@[simp] theorem ceMod_mbx (k : Nat) (f : CopyEngine → CopyEngine) : (ceMod k f s).mbx = s.mbx := rfl
@[simp] theorem ceMod_pwr (k : Nat) (f : CopyEngine → CopyEngine) : (ceMod k f s).pwr = s.pwr := rfl
@[simp] theorem ceMod_irq (k : Nat) (f : CopyEngine → CopyEngine) : (ceMod k f s).irq = s.irq := rfl
@[simp] theorem ceMod_out (k : Nat) (f : CopyEngine → CopyEngine) : (ceMod k f s).out = s.out := rfl
@[simp] theorem ceMod_fresh (k : Nat) (f : CopyEngine → CopyEngine) : (ceMod k f s).fresh = s.fresh := rfl
@[simp] theorem ceMod_pending (k : Nat) (f : CopyEngine → CopyEngine) : (ceMod k f s).pending = s.pending := rfl

@[simp] theorem boxMod_sys (m : Nat) (f : Mailbox → Mailbox) : (boxMod m f s).sys = s.sys := rfl
@[simp] theorem boxMod_bnd (m : Nat) (f : Mailbox → Mailbox) : (boxMod m f s).bnd = s.bnd := rfl
@[simp] theorem boxMod_tables (m : Nat) (f : Mailbox → Mailbox) : (boxMod m f s).tables = s.tables := rfl
@[simp] theorem boxMod_trn (m : Nat) (f : Mailbox → Mailbox) : (boxMod m f s).trn = s.trn := rfl
@[simp] theorem boxMod_mem (m : Nat) (f : Mailbox → Mailbox) : (boxMod m f s).mem = s.mem := rfl
@[simp] theorem boxMod_lnk (m : Nat) (f : Mailbox → Mailbox) : (boxMod m f s).lnk = s.lnk := rfl
@[simp] theorem boxMod_nme (m : Nat) (f : Mailbox → Mailbox) : (boxMod m f s).nme = s.nme := rfl
@[simp] theorem boxMod_tck (m : Nat) (f : Mailbox → Mailbox) : (boxMod m f s).tck = s.tck := rfl
@[simp] theorem boxMod_coh (m : Nat) (f : Mailbox → Mailbox) : (boxMod m f s).coh = s.coh := rfl
@[simp] theorem boxMod_obj (m : Nat) (f : Mailbox → Mailbox) : (boxMod m f s).obj = s.obj := rfl
@[simp] theorem boxMod_hif (m : Nat) (f : Mailbox → Mailbox) : (boxMod m f s).hif = s.hif := rfl
@[simp] theorem boxMod_pwr (m : Nat) (f : Mailbox → Mailbox) : (boxMod m f s).pwr = s.pwr := rfl
@[simp] theorem boxMod_irq (m : Nat) (f : Mailbox → Mailbox) : (boxMod m f s).irq = s.irq := rfl
@[simp] theorem boxMod_out (m : Nat) (f : Mailbox → Mailbox) : (boxMod m f s).out = s.out := rfl
@[simp] theorem boxMod_fresh (m : Nat) (f : Mailbox → Mailbox) : (boxMod m f s).fresh = s.fresh := rfl
@[simp] theorem boxMod_pending (m : Nat) (f : Mailbox → Mailbox) : (boxMod m f s).pending = s.pending := rfl
@[simp] theorem boxMod_mbx_area (m : Nat) (f : Mailbox → Mailbox) : (boxMod m f s).mbx.area = s.mbx.area := rfl
@[simp] theorem boxMod_mbx_core (m : Nat) (f : Mailbox → Mailbox) : (boxMod m f s).mbx.core = s.mbx.core := rfl
@[simp] theorem boxMod_mbx_gated (m : Nat) (f : Mailbox → Mailbox) : (boxMod m f s).mbx.gated = s.mbx.gated := rfl
@[simp] theorem boxMod_mbx_staged (m : Nat) (f : Mailbox → Mailbox) : (boxMod m f s).mbx.staged = s.mbx.staged := rfl
@[simp] theorem boxMod_mbx_image (m : Nat) (f : Mailbox → Mailbox) : (boxMod m f s).mbx.image = s.mbx.image := rfl
@[simp] theorem boxMod_mbx_dumps (m : Nat) (f : Mailbox → Mailbox) : (boxMod m f s).mbx.dumps = s.mbx.dumps := rfl
@[simp] theorem boxMod_mbx_activating (m : Nat) (f : Mailbox → Mailbox) : (boxMod m f s).mbx.activating = s.mbx.activating := rfl

@[simp] theorem answerNow_sys (m : Nat) (r : Reply) : (answerNow m r s).sys = s.sys := rfl
@[simp] theorem answerNow_bnd (m : Nat) (r : Reply) : (answerNow m r s).bnd = s.bnd := rfl
@[simp] theorem answerNow_tables (m : Nat) (r : Reply) : (answerNow m r s).tables = s.tables := rfl
@[simp] theorem answerNow_trn (m : Nat) (r : Reply) : (answerNow m r s).trn = s.trn := rfl
@[simp] theorem answerNow_mem (m : Nat) (r : Reply) : (answerNow m r s).mem = s.mem := rfl
@[simp] theorem answerNow_lnk (m : Nat) (r : Reply) : (answerNow m r s).lnk = s.lnk := rfl
@[simp] theorem answerNow_nme (m : Nat) (r : Reply) : (answerNow m r s).nme = s.nme := rfl
@[simp] theorem answerNow_tck (m : Nat) (r : Reply) : (answerNow m r s).tck = s.tck := rfl
@[simp] theorem answerNow_coh (m : Nat) (r : Reply) : (answerNow m r s).coh = s.coh := rfl
@[simp] theorem answerNow_obj (m : Nat) (r : Reply) : (answerNow m r s).obj = s.obj := rfl
@[simp] theorem answerNow_hif (m : Nat) (r : Reply) : (answerNow m r s).hif = s.hif := rfl
@[simp] theorem answerNow_pwr (m : Nat) (r : Reply) : (answerNow m r s).pwr = s.pwr := rfl
@[simp] theorem answerNow_out (m : Nat) (r : Reply) : (answerNow m r s).out = s.out := rfl
@[simp] theorem answerNow_fresh (m : Nat) (r : Reply) : (answerNow m r s).fresh = s.fresh := rfl
@[simp] theorem answerNow_pending (m : Nat) (r : Reply) : (answerNow m r s).pending = s.pending := rfl
@[simp] theorem answerNow_mbx_area (m : Nat) (r : Reply) : (answerNow m r s).mbx.area = s.mbx.area := rfl
@[simp] theorem answerNow_mbx_core (m : Nat) (r : Reply) : (answerNow m r s).mbx.core = s.mbx.core := rfl
@[simp] theorem answerNow_mbx_gated (m : Nat) (r : Reply) : (answerNow m r s).mbx.gated = s.mbx.gated := rfl
@[simp] theorem answerNow_mbx_staged (m : Nat) (r : Reply) : (answerNow m r s).mbx.staged = s.mbx.staged := rfl
@[simp] theorem answerNow_mbx_image (m : Nat) (r : Reply) : (answerNow m r s).mbx.image = s.mbx.image := rfl
@[simp] theorem answerNow_mbx_dumps (m : Nat) (r : Reply) : (answerNow m r s).mbx.dumps = s.mbx.dumps := rfl
@[simp] theorem answerNow_mbx_activating (m : Nat) (r : Reply) : (answerNow m r s).mbx.activating = s.mbx.activating := rfl
@[simp] theorem answerNow_mbx_ctrlHeld (m : Nat) (r : Reply) : (answerNow m r s).mbx.ctrlHeld = s.mbx.ctrlHeld := rfl

@[simp] theorem answer_sys (m : Nat) (r : Reply) : (answer m r s).sys = s.sys := by unfold answer; split <;> rfl
@[simp] theorem answer_bnd (m : Nat) (r : Reply) : (answer m r s).bnd = s.bnd := by unfold answer; split <;> rfl
@[simp] theorem answer_tables (m : Nat) (r : Reply) : (answer m r s).tables = s.tables := by unfold answer; split <;> rfl
@[simp] theorem answer_trn (m : Nat) (r : Reply) : (answer m r s).trn = s.trn := by unfold answer; split <;> rfl
@[simp] theorem answer_mem (m : Nat) (r : Reply) : (answer m r s).mem = s.mem := by unfold answer; split <;> rfl
@[simp] theorem answer_lnk (m : Nat) (r : Reply) : (answer m r s).lnk = s.lnk := by unfold answer; split <;> rfl
@[simp] theorem answer_nme (m : Nat) (r : Reply) : (answer m r s).nme = s.nme := by unfold answer; split <;> rfl
@[simp] theorem answer_tck (m : Nat) (r : Reply) : (answer m r s).tck = s.tck := by unfold answer; split <;> rfl
@[simp] theorem answer_coh (m : Nat) (r : Reply) : (answer m r s).coh = s.coh := by unfold answer; split <;> rfl
@[simp] theorem answer_obj (m : Nat) (r : Reply) : (answer m r s).obj = s.obj := by unfold answer; split <;> rfl
@[simp] theorem answer_hif (m : Nat) (r : Reply) : (answer m r s).hif = s.hif := by unfold answer; split <;> rfl
@[simp] theorem answer_pwr (m : Nat) (r : Reply) : (answer m r s).pwr = s.pwr := by unfold answer; split <;> rfl
@[simp] theorem answer_out (m : Nat) (r : Reply) : (answer m r s).out = s.out := by unfold answer; split <;> rfl
@[simp] theorem answer_fresh (m : Nat) (r : Reply) : (answer m r s).fresh = s.fresh := by unfold answer; split <;> rfl
@[simp] theorem answer_pending (m : Nat) (r : Reply) : (answer m r s).pending = s.pending := by unfold answer; split <;> rfl
@[simp] theorem answer_mbx_area (m : Nat) (r : Reply) : (answer m r s).mbx.area = s.mbx.area := by unfold answer; split <;> rfl
@[simp] theorem answer_mbx_core (m : Nat) (r : Reply) : (answer m r s).mbx.core = s.mbx.core := by unfold answer; split <;> rfl
@[simp] theorem answer_mbx_gated (m : Nat) (r : Reply) : (answer m r s).mbx.gated = s.mbx.gated := by unfold answer; split <;> rfl
@[simp] theorem answer_mbx_staged (m : Nat) (r : Reply) : (answer m r s).mbx.staged = s.mbx.staged := by unfold answer; split <;> rfl
@[simp] theorem answer_mbx_image (m : Nat) (r : Reply) : (answer m r s).mbx.image = s.mbx.image := by unfold answer; split <;> rfl
@[simp] theorem answer_mbx_dumps (m : Nat) (r : Reply) : (answer m r s).mbx.dumps = s.mbx.dumps := by unfold answer; split <;> rfl
@[simp] theorem answer_mbx_activating (m : Nat) (r : Reply) : (answer m r s).mbx.activating = s.mbx.activating := by unfold answer; split <;> rfl
@[simp] theorem answer_mbx_ctrlHeld (m : Nat) (r : Reply) : (answer m r s).mbx.ctrlHeld = s.mbx.ctrlHeld := by unfold answer; split <;> rfl

@[simp] theorem pwrMod_sys (f : PwrSt → PwrSt) : (pwrMod f s).sys = s.sys := rfl
@[simp] theorem pwrMod_bnd (f : PwrSt → PwrSt) : (pwrMod f s).bnd = s.bnd := rfl
@[simp] theorem pwrMod_tables (f : PwrSt → PwrSt) : (pwrMod f s).tables = s.tables := rfl
@[simp] theorem pwrMod_trn (f : PwrSt → PwrSt) : (pwrMod f s).trn = s.trn := rfl
@[simp] theorem pwrMod_mem (f : PwrSt → PwrSt) : (pwrMod f s).mem = s.mem := rfl
@[simp] theorem pwrMod_lnk (f : PwrSt → PwrSt) : (pwrMod f s).lnk = s.lnk := rfl
@[simp] theorem pwrMod_nme (f : PwrSt → PwrSt) : (pwrMod f s).nme = s.nme := rfl
@[simp] theorem pwrMod_tck (f : PwrSt → PwrSt) : (pwrMod f s).tck = s.tck := rfl
@[simp] theorem pwrMod_coh (f : PwrSt → PwrSt) : (pwrMod f s).coh = s.coh := rfl
@[simp] theorem pwrMod_obj (f : PwrSt → PwrSt) : (pwrMod f s).obj = s.obj := rfl
@[simp] theorem pwrMod_hif (f : PwrSt → PwrSt) : (pwrMod f s).hif = s.hif := rfl
@[simp] theorem pwrMod_mbx (f : PwrSt → PwrSt) : (pwrMod f s).mbx = s.mbx := rfl
@[simp] theorem pwrMod_irq (f : PwrSt → PwrSt) : (pwrMod f s).irq = s.irq := rfl
@[simp] theorem pwrMod_out (f : PwrSt → PwrSt) : (pwrMod f s).out = s.out := rfl
@[simp] theorem pwrMod_fresh (f : PwrSt → PwrSt) : (pwrMod f s).fresh = s.fresh := rfl
@[simp] theorem pwrMod_pending (f : PwrSt → PwrSt) : (pwrMod f s).pending = s.pending := rfl

end Sys2Proof.Machine
end

