-- ==== Sys2Proof/Laws/Memory.lean ====
section
/-! SUPPORT. The laws of the maps and of the memory: what a read gives after a write, and that every memory operation keeps the
canonical form. -/

namespace Sys2Proof.Machine

-- maps ------------------------------------------------------------------------------------------------------------------

theorem mapGet_mapPut {α : Type} (m : FMap α) (n k : Nat) (v : α) :
    mapGet (mapPut m n v) k = if k = n then some v else mapGet m k := by
  induction m with
  | nil => simp [mapPut, mapGet, eq_comm]
  | cons x r ih =>
    obtain ⟨a, w⟩ := x
    simp only [mapPut]
    split
    · by_cases h : k = n
      · simp [mapGet, h]
      · simp [mapGet, h, Ne.symm h]
    · split
      · subst_vars
        by_cases h : k = a
        · simp [mapGet, h]
        · simp [mapGet, h, Ne.symm h]
      · by_cases h : a = k
        · subst h
          simp_all [mapGet]
          omega
        · simp [mapGet, h, ih]

@[simp] theorem mapGet_mapPut_same {α : Type} (m : FMap α) (n : Nat) (v : α) : mapGet (mapPut m n v) n = some v := by
  simp [mapGet_mapPut]

theorem mapGet_mapPut_other {α : Type} (m : FMap α) {n k : Nat} (v : α) (h : k ≠ n) : mapGet (mapPut m n v) k = mapGet m k := by
  simp [mapGet_mapPut, h]

/-- A change of an entry, listed or not: the entry after it. -/
theorem mapGetD_mapUp {α : Type} (m : FMap α) (n k : Nat) (d : α) (f : α → α) :
    mapGetD (mapUp m n d f) k d = if k = n then f (mapGetD m n d) else mapGetD m k d := by
  by_cases h : k = n <;> simp [mapGetD, mapUp, mapGet_mapPut, h]

@[simp] theorem mapGetD_mapUp_same {α : Type} (m : FMap α) (n : Nat) (d : α) (f : α → α) :
    mapGetD (mapUp m n d f) n d = f (mapGetD m n d) := by simp [mapGetD_mapUp]

theorem mapGet_mapMod {α : Type} (m : FMap α) (n k : Nat) (f : α → α) :
    mapGet (mapMod m n f) k = if k = n then (mapGet m n).map f else mapGet m k := by
  unfold mapMod
  cases h : mapGet m n with
  | none => by_cases hk : k = n <;> simp [hk, h]
  | some v => by_cases hk : k = n <;> simp [hk, mapGet_mapPut]

@[simp] theorem mapGet_mapMod_same {α : Type} (m : FMap α) (n : Nat) (f : α → α) :
    mapGet (mapMod m n f) n = (mapGet m n).map f := by simp [mapGet_mapMod]

/-- The canonical form said in two parts: the keys rise strictly, and no entry is the default. -/
theorem mapWf_iff {α : Type} [DecidableEq α] (d : α) (m : FMap α) :
    mapWf d m = true ↔ m.Pairwise (fun x y => x.1 < y.1) ∧ ∀ x ∈ m, x.2 ≠ d := by
  induction m with
  | nil => simp [mapWf]
  | cons x r ih =>
    obtain ⟨a, w⟩ := x
    cases r with
    | nil => simp [mapWf]
    | cons y t =>
      obtain ⟨b, z⟩ := y
      simp only [mapWf, Bool.and_eq_true, decide_eq_true_eq, ih, List.pairwise_cons, List.mem_cons, forall_eq_or_imp]
      constructor
      · rintro ⟨⟨hw, hab⟩, ⟨hb, hp⟩, hz, ht⟩
        exact ⟨⟨⟨hab, fun c hc => lt_trans hab (hb c hc)⟩, hb, hp⟩, hw, hz, ht⟩
      · rintro ⟨⟨⟨hab, _⟩, hb, hp⟩, hw, hz, ht⟩
        exact ⟨⟨hw, hab⟩, ⟨hb, hp⟩, hz, ht⟩

theorem mem_mapPut {α : Type} {m : FMap α} {n : Nat} {v : α} {x : Nat × α} (h : x ∈ mapPut m n v) : x = (n, v) ∨ x ∈ m := by
  induction m with
  | nil => simpa [mapPut] using h
  | cons y r ih =>
    obtain ⟨a, w⟩ := y
    simp only [mapPut] at h
    split at h
    · simpa using h
    · split at h
      · rcases List.mem_cons.1 h with h | h
        · exact .inl h
        · exact .inr (List.mem_cons_of_mem _ h)
      · rcases List.mem_cons.1 h with h | h
        · exact .inr (h ▸ List.mem_cons_self)
        · exact (ih h).imp_right (List.mem_cons_of_mem _)

theorem mapPut_pairwise {α : Type} {m : FMap α} (n : Nat) (v : α) (h : m.Pairwise (fun x y => x.1 < y.1)) :
    (mapPut m n v).Pairwise (fun x y => x.1 < y.1) := by
  induction m with
  | nil => simp [mapPut]
  | cons y r ih =>
    obtain ⟨a, w⟩ := y
    obtain ⟨ha, hr⟩ := List.pairwise_cons.1 h
    simp only [mapPut]
    split
    · rename_i hn
      refine List.pairwise_cons.2 ⟨fun x hx => ?_, h⟩
      rcases List.mem_cons.1 hx with hx | hx
      · exact hx ▸ hn
      · exact lt_trans hn (ha x hx)
    · split
      · subst_vars
        exact List.pairwise_cons.2 ⟨ha, hr⟩
      · refine List.pairwise_cons.2 ⟨fun x hx => ?_, ih hr⟩
        rcases mem_mapPut hx with hx | hx
        · subst hx
          show a < n
          omega
        · exact ha x hx

theorem mapDel_sublist {α : Type} (m : FMap α) (n : Nat) : (mapDel m n).Sublist m := by
  induction m with
  | nil => simp [mapDel]
  | cons y r ih =>
    simp only [mapDel]
    split
    · exact List.sublist_cons_self _ _
    · exact ih.cons_cons _

theorem mapWf_sublist {α : Type} [DecidableEq α] {d : α} {m m' : FMap α} (h : m'.Sublist m) (hm : mapWf d m = true) :
    mapWf d m' = true := by
  rw [mapWf_iff] at *
  exact ⟨hm.1.sublist h, fun x hx => hm.2 x (h.subset hx)⟩

/-- Setting an entry of a map in canonical form keeps the form. -/
theorem mapWf_mapPutD {α : Type} [DecidableEq α] {d : α} {m : FMap α} (n : Nat) (v : α) (hm : mapWf d m = true) :
    mapWf d (mapPutD d m n v) = true := by
  unfold mapPutD
  split
  · exact mapWf_sublist (mapDel_sublist m n) hm
  · rename_i hv
    rw [mapWf_iff] at *
    refine ⟨mapPut_pairwise n v hm.1, fun x hx => ?_⟩
    rcases mem_mapPut hx with hx | hx
    · exact hx ▸ hv
    · exact hm.2 x hx

theorem mapWf_filter {α : Type} [DecidableEq α] {d : α} {m : FMap α} (p : Nat × α → Bool) (hm : mapWf d m = true) :
    mapWf d (m.filter p) = true := mapWf_sublist List.filter_sublist hm

theorem mapGet_mapDel_other {α : Type} (m : FMap α) {n k : Nat} (h : k ≠ n) : mapGet (mapDel m n) k = mapGet m k := by
  induction m with
  | nil => simp [mapDel, mapGet]
  | cons x r ih =>
    obtain ⟨a, w⟩ := x
    simp only [mapDel]
    split
    · subst_vars
      simp [mapGet, Ne.symm h]
    · by_cases hk : a = k <;> simp [mapGet, hk, ih]

theorem mapGet_none_of_lt {α : Type} {m : FMap α} {n : Nat} (h : ∀ x ∈ m, n < x.1) : mapGet m n = none := by
  induction m with
  | nil => rfl
  | cons x r ih =>
    obtain ⟨a, w⟩ := x
    have ha : n < a := h (a, w) List.mem_cons_self
    simp [mapGet, Nat.ne_of_gt ha, ih (fun y hy => h y (List.mem_cons_of_mem _ hy))]

theorem mapGet_mapDel_same {α : Type} {m : FMap α} (n : Nat) (h : m.Pairwise (fun x y => x.1 < y.1)) : mapGet (mapDel m n) n = none := by
  induction m with
  | nil => rfl
  | cons x r ih =>
    obtain ⟨a, w⟩ := x
    obtain ⟨ha, hr⟩ := List.pairwise_cons.1 h
    simp only [mapDel]
    split
    · subst_vars
      exact mapGet_none_of_lt ha
    · rename_i hn
      simp [mapGet, Ne.symm hn, ih hr]

/-- A read of a map in canonical form after a write: the value written where it was written, and what was there before elsewhere. -/
theorem mapGetD_mapPutD {α : Type} [DecidableEq α] {d : α} {m : FMap α} (n k : Nat) (v : α) (hm : mapWf d m = true) :
    mapGetD (mapPutD d m n v) k d = if k = n then v else mapGetD m k d := by
  unfold mapPutD
  split
  · by_cases hk : k = n
    · subst hk
      simp_all [mapGetD, mapGet_mapDel_same k ((mapWf_iff _ m).1 hm).1]
    · simp [mapGetD, mapGet_mapDel_other _ hk, hk]
  · by_cases hk : k = n <;> simp [mapGetD, mapGet_mapPut, hk]

-- stored bytes ----------------------------------------------------------------------------------------------------------

/-- Storing bytes keeps the canonical form. -/
theorem storeBytes_wf (stack key addr : Nat) (bs : List Byte) (m : MemSt) (h : Memory.wf m.cells = true) :
    Memory.wf (storeBytes stack key addr bs m).cells = true := by
  induction bs generalizing addr m with
  | nil => exact h
  | cons b r ih => exact ih _ _ (mapWf_mapPutD _ _ h)

theorem storeEntry_wf (stack key base : Nat) (e : FMap Byte) (m : MemSt) (h : Memory.wf m.cells = true) :
    Memory.wf (storeEntry stack key base e m).cells = true := by
  induction e generalizing m with
  | nil => exact h
  | cons x r ih => exact ih _ (storeBytes_wf _ _ _ _ _ h)

theorem clearRange_wf (lo hi : Nat) (s : State) (h : MemOk s) : MemOk (clearRange lo hi s) := mapWf_filter _ h

theorem mergeFlushEntry_wf (stack : Nat) (e : MergeEntry) (s : State) (h : MemOk s) : MemOk (mergeFlushEntry stack e s) := by
  unfold mergeFlushEntry
  dsimp only
  split
  · exact h
  · exact storeEntry_wf _ _ _ _ _ h

theorem mergeFlushCb_wf (stack cb : Nat) (s : State) (h : MemOk s) : MemOk (mergeFlushCb stack cb s) := by
  unfold mergeFlushCb
  split
  · exact mergeFlushEntry_wf _ _ _ h
  · exact h

theorem mergeFlushList_wf (stack : Nat) (l : List MergeEntry) (s : State) (h : MemOk s) : MemOk (mergeFlushList stack l s) := by
  induction l generalizing s with
  | nil => exact h
  | cons e r ih => exact ih _ (mergeFlushEntry_wf _ _ _ h)

theorem fenceRows_wf (stack lo hi : Nat) (s : State) (h : MemOk s) : MemOk (fenceRows stack lo hi s) := mergeFlushList_wf _ _ _ h

theorem foldl_wf {α : Type} (f : State → α → State) (hf : ∀ s x, MemOk s → MemOk (f s x)) (l : List α) (s : State) (h : MemOk s) :
    MemOk (l.foldl f s) := by
  induction l generalizing s with
  | nil => exact h
  | cons x r ih => exact ih _ (hf _ _ h)

theorem fenceKey_wf (key : Nat) (s : State) (h : MemOk s) : MemOk (fenceKey key s) :=
  foldl_wf _ (fun _ _ h => mergeFlushList_wf _ _ _ h) _ _ h

theorem mergeWrite_wf (stack key cb off : Nat) (bs : List Byte) (s : State) (h : MemOk s) : MemOk (mergeWrite stack key cb off bs s) := by
  unfold mergeWrite
  split
  · dsimp only
    split
    · exact h
    · exact mergeFlushEntry_wf _ _ _ h
  · dsimp only
    split
    · exact h
    · split
      · exact mergeFlushEntry_wf _ _ _ h
      · exact h

theorem writeCb_wf (stack key addr : Nat) (bs : List Byte) (s : State) (h : MemOk s) : MemOk (writeCb stack key addr bs s) := by
  unfold writeCb
  dsimp only
  split
  · exact storeBytes_wf _ _ _ _ _ h
  · exact mergeWrite_wf _ _ _ _ _ _ h

theorem emit_wf (o : Out) (s : State) (h : MemOk s) : MemOk (emit o s) := h

theorem flitLeft_mem (x : QFlit) (s : State) : (flitLeft x s).mem = s.mem := by unfold flitLeft; split <;> rfl

theorem flitDrop_mem (x : QFlit) (s : State) : (flitDrop x s).mem = s.mem := flitLeft_mem x s

theorem flitQueue_mem (x : QFlit) (s : State) : (flitQueue x s).mem = s.mem := by
  unfold flitQueue
  dsimp only
  split
  · split
    · rfl
    · split
      · exact flitDrop_mem x s
      · exact flitLeft_mem x s
  · split
    · rfl
    · exact flitDrop_mem x s

theorem foldl_mem {α : Type} (f : State → α → State) (hf : ∀ s x, (f s x).mem = s.mem) (l : List α) (s : State) :
    (l.foldl f s).mem = s.mem := by
  induction l generalizing s with
  | nil => rfl
  | cons x r ih => exact (ih _).trans (hf s x)

theorem packetOut_mem (d : Nat) (p : Packet) (s : State) : (packetOut d p s).mem = s.mem := by
  unfold packetOut
  dsimp only
  split
  · rfl
  · split
    · unfold replayQueue
      split
      · rfl
      · exact foldl_mem _ (fun s x => flitDrop_mem x s) _ _
    · exact foldl_mem _ (fun s x => flitQueue_mem x s) _ _

/-- Sending a packet leaves the memory as it is. -/
theorem packetSend_mem (d : Nat) (p : Packet) (s : State) : (packetSend d p s).mem = s.mem := by
  unfold packetSend
  dsimp only
  split
  · split
    · rfl
    · exact packetOut_mem _ _ _
  · exact packetOut_mem _ _ _

theorem farWrite_wf (l : Loc) (n a : Nat) (bs : List Byte) (s : State) (h : MemOk s) : MemOk (farWrite l n a bs s) := by
  unfold farWrite MemOk
  dsimp only
  rw [packetSend_mem]
  exact h

theorem devWriteParts_wf (key : Nat) (l : List (Nat × Nat)) (bs : List Byte) (s : State) (h : MemOk s) :
    MemOk (devWriteParts key l bs s) := by
  induction l generalizing bs s with
  | nil => exact h
  | cons p r ih =>
    refine ih _ _ ?_
    split
    · exact farWrite_wf _ _ _ _ _ h
    · split
      · exact writeCb_wf _ _ _ _ _ h
      · exact h

/-- A write of device memory keeps the canonical form. -/
theorem devWrite_wf (key pa : Nat) (bs : List Byte) (s : State) (h : MemOk s) : MemOk (devWrite key pa bs s) :=
  devWriteParts_wf _ _ _ _ h

/-- A re-fill of device memory keeps the canonical form. -/
theorem devZero_wf (pa len : Nat) (s : State) (h : MemOk s) : MemOk (devZero pa len s) := by
  refine foldl_wf _ (fun s p h => ?_) _ _ h
  dsimp only
  have h' : MemOk (mergeDel (placeOf s p.1).stack ((placeOf s p.1).local_ / 1024) s) := h
  split
  · exact clearRange_wf _ _ _ h'
  · exact clearRange_wf _ _ _ h'

theorem slabZero_wf (stack slab : Nat) (s : State) (h : MemOk s) : MemOk (slabZero stack slab s) := clearRange_wf _ _ _ h

theorem linesLoosen_wf (key pa len : Nat) (s : State) (h : MemOk s) : MemOk (linesLoosen key pa len s) := by
  unfold linesLoosen
  induction heldLines s pa len generalizing s with
  | nil => exact h
  | cons x r ih => exact ih _ (devWrite_wf _ _ _ _ h)

theorem ncWrite_wf (key pa : Nat) (bs : List Byte) (s : State) (h : MemOk s) : MemOk (ncWrite key pa bs s) :=
  linesLoosen_wf _ _ _ _ (devWrite_wf _ _ _ _ h)

/-- Where no cache holds a line of the range, a non-coherent write is a plain one (R379). -/
theorem ncWrite_unheld (key pa : Nat) (bs : List Byte) (s : State) (h : heldLines (devWrite key pa bs s) pa bs.length = []) :
    ncWrite key pa bs s = devWrite key pa bs s := by
  simp [ncWrite, linesLoosen, h]

theorem devAtomic_wf (key pa code rowBytes : Nat) (data : List Byte) (s : State) (h : MemOk s) :
    MemOk (devAtomic key pa code rowBytes data s).2 := by
  unfold devAtomic
  dsimp only
  split
  · exact devWrite_wf _ _ _ _ h
  · exact h

theorem ncAtomic_wf (key pa code rowBytes : Nat) (data : List Byte) (s : State) (h : MemOk s) :
    MemOk (ncAtomic key pa code rowBytes data s).2 := by
  unfold ncAtomic
  dsimp only
  split
  · exact linesLoosen_wf _ _ _ _ (devAtomic_wf _ _ _ _ _ _ h)
  · exact devAtomic_wf _ _ _ _ _ _ h

/-- The memory after reset is canonical. -/
theorem reset_memOk : MemOk State.reset := rfl

/-- One stored byte is read back under the key it was stored under, and every other byte reads as before. -/
theorem loadByte_store (stack key addr a k : Nat) (b : Byte) (s : State) (h : MemOk s) (hk : mapWf 0 s.mem.keyOf = true) :
    loadByte { s with mem := storeBytes stack key addr [b] s.mem } stack k a =
      if a = addr then
        (if key = k then b
         else Config.decryptOther (keysOf s k).1 (keysOf s k).2 (xtsTweak s.sys.nodeId stack (a / 2 ^ 30) (a / 1024 % 2 ^ 20)) (a % 1024) key b)
      else loadByte s stack k a := by
  have hc : cellKey stack a = cellKey stack addr ↔ a = addr := by
    unfold cellKey
    omega
  simp only [loadByte, storeBytes, mapGetD_mapPutD _ _ _ h, mapGetD_mapPutD _ _ _ hk, hc]
  by_cases ha : a = addr <;> simp [ha, keysOf]

end Sys2Proof.Machine
end

