-- ==== Sys2Proof/Laws/Settle.lean ====
section
/-! SUPPORT. What telling the host something leaves as it is: the settling of interrupts after a command, event entries, posted
writes and writes of device memory change nothing but the parts that tells names. -/

namespace Sys2Proof.Machine

theorem SameBut.refl (l : List Part) (s : State) : SameBut l s s := ⟨rfl, fun p _ => by cases p <;> simp [Part.same]⟩

theorem Part.same_trans {s t u : State} (p : Part) (h : p.same s t) (h' : p.same t u) : p.same s u := by
  cases p <;> first | exact h'.trans h | simp_all [Part.same]

theorem SameBut.trans {l : List Part} {s t u : State} (h : SameBut l s t) (h' : SameBut l t u) : SameBut l s u :=
  ⟨h'.1.trans h.1, fun p hp => p.same_trans (h.2 p hp) (h'.2 p hp)⟩

theorem SameBut.mono {l l' : List Part} {s t : State} (h : SameBut l s t) (hl : ∀ p ∈ l, p ∈ l') : SameBut l' s t :=
  ⟨h.1, fun p hp => h.2 p (fun hp' => hp (hl p hp'))⟩

/-- A fold of a list keeps what each of its steps keeps. -/
theorem SameBut.foldl {α : Type} {l : List Part} {f : State → α → State} (hf : ∀ s x, SameBut l s (f s x)) (xs : List α) (s : State) :
    SameBut l s (xs.foldl f s) := by
  induction xs generalizing s with
  | nil => exact .refl l s
  | cons x r ih => exact (hf s x).trans (ih _)

theorem emit_same (o : Out) (s : State) : SameBut tells s (emit o s) :=
  ⟨rfl, fun p hp => by cases p <;> simp_all [Part.same, tells, emit]⟩

theorem irqRaise_same (i : Nat) (s : State) : SameBut tells s (irqRaise i s) :=
  ⟨rfl, fun p hp => by cases p <;> simp_all [Part.same, tells, irqRaise]⟩

theorem irqTgtMod_same (t : Nat) (f : IrqTgt → IrqTgt) (s : State) : SameBut tells s (irqTgtMod t f s) :=
  ⟨rfl, fun p hp => by cases p <;> simp_all [Part.same, tells, irqTgtMod]⟩

theorem eventMod_same (h : Handle) (f : Event → Event) (s : State) : SameBut tells s (eventMod h f s) :=
  ⟨rfl, fun p hp => by cases p <;> simp_all [Part.same, tells, eventMod]⟩

theorem portMod_same (p : Nat) (f : HostPort → HostPort) (s : State) : SameBut tells s (portMod p f s) :=
  ⟨rfl, fun q hq => by cases q <;> simp_all [Part.same, tells, portMod]⟩

theorem stackMod_same (k : Nat) (f : StackSt → StackSt) (s : State) : SameBut tells s (stackMod k f s) :=
  ⟨rfl, fun p hp => by cases p <;> simp_all [Part.same, tells, stackMod]⟩

theorem poisonPut_same (k r : Nat) (b : Bool) (s : State) : SameBut tells s (poisonPut k r b s) :=
  ⟨rfl, fun p hp => by cases p <;> simp_all [Part.same, tells, poisonPut]⟩

theorem poisonCapture_same (k r : Nat) (s : State) : SameBut tells s (poisonCapture k r s) :=
  ⟨rfl, fun p hp => by cases p <;> simp_all [Part.same, tells, poisonCapture, irqRaise]⟩

/-- Storing bytes changes only the cells and their keys. -/
theorem storeBytes_rest (stack key addr : Nat) (bs : List Byte) (m : MemSt) :
    ∃ c k, storeBytes stack key addr bs m = { m with cells := c, keyOf := k } := by
  induction bs generalizing addr m with
  | nil => exact ⟨m.cells, m.keyOf, rfl⟩
  | cons b r ih =>
    obtain ⟨c, k, h⟩ := ih (addr + 1)
      { m with cells := mapPutD (0 : Byte) m.cells (cellKey stack addr) b, keyOf := mapPutD 0 m.keyOf (cellKey stack addr) key }
    exact ⟨c, k, by simpa [storeBytes] using h⟩

theorem storeEntry_rest (stack key base : Nat) (e : FMap Byte) (m : MemSt) :
    ∃ c k, storeEntry stack key base e m = { m with cells := c, keyOf := k } := by
  induction e generalizing m with
  | nil => exact ⟨m.cells, m.keyOf, rfl⟩
  | cons x r ih =>
    obtain ⟨c, k, h⟩ := storeBytes_rest stack key (base + x.1) [x.2] m
    obtain ⟨c', k', h'⟩ := ih { m with cells := c, keyOf := k }
    exact ⟨c', k', by simp only [storeEntry, h, h']⟩

theorem cells_same (s : State) (m : MemSt) (h : ∃ c k, m = { s.mem with cells := c, keyOf := k }) : SameBut tells s { s with mem := m } := by
  obtain ⟨c, k, rfl⟩ := h
  exact ⟨rfl, fun p hp => by cases p <;> simp_all [Part.same, tells]⟩

theorem mergeFlushEntry_same (stack : Nat) (e : MergeEntry) (s : State) : SameBut tells s (mergeFlushEntry stack e s) := by
  unfold mergeFlushEntry
  dsimp only
  split
  · exact (stackMod_same _ _ s).trans (poisonCapture_same _ _ _)
  · exact (stackMod_same _ _ s).trans ((cells_same _ _ (storeEntry_rest _ _ _ _ _)).trans (poisonPut_same _ _ _ _))

theorem mergeWrite_same (stack key cb off : Nat) (bs : List Byte) (s : State) : SameBut tells s (mergeWrite stack key cb off bs s) := by
  unfold mergeWrite
  split
  · dsimp only
    split
    · exact stackMod_same _ _ s
    · exact (stackMod_same _ _ s).trans (mergeFlushEntry_same _ _ _)
  · dsimp only
    split
    · exact stackMod_same _ _ s
    · split
      · exact (mergeFlushEntry_same _ _ s).trans (stackMod_same _ _ _)
      · exact stackMod_same _ _ s

theorem writeCb_same (stack key addr : Nat) (bs : List Byte) (s : State) : SameBut tells s (writeCb stack key addr bs s) := by
  unfold writeCb
  dsimp only
  split
  · exact (stackMod_same _ _ s).trans ((cells_same _ _ (storeBytes_rest _ _ _ _ _)).trans (poisonPut_same _ _ _ _))
  · exact mergeWrite_same _ _ _ _ _ s

theorem anteFreeDraw_same (c i : Nat) (s : State) : SameBut tells s (anteFreeDraw c i s) :=
  ⟨rfl, fun p hp => by cases p <;> simp_all [Part.same, tells, anteFreeDraw, sysRest]⟩

theorem anteRequest_same (c i : Nat) (b : Bool) (s : State) : SameBut tells s (anteRequest c i b s) := by
  unfold anteRequest
  split
  · exact .refl _ _
  · exact ⟨rfl, fun p hp => by cases p <;> simp_all [Part.same, tells, sysRest]⟩

theorem anteGrantHead_same (s : State) : SameBut tells s (anteGrantHead s) := by
  unfold anteGrantHead
  split
  · exact .refl _ _
  · split
    · exact .refl _ _
    · exact ⟨rfl, fun p hp => by cases p <;> simp_all [Part.same, tells, sysRest]⟩

/-- Taking a draw changes nothing but the arbiter's two lists and its longest wait. -/
theorem anteTake_same (c i : Nat) (b : Bool) (s : State) : SameBut tells s (anteTake c i b s).2 := by
  unfold anteTake
  split
  · exact .refl _ _
  · dsimp only
    split
    · split
      · exact (anteRequest_same _ _ _ s).trans (anteGrantHead_same _)
      · exact anteRequest_same _ _ _ s
    · exact anteRequest_same _ _ _ s

theorem lnkPortMod_same (p : Nat) (f : LinkPort → LinkPort) (s : State) : SameBut tells s (lnkPortMod p f s) :=
  ⟨rfl, fun q hq => by cases q <;> simp_all [Part.same, tells, lnkPortMod, lnkRest]⟩

theorem flitLeft_same (x : QFlit) (s : State) : SameBut tells s (flitLeft x s) := by
  unfold flitLeft
  split
  · exact lnkPortMod_same _ _ s
  · exact .refl _ _

theorem lnkDrop_same (s : State) : SameBut tells s (lnkDrop s) :=
  ⟨rfl, fun q hq => by cases q <;> simp_all [Part.same, tells, lnkDrop, lnkRest]⟩

theorem flitDrop_same (x : QFlit) (s : State) : SameBut tells s (flitDrop x s) := (flitLeft_same x s).trans (lnkDrop_same _)

theorem flitQueue_same (x : QFlit) (s : State) : SameBut tells s (flitQueue x s) := by
  unfold flitQueue
  dsimp only
  split
  · split
    · exact lnkPortMod_same _ _ s
    · split
      · exact flitDrop_same _ s
      · exact flitLeft_same _ s
  · split
    · exact lnkPortMod_same _ _ s
    · exact flitDrop_same _ s

theorem replayQueue_same (d : Nat) (xs : List QFlit) (s : State) : SameBut tells s (replayQueue d xs s) := by
  unfold replayQueue
  split
  · exact lnkPortMod_same _ _ s
  · exact SameBut.foldl (fun s x => flitDrop_same x s) _ _

theorem packetOut_same (d : Nat) (p : Packet) (s : State) : SameBut tells s (packetOut d p s) := by
  unfold packetOut
  dsimp only
  split
  · exact emit_same _ s
  · split
    · exact (emit_same _ s).trans (replayQueue_same _ _ _)
    · exact (emit_same _ s).trans (SameBut.foldl (fun s x => flitQueue_same x s) _ _)

theorem tx_same (x : FMap TxPair) (s : State) : SameBut tells s { s with lnk := { s.lnk with tx := x } } :=
  ⟨rfl, fun q hq => by cases q <;> simp_all [Part.same, tells, lnkRest]⟩

theorem packetNew_same (d : Nat) (p : Packet) (s : State) : SameBut tells s (packetNew d p s) := (tx_same _ s).trans (packetOut_same _ _ _)

/-- Sending a packet changes nothing but its pair, the link ports and the record of what is sent. -/
theorem packetSend_same (d : Nat) (p : Packet) (s : State) : SameBut tells s (packetSend d p s) := by
  unfold packetSend
  dsimp only
  split
  · split
    · exact tx_same _ s
    · exact packetNew_same _ _ s
  · exact packetOut_same _ _ s

theorem txnOpen_same (d : Nat) (w : TxnFor) (s : State) : SameBut tells s (txnOpen d w s).2 :=
  ⟨rfl, fun q hq => by cases q <;> simp_all [Part.same, tells, txnOpen, lnkRest]⟩

theorem farWrite_same (l : Loc) (n a : Nat) (bs : List Byte) (s : State) : SameBut tells s (farWrite l n a bs s) :=
  (txnOpen_same n .other s).trans (packetSend_same _ _ _)

theorem devWriteParts_same (key : Nat) (l : List (Nat × Nat)) (bs : List Byte) (s : State) :
    SameBut tells s (devWriteParts key l bs s) := by
  induction l generalizing bs s with
  | nil => exact .refl _ _
  | cons p r ih =>
    refine SameBut.trans ?_ (ih (bs.drop p.2) _)
    split
    · exact farWrite_same _ _ _ _ s
    · split
      · exact writeCb_same _ _ _ _ s
      · exact .refl _ _

/-- A write of local device memory changes nothing but what the stacks hold (and, where it loses a merge entry, the capture). -/
theorem devWrite_same (key pa : Nat) (bs : List Byte) (s : State) : SameBut tells s (devWrite key pa bs s) := devWriteParts_same _ _ _ s

theorem portTake_same (p : Nat) (s : State) : SameBut tells s (portTake p s).2 := by
  unfold portTake
  split
  · exact .refl _ _
  · split
    · exact .refl _ _
    · dsimp only
      split
      · exact (anteTake_same _ _ _ s).trans (anteFreeDraw_same _ _ _)
      · exact (anteTake_same _ _ _ s).trans (portMod_same _ _ _)

theorem hostOut_same (p addr : Nat) (o : Out) (s : State) : SameBut tells s (hostOut p addr o s) := by
  unfold hostOut
  dsimp only
  split
  · split
    · exact portMod_same _ _ s
    · exact (emit_same _ s).trans (portMod_same _ _ _)
  · split
    · exact emit_same _ s
    · exact emit_same _ s

theorem hostDrainOf_same (p : Nat) (l : List (Nat × Out)) (s : State) : SameBut tells s (hostDrainOf p l s) := by
  induction l generalizing s with
  | nil => exact .refl _ _
  | cons x r ih =>
    refine SameBut.trans ?_ (ih _)
    split
    · exact (portMod_same _ _ s).trans (hostOut_same _ _ _ _)
    · exact .refl _ _

theorem hostDrain_same (p : Nat) (s : State) : SameBut tells s (hostDrain p s) := by
  unfold hostDrain
  split
  · exact hostDrainOf_same _ _ s
  · exact .refl _ _

/-- Sending on a host port changes nothing but the port, its draw and the record of what is sent. -/
theorem hostSend_same (p addr : Nat) (o : Out) (s : State) : SameBut tells s (hostSend p addr o s) := by
  unfold hostSend
  dsimp only
  split
  · exact (portTake_same p s).trans (hostOut_same _ _ _ _)
  · have h := (portTake_same p s).trans (portMod_same p (fun h => { h with held := h.held ++ [(addr, o)] }) _)
    split
    · exact h.trans (hostDrain_same _ _)
    · exact h

theorem unconfirm_same (p : Nat) (u : Unconfirmed) (s : State) : SameBut tells s (unconfirm p u s) := portMod_same _ _ s

theorem hostWrite_same {t addr : Nat} {bs : List Byte} {s s' : State} (h : hostWrite t addr bs s = some s') : SameBut tells s s' := by
  unfold hostWrite at h
  split at h
  · obtain rfl := Option.some.inj h
    exact (hostSend_same _ _ _ s).trans (unconfirm_same _ _ _)
  · cases h

theorem objWrite_same {t : Nat} {o : Handle} {off : Nat} {bs : List Byte} {s s' : State} (h : objWrite t o off bs s = some s') :
    SameBut tells s s' := by
  unfold objWrite at h
  split at h
  · obtain rfl := Option.some.inj h
    exact .refl _ _
  · split at h
    · obtain rfl := Option.some.inj h
      exact .refl _ _
    · split at h
      · exact hostWrite_same h
      · obtain rfl := Option.some.inj h
        exact devWrite_same _ _ _ s

theorem msixSend_same (p v : Nat) (s : State) : SameBut tells s (msixSend p v s) := by
  unfold msixSend
  split
  · exact (emit_same _ s).trans (unconfirm_same _ _ _)
  · exact portMod_same _ _ s

theorem eventMessage_same (h : Handle) (s : State) : SameBut tells s (eventMessage h s) := by
  unfold eventMessage
  repeat' first | exact .refl _ _ | exact eventMod_same _ _ s | exact (msixSend_same _ _ s).trans (eventMod_same _ _ _) | split | dsimp only

theorem eventFlushN_same (n : Nat) (h : Handle) (s : State) : SameBut tells s (eventFlushN n h s) := by
  induction n generalizing s with
  | zero => exact .refl _ _
  | succ n ih =>
    unfold eventFlushN
    split
    · exact .refl _ _
    · split
      · exact .refl _ _
      · split
        · exact (eventMod_same _ _ s).trans (ih _)
        · split
          · exact .refl _ _
          · rename_i hw
            exact (objWrite_same hw).trans ((eventMod_same _ _ _).trans ((eventMessage_same _ _).trans (ih _)))

theorem irqHeldAgain_same (s : State) : SameBut tells s (irqHeldAgain s) :=
  ⟨rfl, fun p hp => by cases p <;> simp_all [Part.same, tells, irqHeldAgain]⟩

theorem eventFlush_same (h : Handle) (s : State) : SameBut tells s (eventFlush h s) := by
  unfold eventFlush
  split
  · split
    · exact .refl _ _
    · exact (eventFlushN_same _ _ s).trans (irqHeldAgain_same _)
  · exact .refl _ _

theorem eventAppend_same (h : Handle) (x : EventEntry) (s : State) : SameBut tells s (eventAppend h x s) :=
  (eventMod_same _ _ s).trans (eventFlush_same _ _)

/-- An event entry changes nothing but what telling the host changes. -/
theorem eventWrite_same (h : Handle) (x : EventEntry) (s : State) : SameBut tells s (eventWrite h x s) := by
  unfold eventWrite
  split
  · split
    · exact .refl _ _
    · dsimp only
      split
      · exact eventAppend_same _ _ s
      · split
        · exact (eventMod_same _ _ s).trans (eventAppend_same _ _ _)
        · exact eventMod_same _ _ s
  · exact .refl _ _

theorem irqArm_same (s : State) (t : Nat) : SameBut tells s (irqArm s t) := by
  unfold irqArm
  dsimp only
  split
  · exact .refl _ _
  · split
    · exact (irqTgtMod_same _ _ s).trans (emit_same _ _)
    · exact (irqTgtMod_same _ _ s).trans ((eventWrite_same _ _ _).trans (irqTgtMod_same _ _ _))

/-- The settling of interrupts changes nothing but what telling the host changes. -/
theorem irqSettle_same (s : State) : SameBut tells s (irqSettle s) := by
  unfold irqSettle
  split
  · exact SameBut.foldl irqArm_same _ s
  · exact .refl _ _

section Fields
variable (s : State)

theorem irqSettle_sysRest : sysRest (irqSettle s).sys = sysRest s.sys := (irqSettle_same s).2 .sys (by decide)

theorem irqSettle_lnkRest : lnkRest (irqSettle s).lnk = lnkRest s.lnk := (irqSettle_same s).2 .lnk (by decide)

@[simp] theorem irqSettle_sys_phase : (irqSettle s).sys.phase = s.sys.phase := by have h := congrArg SysSt.phase (irqSettle_sysRest s); exact h
@[simp] theorem irqSettle_sys_fuseStuck : (irqSettle s).sys.fuseStuck = s.sys.fuseStuck := by have h := congrArg SysSt.fuseStuck (irqSettle_sysRest s); exact h
@[simp] theorem irqSettle_sys_stopped : (irqSettle s).sys.stopped = s.sys.stopped := by have h := congrArg SysSt.stopped (irqSettle_sysRest s); exact h
@[simp] theorem irqSettle_sys_fuse : (irqSettle s).sys.fuse = s.sys.fuse := by have h := congrArg SysSt.fuse (irqSettle_sysRest s); exact h
@[simp] theorem irqSettle_sys_nodeId : (irqSettle s).sys.nodeId = s.sys.nodeId := by have h := congrArg SysSt.nodeId (irqSettle_sysRest s); exact h
@[simp] theorem irqSettle_sys_swErr : (irqSettle s).sys.swErr = s.sys.swErr := by have h := congrArg SysSt.swErr (irqSettle_sysRest s); exact h
@[simp] theorem irqSettle_sys_swErrAddr : (irqSettle s).sys.swErrAddr = s.sys.swErrAddr := by have h := congrArg SysSt.swErrAddr (irqSettle_sysRest s); exact h
@[simp] theorem irqSettle_sys_time : (irqSettle s).sys.time = s.sys.time := by have h := congrArg SysSt.time (irqSettle_sysRest s); exact h
@[simp] theorem irqSettle_sys_timeRuns : (irqSettle s).sys.timeRuns = s.sys.timeRuns := by have h := congrArg SysSt.timeRuns (irqSettle_sysRest s); exact h
@[simp] theorem irqSettle_sys_srcEnable : (irqSettle s).sys.srcEnable = s.sys.srcEnable := by have h := congrArg SysSt.srcEnable (irqSettle_sysRest s); exact h
@[simp] theorem irqSettle_sys_srcAltValid : (irqSettle s).sys.srcAltValid = s.sys.srcAltValid := by have h := congrArg SysSt.srcAltValid (irqSettle_sysRest s); exact h
@[simp] theorem irqSettle_sys_srcAltPort : (irqSettle s).sys.srcAltPort = s.sys.srcAltPort := by have h := congrArg SysSt.srcAltPort (irqSettle_sysRest s); exact h
@[simp] theorem irqSettle_sys_srcPort : (irqSettle s).sys.srcPort = s.sys.srcPort := by have h := congrArg SysSt.srcPort (irqSettle_sysRest s); exact h
@[simp] theorem irqSettle_sys_timeState : (irqSettle s).sys.timeState = s.sys.timeState := by have h := congrArg SysSt.timeState (irqSettle_sysRest s); exact h
@[simp] theorem irqSettle_sys_offset : (irqSettle s).sys.offset = s.sys.offset := by have h := congrArg SysSt.offset (irqSettle_sysRest s); exact h
@[simp] theorem irqSettle_sys_activePort : (irqSettle s).sys.activePort = s.sys.activePort := by have h := congrArg SysSt.activePort (irqSettle_sysRest s); exact h
@[simp] theorem irqSettle_sys_timeFault : (irqSettle s).sys.timeFault = s.sys.timeFault := by have h := congrArg SysSt.timeFault (irqSettle_sysRest s); exact h
@[simp] theorem irqSettle_sys_srcLost : (irqSettle s).sys.srcLost = s.sys.srcLost := by have h := congrArg SysSt.srcLost (irqSettle_sysRest s); exact h
@[simp] theorem irqSettle_sys_codes : (irqSettle s).sys.codes = s.sys.codes := by have h := congrArg SysSt.codes (irqSettle_sysRest s); exact h
@[simp] theorem irqSettle_sys_lastCode : (irqSettle s).sys.lastCode = s.sys.lastCode := by have h := congrArg SysSt.lastCode (irqSettle_sysRest s); exact h
@[simp] theorem irqSettle_sys_lastSlew : (irqSettle s).sys.lastSlew = s.sys.lastSlew := by have h := congrArg SysSt.lastSlew (irqSettle_sysRest s); exact h
@[simp] theorem irqSettle_sys_withhold : (irqSettle s).sys.withhold = s.sys.withhold := by have h := congrArg SysSt.withhold (irqSettle_sysRest s); exact h
@[simp] theorem irqSettle_sys_slewGap : (irqSettle s).sys.slewGap = s.sys.slewGap := by have h := congrArg SysSt.slewGap (irqSettle_sysRest s); exact h
@[simp] theorem irqSettle_sys_slewBack : (irqSettle s).sys.slewBack = s.sys.slewBack := by have h := congrArg SysSt.slewBack (irqSettle_sysRest s); exact h
@[simp] theorem irqSettle_sys_pllLost : (irqSettle s).sys.pllLost = s.sys.pllLost := by have h := congrArg SysSt.pllLost (irqSettle_sysRest s); exact h
@[simp] theorem irqSettle_sys_pllLock : (irqSettle s).sys.pllLock = s.sys.pllLock := by have h := congrArg SysSt.pllLock (irqSettle_sysRest s); exact h
@[simp] theorem irqSettle_sys_pllFailed : (irqSettle s).sys.pllFailed = s.sys.pllFailed := by have h := congrArg SysSt.pllFailed (irqSettle_sysRest s); exact h
@[simp] theorem irqSettle_sys_pllOut : (irqSettle s).sys.pllOut = s.sys.pllOut := by have h := congrArg SysSt.pllOut (irqSettle_sysRest s); exact h
@[simp] theorem irqSettle_sys_telStale : (irqSettle s).sys.telStale = s.sys.telStale := by have h := congrArg SysSt.telStale (irqSettle_sysRest s); exact h
@[simp] theorem irqSettle_sys_telNow : (irqSettle s).sys.telNow = s.sys.telNow := by have h := congrArg SysSt.telNow (irqSettle_sysRest s); exact h
@[simp] theorem irqSettle_sys_telSum : (irqSettle s).sys.telSum = s.sys.telSum := by have h := congrArg SysSt.telSum (irqSettle_sysRest s); exact h
@[simp] theorem irqSettle_sys_telCount : (irqSettle s).sys.telCount = s.sys.telCount := by have h := congrArg SysSt.telCount (irqSettle_sysRest s); exact h
@[simp] theorem irqSettle_sys_telLast : (irqSettle s).sys.telLast = s.sys.telLast := by have h := congrArg SysSt.telLast (irqSettle_sysRest s); exact h
@[simp] theorem irqSettle_sys_anteLimit : (irqSettle s).sys.anteLimit = s.sys.anteLimit := by have h := congrArg SysSt.anteLimit (irqSettle_sysRest s); exact h
@[simp] theorem irqSettle_sys_fabricHeld : (irqSettle s).sys.fabricHeld = s.sys.fabricHeld := by have h := congrArg SysSt.fabricHeld (irqSettle_sysRest s); exact h
@[simp] theorem irqSettle_sys_fabricSent : (irqSettle s).sys.fabricSent = s.sys.fabricSent := by have h := congrArg SysSt.fabricSent (irqSettle_sysRest s); exact h
@[simp] theorem irqSettle_sys_escape : (irqSettle s).sys.escape = s.sys.escape := by have h := congrArg SysSt.escape (irqSettle_sysRest s); exact h
@[simp] theorem irqSettle_sys_aonValid : (irqSettle s).sys.aonValid = s.sys.aonValid := by have h := congrArg SysSt.aonValid (irqSettle_sysRest s); exact h
@[simp] theorem irqSettle_sys_aonCause : (irqSettle s).sys.aonCause = s.sys.aonCause := by have h := congrArg SysSt.aonCause (irqSettle_sysRest s); exact h
@[simp] theorem irqSettle_sys_aonTime : (irqSettle s).sys.aonTime = s.sys.aonTime := by have h := congrArg SysSt.aonTime (irqSettle_sysRest s); exact h
@[simp] theorem irqSettle_sys_coresOff : (irqSettle s).sys.coresOff = s.sys.coresOff := by have h := congrArg SysSt.coresOff (irqSettle_sysRest s); exact h
@[simp] theorem irqSettle_sys_cfOpen : (irqSettle s).sys.cfOpen = s.sys.cfOpen := by have h := congrArg SysSt.cfOpen (irqSettle_sysRest s); exact h
@[simp] theorem irqSettle_lnk_routes : (irqSettle s).lnk.routes = s.lnk.routes := by have h := congrArg LnkSt.routes (irqSettle_lnkRest s); exact h
@[simp] theorem irqSettle_lnk_timeout : (irqSettle s).lnk.timeout = s.lnk.timeout := by have h := congrArg LnkSt.timeout (irqSettle_lnkRest s); exact h
@[simp] theorem irqSettle_lnk_giveup : (irqSettle s).lnk.giveup = s.lnk.giveup := by have h := congrArg LnkSt.giveup (irqSettle_lnkRest s); exact h
@[simp] theorem irqSettle_lnk_denValid : (irqSettle s).lnk.denValid = s.lnk.denValid := by have h := congrArg LnkSt.denValid (irqSettle_lnkRest s); exact h
@[simp] theorem irqSettle_lnk_denTenant : (irqSettle s).lnk.denTenant = s.lnk.denTenant := by have h := congrArg LnkSt.denTenant (irqSettle_lnkRest s); exact h
@[simp] theorem irqSettle_lnk_denPort : (irqSettle s).lnk.denPort = s.lnk.denPort := by have h := congrArg LnkSt.denPort (irqSettle_lnkRest s); exact h
@[simp] theorem irqSettle_lnk_denVc : (irqSettle s).lnk.denVc = s.lnk.denVc := by have h := congrArg LnkSt.denVc (irqSettle_lnkRest s); exact h
@[simp] theorem irqSettle_lnk_denType : (irqSettle s).lnk.denType = s.lnk.denType := by have h := congrArg LnkSt.denType (irqSettle_lnkRest s); exact h
@[simp] theorem irqSettle_lnk_denSrc : (irqSettle s).lnk.denSrc = s.lnk.denSrc := by have h := congrArg LnkSt.denSrc (irqSettle_lnkRest s); exact h
@[simp] theorem irqSettle_lnk_denCnt : (irqSettle s).lnk.denCnt = s.lnk.denCnt := by have h := congrArg LnkSt.denCnt (irqSettle_lnkRest s); exact h
@[simp] theorem irqSettle_lnk_rx : (irqSettle s).lnk.rx = s.lnk.rx := by have h := congrArg LnkSt.rx (irqSettle_lnkRest s); exact h
@[simp] theorem irqSettle_lnk_slabWait : (irqSettle s).lnk.slabWait = s.lnk.slabWait := by have h := congrArg LnkSt.slabWait (irqSettle_lnkRest s); exact h
@[simp] theorem irqSettle_lnk_relays : (irqSettle s).lnk.relays = s.lnk.relays := by have h := congrArg LnkSt.relays (irqSettle_lnkRest s); exact h
@[simp] theorem irqSettle_lnk_nextRelay : (irqSettle s).lnk.nextRelay = s.lnk.nextRelay := by have h := congrArg LnkSt.nextRelay (irqSettle_lnkRest s); exact h
@[simp] theorem irqSettle_bnd : (irqSettle s).bnd = s.bnd := (irqSettle_same s).2 .bnd (by decide)
@[simp] theorem irqSettle_tables : (irqSettle s).tables = s.tables := (irqSettle_same s).2 .tables (by decide)
@[simp] theorem irqSettle_trn : (irqSettle s).trn = s.trn := (irqSettle_same s).2 .trn (by decide)
@[simp] theorem irqSettle_nme : (irqSettle s).nme = s.nme := (irqSettle_same s).2 .nme (by decide)
@[simp] theorem irqSettle_tck : (irqSettle s).tck = s.tck := (irqSettle_same s).2 .tck (by decide)
@[simp] theorem irqSettle_coh : (irqSettle s).coh = s.coh := (irqSettle_same s).2 .coh (by decide)
@[simp] theorem irqSettle_mbx : (irqSettle s).mbx = s.mbx := (irqSettle_same s).2 .mbx (by decide)
@[simp] theorem irqSettle_pwr : (irqSettle s).pwr = s.pwr := (irqSettle_same s).2 .pwr (by decide)
@[simp] theorem irqSettle_fresh : (irqSettle s).fresh = s.fresh := (irqSettle_same s).2 .fresh (by decide)
@[simp] theorem irqSettle_pending : (irqSettle s).pending = s.pending := (irqSettle_same s).1
@[simp] theorem irqSettle_slots : (irqSettle s).obj.slots = s.obj.slots := ((irqSettle_same s).2 .objects (by decide)).1
@[simp] theorem irqSettle_ctxs : (irqSettle s).obj.ctxs = s.obj.ctxs := ((irqSettle_same s).2 .objects (by decide)).2.1
@[simp] theorem irqSettle_queues : (irqSettle s).obj.queues = s.obj.queues := ((irqSettle_same s).2 .objects (by decide)).2.2.1
@[simp] theorem irqSettle_mems : (irqSettle s).obj.mems = s.obj.mems := ((irqSettle_same s).2 .objects (by decide)).2.2.2.1
@[simp] theorem irqSettle_channels : (irqSettle s).obj.channels = s.obj.channels :=
  ((irqSettle_same s).2 .objects (by decide)).2.2.2.2.1
@[simp] theorem irqSettle_models : (irqSettle s).obj.models = s.obj.models := ((irqSettle_same s).2 .objects (by decide)).2.2.2.2.2.1
@[simp] theorem irqSettle_dying : (irqSettle s).obj.dying = s.obj.dying := ((irqSettle_same s).2 .objects (by decide)).2.2.2.2.2.2.1
@[simp] theorem irqSettle_pages : (irqSettle s).obj.pages = s.obj.pages := ((irqSettle_same s).2 .objects (by decide)).2.2.2.2.2.2.2.1
@[simp] theorem irqSettle_dbSlots : (irqSettle s).obj.dbSlots = s.obj.dbSlots :=
  ((irqSettle_same s).2 .objects (by decide)).2.2.2.2.2.2.2.2.1
@[simp] theorem irqSettle_launched : (irqSettle s).obj.launched = s.obj.launched :=
  ((irqSettle_same s).2 .objects (by decide)).2.2.2.2.2.2.2.2.2.1
@[simp] theorem irqSettle_doneWaits : (irqSettle s).obj.doneWaits = s.obj.doneWaits :=
  ((irqSettle_same s).2 .objects (by decide)).2.2.2.2.2.2.2.2.2.2.2
@[simp] theorem irqSettle_hifTbl : (irqSettle s).hif.tbl = s.hif.tbl := ((irqSettle_same s).2 .host (by decide)).1
@[simp] theorem irqSettle_win : (irqSettle s).hif.win = s.hif.win := ((irqSettle_same s).2 .host (by decide)).2.1
@[simp] theorem irqSettle_hdm : (irqSettle s).hif.hdm = s.hif.hdm := ((irqSettle_same s).2 .host (by decide)).2.2.1
@[simp] theorem irqSettle_ce : (irqSettle s).hif.ce = s.hif.ce := ((irqSettle_same s).2 .host (by decide)).2.2.2.1
@[simp] theorem irqSettle_keys : (irqSettle s).mem.keys = s.mem.keys := ((irqSettle_same s).2 .memory (by decide)).2.1
@[simp] theorem irqSettle_rowLocal : (irqSettle s).mem.rowLocal = s.mem.rowLocal := ((irqSettle_same s).2 .memory (by decide)).1
@[simp] theorem irqSettle_scrubs : (irqSettle s).mem.scrubs = s.mem.scrubs := ((irqSettle_same s).2 .memory (by decide)).2.2.2.1

end Fields

end Sys2Proof.Machine
end

