-- ==== Sys2Proof/Laws/Frames.lean ====
section
/-! SUPPORT. The frames in which commands run: when a command takes effect and what its next state is then, and when it leaves the
state as it is. -/

namespace Sys2Proof.Machine

theorem live_serving {s : State} (h : Serving s) (f : State → State) : live s f = .next (irqSettle (f s)) := by
  simp only [live, finish]
  exact if_pos h

theorem liveOn_serving {s : State} {k : Nat} (h : Serving s) (hk : pllOn s k = true) (f : State → State) :
    liveOn k s f = .next (irqSettle (f s)) := by simp only [liveOn, hk, if_true, live_serving h]

theorem live_off {s : State} (h : running s = false) (f : State → State) : live s f = .next s := by simp only [live, h]; rfl

theorem running_of_stopped {s : State} (h : s.sys.stopped = true) : running s = false := by simp [running, h]

theorem portLinked_of_stopped {s : State} (h : s.sys.stopped = true) (p : Nat) : portLinked s p = false := by
  simp [portLinked, hostOn, h]

theorem barOpen_of_stopped {s : State} (h : s.sys.stopped = true) (p : Nat) : barOpen s p = false := by simp [barOpen, hostOn, h]

theorem bar_open {s : State} {p : Nat} (h : barOpen s p = true) (b : Bool) (f : State → State) :
    bar p b f s = .next (irqSettle (f s)) := by simp only [bar, h, finish]; rfl

theorem bar_refused {s : State} {p : Nat} (h : barOpen s p = false) (hl : portLinked s p = true) (b : Bool) (f : State → State) :
    bar p b f s = .next (irqSettle (urDone p b s)) := by simp only [bar, h, hl, finish]; rfl

theorem bar_off {s : State} {p : Nat} (h : barOpen s p = false) (hl : portLinked s p = false) (b : Bool) (f : State → State) :
    bar p b f s = .next s := by simp only [bar, h, hl]; rfl

theorem linkRow_on {s : State} (h : linksOn s = true) (f : State → State) : linkRow f s = .next (irqSettle (f s)) := by
  simp only [linkRow, h, finish]; rfl

theorem linkRow_off {s : State} (h : linksOn s = false) (f : State → State) : linkRow f s = .next s := by
  simp only [linkRow, h]; rfl

theorem anteRow_on {s : State} (h : s.sys.stopped = false) (hp : pllOn s 11 = true) (f : State → State) :
    anteRow f s = .next (irqSettle (f s)) := by
  simp [anteRow, h, hp, finish]

theorem fabricRow_on {s : State} (h : s.sys.stopped = false) (hp : pllOn s 9 = true) (f : State → State) :
    fabricRow f s = .next (irqSettle (f s)) := by
  simp [fabricRow, h, hp, finish]

theorem phaseEnd_on {s : State} {p : Phase} (h : s.sys.phase = p) (hs : s.sys.stopped = false) (f : State → State) :
    phaseEnd p f s = .next (irqSettle (f s)) := by simp [phaseEnd, h, hs, finish]

theorem boxOf_taken (op : Nat) (m : Fin 64) (s : State) :
    boxOf (taken op m s) m.val = { boxOf s m.val with opcode := op, executing := true, journalled := true } := by
  simp only [boxOf, taken, boxMod, mapGetD_mapUp_same]

theorem gateStatus_taken {s : State} {m : Fin 64} {l : Letter} (h : Takes s m l) (op : Nat) : gateStatus (taken op m s) m l = .ok := by
  have hl : letterOk (taken op m s) m l = true := by
    have := h.2.2
    simp only [letterOk, boxOf_taken] at this ⊢
    exact this
  simp only [gateStatus, boxOf_taken, h.2.1, hl]
  rfl

/-- A request that is taken: its next state is that of its effect on the state that has taken it, with the answer where there is one. -/
theorem gararn_takes {s : State} {c : Caller} {l : Letter} (h : Takes s c.mbx l) (op : Nat) (f : State → Outcome) :
    gararn op l c f s = .next (irqSettle (match (f (taken op c.mbx s)).reply with
      | some a => answer c.mbx.val a (f (taken op c.mbx s)).s
      | none => (f (taken op c.mbx s)).s)) := by
  have hk : running s = true := h.1.1
  have hc : coreRuns s = true := h.1.2
  rw [gararn, live_serving hk]
  have hg : gateStatus (boxMod c.mbx.val (fun b => { b with opcode := op, executing := true, journalled := true }) s) c.mbx l = .ok :=
    gateStatus_taken h op
  simp only [hc, if_true, execute, executeAny, hg]
  rfl

theorem gararn_off {s : State} (h : running s = false) (op : Nat) (l : Letter) (c : Caller) (f : State → Outcome) :
    gararn op l c f s = .next s := live_off h _

/-- The table that a caller's request acts on is the same once the request is taken. -/
theorem callerTable_taken (op : Nat) (c : Caller) (s : State) : callerTable (taken op c.mbx s) c = callerTable s c := by
  have h : (boxOf (taken op c.mbx s) c.mbx).assigned = (boxOf s c.mbx).assigned := by rw [boxOf_taken]
  unfold callerTable
  rw [h]
  rfl

/-- A request on a table that lives here is its effect on that table. -/
theorem withTable_on {s : State} {c : Caller} {t : Nat} (h : OnTable s c t) (f : Nat → State → Outcome) : withTable c f s = f t s := by
  have : callerTable s c = .ok t := h
  simp only [withTable, this]

theorem onTable_taken {s : State} {c : Caller} {t : Nat} (h : OnTable s c t) (op : Nat) : OnTable (taken op c.mbx s) c t :=
  (callerTable_taken op c s).trans h

/-- An answer of a control core that runs is given at once. -/
theorem answer_now {s : State} (h : coreAnswers s = true) (m : Nat) (r : Reply) : answer m r s = answerNow m r s := by
  simp [answer, h]

/-- A mailbox right after its answer. -/
theorem boxOf_answer {s : State} (h : coreAnswers s = true) (m : Nat) (r : Reply) :
    boxOf (answer m r s) m = { boxOf s m with
      busy := false, done := true, executing := false, journalled := false, lastSeq := (boxOf s m).seq
      resp := some ⟨(boxOf s m).opcode, r.st, r.detail, (boxOf s m).seq, r.handle, now s, r.body⟩
      stored := some ⟨(boxOf s m).opcode, r.st, r.detail, (boxOf s m).seq, r.handle, now s, r.body⟩
      owed := none } := by
  rw [answer_now h]
  simp only [boxOf, answerNow, irqRaise, boxMod, mapGetD_mapUp_same]

theorem answered_answer {s : State} (h : coreAnswers s = true) (m : Fin 64) (r : Reply) :
    Answered (answer m.val r s) m r.st r.handle r.body := by
  simp [Answered, boxOf_answer h]

/-- An answer that the control core still owes is kept, and the mailbox stays as it is (R507). -/
theorem answer_owed {s : State} (h : coreAnswers s = false) (m : Nat) (r : Reply) :
    answer m r s = boxMod m (fun b => { b with owed := some r }) s := by simp [answer, h]

/-- An answer stays through the settling of interrupts. -/
theorem answered_settle {t : State} {m : Fin 64} {st : Status} {h : Handle} {b : List Byte} (ha : Answered t m st h b) :
    Answered (irqSettle t) m st h b := by
  simpa [Answered, boxOf] using ha

end Sys2Proof.Machine
end

