-- ==== Sys2Proof/Laws/Links.lean ====
section
/-! SUPPORT. What the link layer's operations leave as they are: they change nothing but the ports, the pairs, the interrupt sources and
the record of what is sent. -/

namespace Sys2Proof.Machine

theorem ports_same (m : FMap LinkPort) (s : State) : SameBut tells s { s with lnk := { s.lnk with ports := m } } :=
  ⟨rfl, fun q hq => by cases q <;> simp_all [Part.same, tells, lnkRest]⟩

theorem linkBuffersLose_same (p : Nat) (s : State) : SameBut tells s (linkBuffersLose p s) :=
  ((SameBut.foldl (fun s x => flitLeft_same x s) _ s).trans (lnkPortMod_same p _ _)).trans (ports_same _ _)

theorem linkTrain_same (p : Nat) (s : State) : SameBut tells s (linkTrain p s) :=
  (linkBuffersLose_same p s).trans (lnkPortMod_same _ _ _)

theorem lnkReroute_same (s : State) : SameBut tells s (lnkReroute s) := by
  unfold lnkReroute
  refine SameBut.foldl (fun s p => ?_) _ s
  dsimp only
  split
  · exact .refl _ _
  · exact (lnkPortMod_same _ _ s).trans (SameBut.foldl (fun s x => flitQueue_same x s) _ _)

/-- A link port that goes down changes nothing but the link layer, source 48 and the record of what is sent. -/
theorem linkDown_same (p : Nat) (c : DownCause) (s : State) : SameBut tells s (linkDown p c s) := by
  unfold linkDown
  split
  · exact .refl _ _
  · dsimp only
    refine SameBut.trans ?_ (SameBut.foldl (fun s x => SameBut.foldl (fun s k => ?_) _ s) _ _)
    · exact (((linkBuffersLose_same p s).trans (lnkPortMod_same _ _ _)).trans (lnkReroute_same _)).trans (irqRaise_same _ _)
    · exact (packetOut_same _ _ s).trans (tx_same _ _)

end Sys2Proof.Machine
end

