-- ==== Sys2Proof/Machine/ConfigSpace.lean ====
section
/-! DEFINITION. What the configuration space of a host function presents (R458 to R463): the type 0 header, the capability lists and the
Jendoza DVSEC. No command of the table reads it (notes/assumptions/83). -/

namespace Sys2Proof.Machine

/-- A field of the configuration header: its offset, its size in bytes and its value. -/
structure CfgField where
  offset : Nat
  size : Nat
  value : Nat
  deriving DecidableEq, Repr

/-- The Command register of a port (R461). -/
def cfgCommand (h : HostPort) : Nat := 2 * b2n h.mse + 4 * b2n h.bme + 256 * b2n h.serr + 1024 * b2n h.intxDisable

/-- The type 0 header of a port (R2, R461, R462); for a BAR, the low bits. -/
def cfgHeader (s : State) (p : Nat) : List CfgField :=
  let f := s.sys.fuse
  [⟨0x00, 2, f.vendorId⟩, ⟨0x02, 2, f.deviceId⟩, ⟨0x04, 2, cfgCommand (portOf s p)⟩, ⟨0x08, 1, f.revisionId⟩, ⟨0x09, 3, 0x120000⟩,
   ⟨0x0E, 1, 0⟩, ⟨0x10, 8, 0x4⟩, ⟨0x18, 8, 0xC⟩, ⟨0x20, 8, 0x4⟩, ⟨0x2C, 2, f.subsysVendorId⟩, ⟨0x2E, 2, f.subsysId⟩, ⟨0x30, 4, 0⟩,
   ⟨0x34, 1, 0x40⟩, ⟨0x3D, 1, 0⟩]

/-- A BAR: its offset in the header, its size and whether it is prefetchable (R461). -/
def cfgBars : List (Nat × Nat × Bool) := [(0x10, 2 ^ 25, false), (0x18, 2 ^ 30, true), (0x20, 2 ^ 16, false)]

/-- A capability structure (R463): its offset, ID, size and Next pointer, and the values that the hub sets, by name. -/
structure Capability where
  offset : Nat
  id : Nat
  size : Nat
  next : Nat
  values : List (String × Nat) := []
  deriving DecidableEq, Repr

/-- The capability list of a function, and its extended list from 0x100 on (R458, R463). -/
def capabilities : List Capability :=
  [⟨0x040, 0x01, 0x08, 0x50, [("version", 3), ("D1", 0), ("D2", 0), ("PME", 0), ("No_Soft_Reset", 1)]⟩,
   ⟨0x050, 0x10, 0x3C, 0x90, [("version", 2), ("MPS supported", 512), ("Role-Based Error Reporting", 1), ("FLR", 0), ("Max Link Width", 16),
     ("Max Link Speed, tenths of GT/s", 1280), ("ASPM", 0), ("tag bits", 14), ("Flit Mode Supported", 1)]⟩,
   ⟨0x090, 0x11, 0x0C, 0x00, [("Table Size", 2047), ("Table BIR", 4), ("Table Offset", 0), ("PBA BIR", 4), ("PBA Offset", 0x8000)]⟩,
   ⟨0x100, 0x0001, 0x48, 0x150, [("version", 2)]⟩,
   ⟨0x150, 0x0019, 0x2C, 0x180, [("lanes", 16)]⟩,
   ⟨0x180, 0x0025, 0x0C, 0x190, [("Scaled Flow Control", 1)]⟩,
   ⟨0x190, 0x0026, 0x30, 0x1C0, [("lanes", 16)]⟩,
   ⟨0x1C0, 0x002A, 0x30, 0x1F0, [("lanes", 16)]⟩,
   ⟨0x1F0, 0x0031, 0x20, 0x210, [("lanes", 16)]⟩,
   ⟨0x210, 0x0027, 0x48, 0x260, [("lanes", 16)]⟩,
   ⟨0x260, 0x001B, 0x08, 0x270, [("Max PASID Width", 20), ("Execute", 0), ("Privileged Mode", 0)]⟩,
   ⟨0x270, 0x000F, 0x08, 0x280, [("Invalidate Queue Depth", 32), ("Page Aligned Request", 1)]⟩,
   ⟨0x280, 0x0013, 0x10, 0x290, [("Outstanding Page Request Capacity", 512)]⟩,
   ⟨0x290, 0x0003, 0x0C, 0x2A0, []⟩,
   ⟨0x2A0, 0x002E, 0x18, 0x2C0, []⟩,
   ⟨0x2C0, 0x0030, 0x110, 0x3D0, [("selective streams", 8), ("link streams", 0), ("address association blocks of a stream", 1)]⟩,
   ⟨0x3D0, 0x0023, 0x18, 0x400, [("DVSEC ID", 0x0001)]⟩,
   ⟨0x400, 0x0023, 0x3C, 0x440, [("DVSEC ID", 0x0000), ("Cache Capable", 1), ("Mem Capable", 1), ("HDM Count", 1)]⟩,
   ⟨0x440, 0x0023, 0x20, 0x460, [("DVSEC ID", 0x0007), ("Cache", 1), ("IO", 1), ("Mem", 1), ("256B Flit", 1)]⟩,
   ⟨0x460, 0x0023, 0x18, 0x000, [("DVSEC ID", 0x0008), ("entries", 1)]⟩]

/-- The DVSEC Vendor ID of the Jendoza DVSEC (R463). -/
def dvsecVendor (s : State) : Nat := s.sys.fuse.vendorId

/-- The fields of the Jendoza DVSEC of a port after its 10-byte header: PORT, HUB_ID, NODE and reserved bytes (R463). -/
def dvsecBytes (s : State) (p : Nat) : List Byte :=
  leBytes 2 p ++ leBytes 4 sysIdValue ++ leBytes 2 (s.sys.nodeId % 4096) ++ List.replicate 6 0

/-- Where the component registers of a port lie in BAR0, as its CXL Register Locator says (R463). -/
def componentRegisters (p : Nat) : Nat := 0x810000 + 0x10000 * p

/-- The Device Serial Number of both functions (R459). -/
def deviceSerial (s : State) : Nat := s.sys.fuse.serial

end Sys2Proof.Machine
end

