-- ==== Sys2Proof/WellFormed.lean ====
section
/-! DEFINITION. Which terms of Instr stand for commands the hub can be given: every numeric operand lies inside the field
of the table that carries it. exec is total and does not lean on this; the checks say what a sender can spell. -/

namespace Sys2Proof

/-- A number fits a field of w bits. -/
abbrev fits (w n : Nat) : Bool := decide (n < 2 ^ w)

/-- A list is no longer than n. -/
abbrev atMost {α : Type} (n : Nat) (l : List α) : Bool := decide (l.length ≤ n)

/-- Fuse words (R590): every field has the width that the table gives it. -/
def FuseWords.wf (f : FuseWords) : Bool :=
  fits 16 f.deviceId && fits 16 f.vendorId && fits 16 f.subsysId && fits 16 f.subsysVendorId && fits 8 f.revisionId
    && fits 3 f.checkClass && fits 4 f.chkSlabs && fits 12 f.nodeId && fits 64 f.serial && fits 16 f.minSvn && fits 384 f.keyHash
    && fits 512 f.identitySecret

/-- A Gararn caller (R514). -/
def Caller.wf (c : Caller) : Bool := fits 32 c.table

/-- A tile descriptor (R125). -/
def TileDesc.wf (d : TileDesc) : Bool :=
  fits 64 d.va && fits 32 d.rowBytes && fits 32 d.rows && fits 64 d.pitch && fits 8 d.op && fits 8 d.flags && fits 32 d.tag
    && fits 8 d.atom

/-- A command reference (R429). -/
def CmdRef.wf (r : CmdRef) : Bool := fits 32 r.queue

/-- The RESEAT body (R524). -/
def ReseatBody.wf (b : ReseatBody) : Bool :=
  fits 32 b.globalId && fits 16 b.seat && fits 2 b.kind && fits 16 b.weight && fits 16 b.newNode && fits 16 b.newBinding
    && fits 64 b.t

/-- A seat directory entry (R70). -/
def SeatEntry.wf (e : SeatEntry) : Bool :=
  fits 16 e.epoch && fits 16 e.node && fits 16 e.binding && fits 16 e.weight && fits 16 e.lastEpoch

/-- A link packet's header fields (R225). -/
def Packet.wf (p : Packet) : Bool :=
  fits 12 p.src && fits 16 p.tenant && fits 8 p.type && fits 8 p.atom && fits 32 p.eseq && fits 64 p.addr && fits 32 p.tag
    && fits 16 p.len && fits 16 p.epoch && fits 32 p.sigCounter && atMost 4096 p.payload

/-- A flit header (R222). -/
def Flit.wf (f : Flit) : Bool :=
  fits 16 f.tenant && fits 3 f.vc && decide (f.slots ≤ 14) && fits 12 f.dst && fits 12 f.src && fits 4 f.hops && fits 12 f.lseq
    && fits 12 f.ack && fits 8 f.type

/-- A coherence message (R386). -/
def CohMsg.wf (m : CohMsg) : Bool := fits 8 m.agent && fits 16 m.txid && fits 52 m.line && fits 8 m.table && atMost 256 m.data && atMost 256 m.mask

/-- A request of a core to TCK (R339). -/
def CtrReq.wf (r : CtrReq) : Bool := fits 32 r.tag && fits 64 r.counter && fits 64 r.value

/-- A request at a channel block: a stack-local range of at most one tile piece. -/
def MemReq.wf (r : MemReq) : Bool := fits 40 r.pa && fits 32 r.tag && decide (r.len ≤ 4096)
  && (match r.table with | some t => fits 8 t | none => true)

/-- A sub-command (R284). -/
def SubCmd.wf : SubCmd → Bool
  | .attnPart f t _ q w sc h fm bo es => fits 16 f && fits 32 t && fits 32 q && fits 32 w && fits 32 sc && fits 16 h && fits 8 fm
      && fits 32 bo && atMost 4096 es
  | .queryPiece f p bs => fits 16 f && fits 16 p && atMost 4096 bs
  | .attnCancel f t => fits 16 f && fits 32 t
  | .launch m va as => fits 64 m && fits 57 va && atMost 64 as

/-- A list of decoder outcomes names corrected symbols within what the code can correct (R190). -/
def Decoded.wf : Decoded → Bool
  | .clean => true
  | .corrected d c => decide (d ≤ 820) && decide (c ≤ 96) && decide (d + c ≤ 48)
  | .uncorrectable => true

/-- The sender of a firmware message is a node, with a sequence number of 32 bits (R243). -/
def CtrlFrom.wf (c : CtrlFrom) : Bool := fits 12 c.node && fits 32 c.eseq

/-- A seat number and an epoch are of 16 bits (R64, R72). -/
def SeatAt.wf (x : SeatAt) : Bool := fits 16 x.seat && fits 16 x.epoch

/-- Which terms of Instr can be given to the hub. -/
def Instr.wellFormed : Instr → Bool
  | .coldReset _ => true
  | .fusesPhase w => w.wf
  | .fuseRdyTimeout => true
  | .clocksPhase _ => true
  | .sramPhase => true
  | .controlCorePhase => true
  | .stacksPhase _ _ sp => atMost 65536 sp && sp.all (fun e => decide (e.stack < 16) && fits 26 e.row)
  | .checkersPhase _ => true
  | .fillPhase => true
  | .release => true
  | .refclkLoss => true
  | .pllLossOfLock _ => true
  | .pllRelock _ => true
  | .pllRelockFail _ => true
  | .telemetryFrame _ => true
  | .sensorStale _ => true
  | .bar0HoleAccess _ _ _ _ => true
  | .bar0BadAccess _ _ size _ => fits 16 size
  | .registerWrite _ _ _ _ => true
  | .rw1cClear _ _ _ _ => true
  | .countRestart _ _ _ _ => true
  | .sysTimeSrcWrite _ _ => true
  | .time _ t _ => fits 64 t
  | .timeSourceSilence => true
  | .timeSend _ => true
  | .anteDrawRequest c _ _ => decide (1 ≤ c) && decide (c ≤ 9)
  | .anteGrant => true
  | .anteRelease c _ => decide (1 ≤ c) && decide (c ≤ 9)
  | .anteWithdraw c _ => decide (1 ≤ c) && decide (c ≤ 9)
  | .fabricAdmit a b v _ => fits 8 a && fits 8 b && fits 3 v
  | .reseat c b => c.wf && b.wf
  | .reseatFwd n b => n.wf && b.wf
  | .prepare n p => n.wf && p.req.wf && fits 16 p.tenant && p.old.wf && fits 16 p.newEpoch
  | .prepareAnswer n g x _ => n.wf && fits 32 g && x.wf
  | .reseatDecisionDeadline g st => fits 32 g && fits 16 st
  | .decision n g x _ => n.wf && fits 32 g && x.wf
  | .reseatStatusPoll _ => true
  | .status n g x => n.wf && fits 32 g && x.wf
  | .reseatSwitch _ => true
  | .clusterClearingEnd _ => true
  | .switched n g st e b => n.wf && fits 32 g && fits 16 st && fits 16 e && fits 16 b
  | .cmd _ p sc => p.wf && sc.wf
  | .staleAnswer t => fits 32 t
  | .staleResendDelay t => fits 32 t
  | .resolve (.ask n g x) => n.wf && fits 32 g && x.wf
  | .resolve (.answer n g st e) => n.wf && fits 32 g && fits 16 st && e.wf
  | .channelMoveStart => true
  | .granuleCopy b ds => fits 16 b && atMost 64 ds && ds.all (fun d => decide (d.1 < 64) && d.2.wf)
  | .aliasRelease c st => c.wf && fits 16 st
  | .tile _ _ d bs => d.wf && atMost (2 ^ 24) bs
  | .pieceComplete _ t p _ bs => fits 32 t && fits 16 p && atMost 4096 bs
  | .walkStart => true
  | .walkPteRead _ => true
  | .walkerGroupIdle _ => true
  | .invalidate r => r.wf
  | .gararnInvalidate c va n => c.wf && fits 64 va && fits 32 n
  | .shootdownStart => true
  | .microTlbAck i _ => fits 32 i
  | .shootdownDrainEnd i => fits 32 i
  | .shootdownAckTimeout i _ => fits 32 i
  | .setRoot c r _ => c.wf && fits 64 r
  | .faultCamLookup f => fits 8 f.table && fits 32 f.ctx && fits 32 f.tag && fits 57 f.va && fits 52 f.pa
  | .faultRingSet c o e off => c.wf && fits 32 o && fits 32 e && fits 64 off
  | .faultResolve c n => c.wf && fits 64 n
  | .faultFail c n => c.wf && fits 64 n
  | .waitRestoreRetry h => fits 32 h
  | .hostbackSet c b => c.wf && fits 64 b.va && fits 64 b.length && fits 64 b.hostIova && fits 32 b.pool && atMost 8 b.readers
  | .hostbackClear c h => c.wf && fits 32 h
  | .advise r => r.wf
  | .backgroundAction h => fits 32 h
  | .prefetch r => r.wf
  | .blockMoveStart => true
  | .blockMoveCopyDone h _ _ d => fits 32 h && atMost 65536 d
  | .faultForward n g va => n.wf && fits 32 g && fits 57 va
  | .refresh _ _ _ => true
  | .retrain c st k => c.wf && fits 8 st && fits 8 k
  | .rowMode c r m => c.wf && fits 8 r && fits 8 m
  | .slabClass c st sl k => c.wf && fits 8 st && fits 8 sl && fits 8 k
  | .memoryRead r d => r.wf && d.wf
  | .memoryWrite r bs => r.wf && decide (bs.length = r.len)
  | .memoryAtomic r a bs => r.wf && fits 8 a && atMost 16 bs
  | .mergeEntryTimeout _ cb d => fits 36 cb && d.wf
  | .mergeFlush _ cb d => fits 36 cb && d.wf
  | .bucketLeak _ => true
  | .scrub c b => c.wf && fits 16 b.firstSlab && fits 16 b.slabs && fits 32 b.period
  | .scrubSlice ds => atMost 4096 ds && ds.all (fun x => x.2.wf)
  | .softSpare _ r ds => fits 26 r && ds.all Decoded.wf
  | .slabRefillEnd _ => true
  | .refillHoldExpiry _ _ => true
  | .keyEraseEnd n => fits 10 n
  | .lanesReady _ => true
  | .helloRepeat _ => true
  | .hello _ b => fits 16 b.node && fits 8 b.versions
  | .echo _ n => fits 31 n
  | .echoReply _ n => fits 31 n
  | .echoRepeat _ => true
  | .flitTransmit _ => true
  | .flitReceive _ f ps => f.wf && atMost 14 ps && ps.all Packet.wf
  | .nakRepeat _ => true
  | .flitQueueTimeout _ => true
  | .linkAnteIdle _ => true
  | .linkSilence _ => true
  | .phyLaneLoss _ => true
  | .linkRetrainTimer _ => true
  | .rd _ p => p.wf
  | .atomic _ p => p.wf
  | .wr _ p => p.wf
  | .rdData p => p.wf
  | .cmpl p => p.wf
  | .e2eAck n e => fits 12 n && fits 32 e
  | .e2eAckTimer n => fits 12 n
  | .e2eReplayTimeout n => fits 12 n
  | .e2eGiveup n e => fits 12 n && fits 32 e
  | .e2eSkip n e => fits 12 n && fits 32 e
  | .sigApplyHeld n => fits 12 n
  | .ctrl _ n g k st _ d => n.wf && fits 32 g && fits 16 k && fits 16 st && fits 32 d
  | .join n g t => n.wf && fits 32 g && fits 16 t
  | .routeSet c f es => c.wf && fits 16 f && atMost 256 es && es.all (fun e => fits 4 e.port && fits 4 e.alt)
  | .linkDisable c p _ => c.wf && fits 8 p
  | .linkEnable c p _ => c.wf && fits 8 p
  | .linkRetrain c p _ => c.wf && fits 8 p
  | .e2eCfg c t g => c.wf && fits 32 t && fits 32 g
  | .attnDecode r => r.wf
  | .attnPart _ p sc => p.wf && sc.wf
  | .queryPiece _ p sc => p.wf && sc.wf
  | .attnCancel _ p sc => p.wf && sc.wf
  | .subcmdResend t => fits 32 t
  | .foldSlotWait => true
  | .engineSelect _ => true
  | .engineCommandStart _ => true
  | .engineTaskEnd _ => true
  | .foldPiece p => fits 16 p.fold && fits 16 p.record && fits 16 p.offset
  | .partial_ _ p => p.wf
  | .kvAppend _ => true
  | .kvCopy _ => true
  | .kvCompact _ => true
  | .gather _ => true
  | .scatterAdd _ => true
  | .topk _ => true
  | .merge _ => true
  | .selftest _ => true
  | .selftestDrainTimeout _ => true
  | .selftestStart _ => true
  | .selftestEnd _ _ => true
  | .nmeSelftest c e => c.wf && fits 8 e
  | .signalAdd r => r.wf
  | .signalMax r => r.wf
  | .read r => r.wf
  | .waitGe r => r.wf
  | .queueWaitRetry h => fits 32 h
  | .signalRelease _ => true
  | .sigAdd _ p => p.wf
  | .sigMax _ p => p.wf
  | .sigRead _ p => p.wf
  | .sigAns p v => p.wf && fits 64 v
  | .wakeWindow => true
  | .counterWindowAdd _ _ _ _ => true
  | .counterWindowMax _ _ _ _ => true
  | .counterWindowRead _ _ _ => true
  | .mirrorWrite n => fits 12 n
  | .contextSave h => fits 32 h
  | .misdealScan => true
  | .renege _ => true
  | .renegeReport n g => n.wf && fits 32 g
  | .rdShared m => m.wf
  | .rdOwn m => m.wf
  | .upgrade m => m.wf
  | .rdNa m => m.wf
  | .wb m => m.wf
  | .evictClean m => m.wf
  | .wrNa m => m.wf
  | .atomH m => m.wf
  | .snpData m => m.wf
  | .snpInv m => m.wf
  | .snpCur m => m.wf
  | .snpRsp f m => fits 8 f && m.wf
  | .data m => m.wf
  | .grant m => m.wf
  | .ack m => m.wf
  | .wbAck m => m.wf
  | .hdmDbMessage _ o _ t => fits 30 o && fits 16 t
  | .snoopTimeout _ a => fits 8 a
  | .sliceAnteIdle _ => true
  | .hostSnoop _ a => fits 57 a
  | .tableCreate c g t k n => c.wf && fits 32 g && fits 16 t && fits 8 k && fits 16 n
  | .ctxCreate c o off => c.wf && fits 32 o && fits 64 off
  | .queueCreate c b => c.wf && fits 32 b.context && fits 32 b.size && fits 32 b.ringObject && fits 32 b.cplObject
      && fits 64 b.ringOffset && fits 64 b.cplOffset && fits 16 b.dbPage && fits 16 b.dbSlot && fits 32 b.event && fits 64 b.cookie
  | .memCreate c k ex => c.wf && fits 8 k && atMost 64 ex && ex.all (fun x => fits 64 x.1 && fits 64 x.2)
  | .eventCreate c b => c.wf && fits 32 b.ringObject && fits 32 b.size && fits 64 b.ringOffset && fits 16 b.vector
      && fits 16 b.moderation && fits 16 b.dbPage && fits 16 b.dbSlot
  | .counterCreate c x v => c.wf && fits 32 x && fits 64 v
  | .channelCreate c x k p => c.wf && fits 32 x && fits 8 k && fits 8 p
  | .destroy c h => c.wf && fits 32 h
  | .destroyComplete h => fits 32 h
  | .objInfo c h => c.wf && fits 32 h
  | .cmdAbort c q p n => c.wf && fits 32 q && fits 32 p && fits 16 n
  | .dbPage c p => c.wf && fits 16 p
  | .dbPageRelease c p => c.wf && fits 16 p
  | .dbCounter c p w h => c.wf && fits 16 p && fits 16 w && fits 32 h
  | .mirrorSet c b => c.wf && fits 32 b.counter && fits 32 b.event && fits 64 b.hostAddr && fits 64 b.cookie && fits 64 b.threshold
  | .mirrorDetach c h => c.wf && fits 32 h
  | .tableEventSet c h k => c.wf && fits 32 h && fits 8 k
  | .doorbellWrite _ _ _ _ => true
  | .eventConsumerWrite _ _ _ _ => true
  | .descriptorFetch q r => fits 32 q && (match r with | .bytes b => decide (b.length = 128) | _ => true)
  | .descriptorReread q r => fits 32 q && (match r with | .bytes b => decide (b.length = 128) | _ => true)
  | .dispatch q => fits 32 q
  | .nop r => r.wf
  | .copy r => r.wf
  | .fill r => r.wf
  | .launch r => r.wf
  | .done _ _ t _ => fits 32 t
  | .commandCommit r => r.wf
  | .completionWrite r => r.wf
  | .msixModerationExpiry h => fits 32 h
  | .copyBurst _ => true
  | .copyBurstDone _ d => atMost 65536 d
  | .bar2Request _ _ w len d _ t => decide (len ≤ 4096) && (!w || decide (d.length = len)) && fits 16 t
  | .hdmRequest _ _ _ d t => atMost 64 d && fits 16 t
  | .unsupportedRequest _ _ _ => true
  | .protocolError _ _ => true
  | .commandRegisterWrite _ _ => true
  | .powerStateWrite _ _ => true
  | .hostReadCompletion _ t _ => fits 16 t
  | .completionTimeout _ t => fits 16 t
  | .translationCompletion _ p _ => fits 52 p
  | .pageRequestResponse _ p _ => fits 52 p
  | .atsInvalidate _ p n t => fits 52 p && fits 52 n && fits 5 t
  | .endpointReset _ => true
  | .confirmRead _ => true
  | .ideCheckFailed _ _ => true
  | .ideKm _ n _ => fits 32 n
  | .getVersion _ => true
  | .getCapabilities _ => true
  | .negotiateAlgorithms _ => true
  | .getDigests _ => true
  | .getCertificate _ n => fits 8 n
  | .challenge _ => true
  | .getMeasurements _ => true
  | .keyExchange _ => true
  | .finish _ n => fits 32 n
  | .keyUpdate _ n => fits 32 n
  | .heartbeat _ n => fits 32 n
  | .endSession _ n => fits 32 n
  | .tenantKey _ _ g _ _ => fits 32 g
  | .attach c p n => c.wf && fits 8 p && fits 20 n
  | .hostPort c p => c.wf && fits 8 p
  | .windowSet c w _ _ va => c.wf && fits 16 w && fits 64 va
  | .hdmSet c p _ _ va => c.wf && fits 8 p && fits 64 va
  | .portCfg c p x m => c.wf && fits 8 p && fits 8 x && fits 8 m
  | .mbxGo _ _ _ => true
  | .requestExecute _ => true
  | .gararnHello c v => c.wf && fits 16 v
  | .query c i x => c.wf && fits 16 i && fits 32 x
  | .mbxAssign c m h => c.wf && fits 8 m && fits 32 h
  | .fwStage c o b => c.wf && fits 32 o && atMost 4096 b
  | .fwActivate c _ _ _ => c.wf
  | .handoverTimeout => true
  | .dumpRead c sl o l => c.wf && fits 8 sl && fits 32 o && fits 32 l
  | .dumpClear c sl => c.wf && fits 8 sl
  | .dumpTake c sl => c.wf && fits 8 sl
  | .renegeSet c n => c.wf && fits 32 n
  | .waitQuota c n => c.wf && fits 32 n
  | .walkLimit c n => c.wf && fits 32 n
  | .watchdogExpiry => true
  | .coreFatalError _ => true
  | .coreRestart _ bt bb => atMost 256 bt && atMost 64 bb && bt.all (fits 8) && bb.all (fits 6)
  | .coreGateEntry => true
  | .coreGateWake => true
  | .stepOpen c b => c.wf && fits 32 b.step && fits 32 b.commitCtr && fits 64 b.commitValue && atMost 16 b.models
  | .stepKill c n a => c.wf && fits 64 n && fits 8 a
  | .stepAbort n g k a => n.wf && fits 32 g && fits 64 k && fits 8 a
  | .stepStatus c n => c.wf && fits 64 n
  | .preempt c => c.wf
  | .resume c => c.wf
  | .publish c va l p => c.wf && fits 64 va && fits 64 l && fits 8 p
  | .handSet c h => c.wf && fits 32 h
  | .modelCreate c b => c.wf && fits 64 b.va && fits 64 b.size && fits 8 b.backingKind && fits 64 b.backing && fits 64 b.offset
  | .modelLoad c h => c.wf && fits 32 h
  | .modelLoadDone h _ _ => fits 32 h
  | .modelDiscard c h => c.wf && fits 32 h
  | .modelPin c h => c.wf && fits 32 h
  | .modelUnpin c h => c.wf && fits 32 h
  | .powerCap c n => c.wf && fits 32 n
  | .powerMode c m p => c.wf && fits 8 m && fits 32 p
  | .powerClear c => c.wf
  | .sensorCfg c n k mv mx => c.wf && fits 8 n && fits 8 k && fits 16 mv && fits 16 mx
  | .powerCore c p m => c.wf && fits 32 p && fits 32 m
  | .powerWindow => true
  | .phaseBoundary => true
  | .coreIdlePark _ _ => true
  | .coreOnRequest _ _ => true
  | .coreOnAck _ => true
  | .irqClaim _ _ => true
  | .irqComplete _ _ _ => true
  | .irqSrcCfgWrite _ _ _ => true
  | .irqTgtCfgWrite _ _ _ => true
  | .hostLinkUp _ _ n w => fits 4 n && fits 8 w
  | .msixEnable _ => true
  | .memoryObjectRefillEnd h => fits 32 h
  | .vddAonLoss => true
  | .doeDiscovery _ n => fits 8 n

end Sys2Proof
end

