-- ==== Sys2Proof/Tests/Slice0.lean ====
section
/-! SUPPORT. Small tests of one step each, ill-formed terms that WellFormed refuses, and, for every statement with hypotheses, a witness:
concrete states and operands that meet the hypotheses of each of its clauses. -/

namespace Sys2Proof.Tests

open Sys2Proof.Machine

set_option Elab.async false

-- states ----------------------------------------------------------------------------------------------------------------

/-- The slot entry of a live object of tenant 1 and table 0. -/
def liveSlot : SlotInfo := { gen := 1, tenant := 1, live := true, table := 0 }

/-- Table 0, led by node 0, of tenant 1. -/
def tbl : Table := { globalId := 7, tenant := 1, keySlot := 0, lead := 0, members := [0] }

/-- A hub that serves: mailbox 0 is the operator's, mailbox 4 belongs to table 0, host port 0 and link port 0 are up, stack 0 works. -/
def up : State :=
  { sys := { phase := .released, timeRuns := true, cfOpen := true, coresOff := false, time := 6000000, nodeId := 0 }
    tables := [(0, tbl)]
    obj := { slots := [(slotKey 5 0, liveSlot)] }
    mem := { stk := [(0, { state := .working, chkSlabs := 4 })] }
    lnk := { ports := [(0, { state := .up, partner := 3 })] }
    hif := { ports := [(0, { state := .up, mse := true, bme := true, speed := 7, width := 16 })] }
    mbx := { core := .running, boxes := [(0, { version := 4 }), (4, { version := 4, assigned := some 0 })] } }

/-- The operator's mailbox with table 0 in the header, and the mailbox of table 0. -/
def op : Caller := ⟨0, mkHandle 5 1 0⟩
def own : Caller := ⟨4, 0⟩

/-- The hub in a phase of the cold start. -/
def cold (p : Phase) : State := { sys := { phase := p } }

/-- A state with another of its parts. -/
def withSys (f : SysSt → SysSt) (s : State) : State := { s with sys := f s.sys }
def withBnd (b : BndSt) (s : State) : State := { s with bnd := b }
def withPort (f : HostPort → HostPort) (s : State) : State := portMod 0 f s
def withSrcs (l : FMap IrqSrc) (s : State) : State := { s with irq := { s.irq with srcs := l } }

/-- The sender of a firmware message, and the state once its pair has taken the message. -/
def from_ (n : Nat) : CtrlFrom := ⟨n, 0⟩
def got (n : Nat) (s : State) : State := (rxAccept 0 { src := n, tenant := 0, type := 0x53, eseq := 0 } s).2

theorem witness_serving : Serving up ∧ CoreServes up ∧ Takes up 0 .o ∧ Takes up 0 .ot ∧ Takes up 4 .t ∧ Takes up 4 .ot
    ∧ OnTable up op 0 ∧ OnTable up own 0 ∧ CohQuiet up ∧ barOpen up 0 = true ∧ linksOn up = true ∧ coreAnswers up = true
    ∧ hostOn up = true ∧ (∀ k : Fin 12, pllOn up k.val = true) ∧ postedGuards up 0 = [] := by
  unfold Serving CoreServes Takes CoreServes OnTable CohQuiet
  decide

theorem witness_Arrives : Arrives up (from_ 5) (got 5 up) := by
  unfold Arrives Serving
  decide

theorem witness_PairOpen : PairOpen up 3 := by
  unfold PairOpen
  decide

theorem witness_ReachesTarget : ReachesTarget up 0 0 ∧ ReachesTarget up 0 8 := by
  unfold ReachesTarget
  decide

-- hub, clocks and time --------------------------------------------------------------------------------------------------

theorem witness_StepRunsFront : up.pending = [] ∧ up.sys.timeRuns = true ∧ up.sys.withhold = false := by decide

theorem witness_StartupPhases : (∀ p ∈ [Phase.fuses, .clocks, .sram, .controlCore, .stacks, .checkers, .fill, .release],
      (cold p).sys.phase = p ∧ (cold p).sys.stopped = false ∧ (cold p).sys.fuseStuck = false)
    ∧ (0xFFF : BitVec 12).getLsbD 9 = true ∧ (0xDFF : BitVec 12).getLsbD 9 = false ∧ (0xBFF : BitVec 12).getLsbD 10 = false
    ∧ (0x7FF : BitVec 12).getLsbD 10 = true ∧ (lnkPort (cold .controlCore) 0).state ≠ .failed
    ∧ (stackOf ({ cold .checkers with mem := up.mem } : State) 0).state = .working := by decide

theorem witness_StopsAndRelocks : up.sys.stopped = false
    ∧ (withSys (fun x => { x with pllLock := 0xFFF }) up).sys.pllLock.getLsbD 11 = true
    ∧ (let s : State := { withSys (fun x => { x with pllOut := 0xA10 }) up with lnk := { up.lnk with ports := [(0, { state := .down, cause := .pll })] } }
       s.sys.pllOut.getLsbD 9 = true ∧ s.sys.pllOut.getLsbD 11 = true ∧ s.sys.pllOut.getLsbD 4 = true ∧ s.mbx.core ≠ .romBoot
       ∧ (lnkPort s 0).state = .down ∧ (lnkPort s 0).cause = .pll) := by decide

/-- A good frame of sensor 31 with even parity, a bad one, a sensor silent for exactly 10 microseconds, and a transfer between two
blocks of the fabric. -/
theorem witness_TelemetryAndFabric : (0xF80008 : BitVec 24).toNat / 2 % 4 = 0 ∧ parity 24 (0xF80008 : BitVec 24).toNat = 0
    ∧ parity 24 (0xF80000 : BitVec 24).toNat ≠ 0
    ∧ mapGet (withSys (fun x => { x with telLast := [(31, 5990000)] }) up).sys.telLast 31 = some 5990000 ∧ 5990000 + 10000 ≤ up.sys.time
    ∧ pllOn up 9 = true ∧ directPath 0 1 = false ∧ up.sys.fabricHeld = [] ∧ mapGet up.sys.escape 1 = none := by decide

theorem witness_StoppedUntilColdReset : (withSys (fun x => { x with stopped := true }) up).sys.stopped = true
    ∧ ∀ n, Instr.release ≠ .coldReset n := ⟨by decide, fun _ => by intro h; cases h⟩

/-- The fourth code, a locked hub 1,000 and 1,001 ticks off, and a source silent for exactly 10 microseconds. -/
theorem witness_TimeFollowsSources :
    linksOn up = true ∧ (lnkPort up 0).state = .up
    ∧ (let s := withSys (fun x => { x with srcEnable := true, timeState := .acquire, codes := 3, lastCode := 5990000 }) up
       s.sys.srcEnable = true ∧ s.sys.activePort = 0 ∧ s.sys.codes ≥ 3 ∧ s.sys.time ≥ s.sys.lastCode + 10000)
    ∧ (let s := withSys (fun x => { x with srcEnable := true, timeState := .locked, lastSlew := 5999000 }) up
       s.sys.time ≥ s.sys.lastSlew + 1000
       ∧ ((s.sys.time : Int) - 5999000 - ((lnkPort s 0).rtt / 2 : Nat)).natAbs ≤ 1000
       ∧ ((s.sys.time : Int) - 5998999 - ((lnkPort s 0).rtt / 2 : Nat)).natAbs > 1000)
    ∧ bitsOf (0x80000000 : BitVec 32).toNat 31 31 = 1 ∧ bitsOf (0 : BitVec 32).toNat 31 31 = 0 ∧ up.sys.srcEnable = false
    ∧ (let s := withSys (fun x => { x with srcEnable := true }) up
       bitsOf (0x80000100 : BitVec 32).toNat 3 0 = s.sys.srcPort ∧ bitsOf (0x80000100 : BitVec 32).toNat 11 8 ≠ s.sys.srcAltPort)
    ∧ (let s : State := { withSys (fun x => { x with anteHeld := [⟨3, 0, false, anteUnits 3, 0⟩] }) up with
          lnk := { up.lnk with ports := [(0, { state := .up, timeOut := true, timeAt := 5999000, credDedicated := [(5, 1)] })] } }
       (lnkPort s 0).timeOut = true ∧ s.sys.time ≥ (lnkPort s 0).timeAt + 1000 ∧ anteHas s 3 0 = true
       ∧ (creditFor (lnkPort s 0) 5).isSome = true) := by decide

/-- A walker's draw that waits alone, at an ante with all its units free; and one that needs exactly what is free. -/
theorem witness_AnteDraws : up.sys.stopped = false ∧ 0 < anteMost 1 ∧ anteHas up 1 0 = false ∧ anteWaits up 1 0 = false
    ∧ (let s := withSys (fun x => { x with anteWait := [⟨1, 0, false, anteUnits 1, 0⟩] }) up
       s.sys.anteWait = ⟨1, 0, false, anteUnits 1, 0⟩ :: [] ∧ anteUnits 1 ≤ anteFree s) := by decide

theorem witness_AnteGrantFits : anteKitty up ≤ 64 ∧ anteOrdinary up + 214 ≤ up.sys.anteLimit
    ∧ (withSys (fun x => { x with anteWait := [⟨1, 0, false, 1, 0⟩] }) up).sys.anteWait = ⟨1, 0, false, 1, 0⟩ :: [] := by decide

-- BAR0 and interrupts ---------------------------------------------------------------------------------------------------

theorem witness_RegisterWrites : barOpen up 0 = true ∧ bitsOf (0xF01F0000 : BitVec 64).toNat 27 21 = 0
    ∧ bitsOf (0x800 : BitVec 64).toNat 31 11 ≠ 0 ∧ up.sys.swErr = 0 ∧ (7 : BitVec 64).toNat < 8 := by decide

theorem witness_BadAccesses : isHole up 0x1FFFFFC false true = true ∧ isHole up 0x1FFFFFC false false = true
    ∧ ¬ (4 = 4 ∧ (2 : BitVec 25).toNat % 4 = 0) ∧ ¬ (2 = 4 ∧ (0 : BitVec 25).toNat % 4 = 0)
    ∧ (let s := withPort (fun h => { h with mse := false }) up
       barOpen s 0 = false ∧ portLinked s 0 = true)
    ∧ (let s := withPort (fun h => { h with state := .d3hot }) up
       barOpen s 0 = false ∧ portLinked s 0 = true) := by decide

/-- Source 48 is pending at target 1 and at target 0; source 100 has the same priority. -/
def pend (t : Nat) : State :=
  { withSrcs [(48, { latch := true, target := t, prio := 5 }), (100, { latch := true, target := t, prio := 5 })] up with
    irq := { srcs := [(48, { latch := true, target := t, prio := 5 }), (100, { latch := true, target := t, prio := 5 })],
             tgts := [(1, { valid := true })] } }

theorem witness_ClaimAndComplete : irqTop (pend 1) 1 = 48 ∧ irqTop up 1 = 0 ∧ ((pend 1).irq.srcs.map (fun x => x.1)).Pairwise (· < ·)
    ∧ (mapGet (pend 1).irq.srcs 100).isSome = true ∧ irqEligible (pend 1) 1 100 = true
    ∧ (irqSrcOf (withSrcs [(48, { insvc := some 1 })] up) 48).insvc = some 1 ∧ (irqSrcOf up 48).insvc ≠ some 1
    ∧ irqTop (pend 0) 0 = 48 ∧ irqTop up 0 = 0 ∧ (48 : BitVec 32).toNat < 1024 ∧ (1023 : BitVec 32).toNat < 1024
    ∧ (1024 : BitVec 32).toNat ≥ 1024 := by decide

theorem witness_InterruptSetup : irqFixed 48 = false ∧ irqFixed 160 = true ∧ bitsOf (0x80 : BitVec 32).toNat 30 8 = 0
    ∧ bitsOf (0x90 : BitVec 32).toNat 7 4 > 8 ∧ bitsOf (0x80 : BitVec 32).toNat 7 4 ≤ 8
    ∧ (∀ part ∈ [RegPart.whole, .low, .high], bitsOf (part.put (0xF00000000 : BitVec 64).toNat) 62 36 = 0
        ∧ bitsOf (part.put (0xF00000000 : BitVec 64).toNat) 31 0 = 0)
    ∧ bitsOf (RegPart.whole.merge (tgtCfg (irqTgtOf up 1)) (0x8000000000000000 : BitVec 64).toNat) 63 63 = 1
    ∧ bitsOf (RegPart.low.merge (tgtCfg (irqTgtOf up 1)) (0x40000001 : BitVec 64).toNat) 63 63 = 0 ∧ irqTop up 0 = 0
    ∧ (let s : State := { pend 0 with mbx := { up.mbx with gated := true } }
       s.mbx.gated = true ∧ irqTop s 0 = 48)
    ∧ (portOf up 0).state = .up := by decide

-- reseating, moves and messages -----------------------------------------------------------------------------------------

/-- A RESEAT that binds link share 888 of this hub to seat 20, or takes the seat away. -/
def rb (t : Nat) : ReseatBody := ⟨7, 20, 3, 0, 0, 888, t⟩

/-- The table of another lead hub. -/
def farTbl : Table := { tbl with lead := 5, members := [0, 5] }
def far : State := { up with tables := [(0, farTbl)] }
def farLocked : State := withSys (fun x => { x with timeState := .locked }) far

/-- A reseat that the lead hub has under way, with members 0 and 5. -/
def lr : LeadReseat :=
  { req := rb 6100000, caller := some 0, fwdFrom := none, newEpoch := 1, oldNode := 0, oldBinding := 0, oldBound := false, accepted := [],
    decided := none, firstRefusal := none, oldReported := true, newReported := false }
def leadTbl : Table := { tbl with members := [0, 5] }
def leading (l : List LeadReseat) : State := withBnd { lead := l } { up with tables := [(0, leadTbl)] }

/-- A slot of a member. -/
def slot (p : ReseatPhase) (t : Nat) : ReseatSlot :=
  { t := t, newEpoch := 2, seat := 20, table := 0, phase := p, oldHere := true, newHere := true, old := 889, new := 888, kind := .link }

theorem witness_ReseatRequests : reseatBad (rb 6050000) = false ∧ reseatBad { rb 6050000 with kind := 0 } = true
    ∧ slotOfGlobal up 7 = some 0 ∧ slotOfGlobal up 8 = none ∧ farTbl.lead ≠ far.sys.nodeId ∧ farTbl.destroying = false
    ∧ tbl.lead = up.sys.nodeId ∧ leadStatus up 0 tbl (rb 6050000) = .ok ∧ leadStatus up 0 tbl (rb 6049999) = .range
    ∧ (let v := got 5 (leading [])
       coreAnswers v = true ∧ slotOfGlobal v 7 = some 0 ∧ 5 ∈ membersOf leadTbl ∧ leadStatus v 0 leadTbl (rb 6050000) = .ok
       ∧ leadStatus v 0 leadTbl (rb 6049999) = .range)
    ∧ coreAnswers { got 5 up with mbx := { up.mbx with core := .restarting } } = false := by decide

theorem witness_ReseatAtMember :
    prepareStatus (got 5 farLocked) 0 ⟨rb 6100000, 1, {}, 2⟩ = .ok ∧ prepareStatus (got 5 far) 0 ⟨rb 6100000, 1, {}, 2⟩ = .busy
    ∧ mapFree (got 5 farLocked).bnd.slots 64 = some 0 ∧ slotOfGlobal (got 5 farLocked) 7 = some 0 ∧ tableAt (got 5 farLocked) 0 = some farTbl
    ∧ (let s := withBnd { slots := [(0, slot .accepted 6010000)] } far
       let v := got 5 s
       reseatSlotOf v 0 20 2 = some (0, slot .accepted 6010000) ∧ v.sys.time < 6010000 ∧ (bindAt v 889).state ≠ .suspended
       ∧ s.sys.time + 10000 ≥ 6010000 ∧ (slot .accepted 6010000).polled = 0) := by decide

theorem witness_ReseatAtLead :
    (let v := got 5 (leading [lr])
     leadOpen v 7 20 = some lr ∧ 5 ∈ reseatNodes leadTbl lr.req ∧ 5 ∉ lr.accepted ∧ v.sys.time + 25000 ≤ lr.req.t
       ∧ ∃ n ∈ reseatNodes leadTbl lr.req, n ∉ lr.accepted ∧ n ≠ 5)
    ∧ (let r : LeadReseat := { lr with req := rb 6025000, accepted := [0] }
       (got 5 (leading [r])).sys.time + 25000 ≤ r.req.t ∧ ∀ n ∈ reseatNodes leadTbl r.req, n ∈ r.accepted ∨ n = 5)
    ∧ (got 5 (leading [])).sys.time + 25000 > (rb 6024999).t ∧ up.sys.time + 20000 ≥ (rb 6020000).t
    ∧ (let v := got 5 (leading [{ lr with decided := some true }])
       v.bnd.lead.find? (fun r => r.req.globalId = 7 && r.req.seat = 20 && r.newEpoch = 1) = some { lr with decided := some true }) := by decide

theorem witness_ReseatSwitches :
    (let s := withBnd { slots := [(0, slot .committed 6000000)] } up
     mapGet s.bnd.slots 0 = some (slot .committed 6000000) ∧ s.sys.time ≥ 6000000 ∧ s.bnd.held = [] ∧ (bindAt s 888).state ≠ .failed
       ∧ (bindAt s 889).state ≠ .failed ∧ s.bnd.lead = [] ∧ (slot .committed 6000000).old ≠ (slot .committed 6000000).new)
    ∧ (bindAt (withBnd { slots := [(0, slot .accepted 6000000)], seats := [(889, { state := .bound })] } up) 889).state = .bound
    ∧ (let s := withBnd { seats := [(3, { state := .refill })], clearing := [(3, ⟨7, 5, 20, 2, 4096, 0⟩)] } far
       mapGet s.bnd.clearing 3 = some ⟨7, 5, 20, 2, 4096, 0⟩ ∧ clusterHolds s 3 = false ∧ s.trn.shoot = [] ∧ slotOfGlobal s 7 = some 0
       ∧ (bindAt s 3).state = .refill ∧ (5 : Nat) ≠ s.sys.nodeId)
    ∧ (let r : LeadReseat := { lr with req := ⟨7, 20, 3, 0, 5, 888, 6000000⟩, decided := some true }
       let v := got 5 (leading [r])
       v.bnd.lead = [r] ∧ r.unanswered = true ∧ r.req.newNode = 5 ∧ 5 ∈ membersOf leadTbl ∧ r.oldReported = true ∧ v.bnd.seats = []) := by decide

/-- A move of slab 0 of stack 0 to slab 1. -/
def mv (running finished : Bool) : ChannelMove :=
  { old := 120, table := 0, seat := 10, node := 0, new := 121, t := 0, running := running, granules := 0, done := finished }

theorem witness_ChannelMoves :
    (∃ m ∈ (withBnd { moves := [mv false false] } up).bnd.moves, m.running = false ∧ m.done = false)
    ∧ ((withBnd { moves := [mv false false] } up).bnd.moves.filter (fun x => x.running && !x.done)).length < 8
    ∧ (let s := withBnd { moves := [mv true false], seats := [(120, { table := 0, state := .migrating }), (121, { table := 0, state := .bound })] } up
       let a := granuleLoc 120 (mv true false).granules 0
       let u := fenceRows a.stack (a.local_ / 1024) (a.local_ / 1024 + 64) (cohSettle (aliasMod 120 (fun x => { x with hold := true }) s))
       aliasMove s 120 = some (mv true false) ∧ pllOn s (a.stack / 4) = true ∧ u.coh.dir.any (fun x => !x.2.proxy && lineHeld u x.1) = false
       ∧ (copyTake (moveInst 120) (mapGet u.bnd.spareMoves 120).isSome u).1 = true)
    ∧ (let s := withBnd { moves := [mv false true] } up
       s.bnd.moves.find? (fun x => x.table = 0 && x.seat = 10) = some (mv false true) ∧ mapGet s.bnd.spareMoves 120 = none
       ∧ mapDel s.bnd.spareMoves 120 = s.bnd.spareMoves)
    ∧ (mapGet (withBnd { moves := [mv false true], spareMoves := [(120, 0)] } up).bnd.spareMoves 120).isSome = true
    ∧ (mv false false).done = false ∧ up.bnd.moves = [] := by decide

/-- A cluster seat 30 of table 0, bound under epoch 1, and an NME seat 11. -/
def seated : State :=
  withBnd { seats := [(3, { epoch := 1, seat := 30, table := 0, state := .bound }), (1144, { epoch := 1, seat := 11, table := 0, state := .bound })] } up

/-- A CMD packet of node 3. -/
def cmdTo (seat epoch : Nat) : Packet := { src := 3, tenant := 1, type := 3, addr := seat, tag := 9, epoch := epoch }

/-- A command of this hub that waits for the answer of a seat. -/
def tx (n : Nat) : StaleTx :=
  { tag := 40, table := 0, seat := 20, epoch := 1, count := n, waiting := true, resolving := false, msg := .sub (.attnCancel 0 0),
    cmd := some ⟨mkHandle 2 1 0, 0⟩ }

theorem witness_SeatMessages :
    (rxAccept 0 (cmdTo 30 1) seated).1 = .fresh ∧ (rxAccept 0 (cmdTo 11 1) seated).1 = .fresh
    ∧ seatTake (rxAccept 0 (cmdTo 30 1) seated).2 1 30 1 true = .takes 3
    ∧ seatTake (rxAccept 0 (cmdTo 11 1) seated).2 1 11 1 false = .takes 1144
    ∧ (let s := withBnd { seats := [(3, { seat := 30, table := 0, state := .armed, armEpoch := 2, armT := 6010000 })] } up
       seatTake (rxAccept 0 (cmdTo 30 2) s).2 1 30 2 true = .holds 3)
    ∧ seatTake (rxAccept 0 (cmdTo 30 2) seated).2 1 30 2 true = .stale
    ∧ seatOther (rxAccept 0 (cmdTo 30 2) seated).2 (cmdTo 30 2) (.launch 1 0 []) = false
    ∧ (subRoom 3 0 0 (rxAccept 0 (cmdTo 11 1) seated).2).isSome = true
    ∧ (let s : State := { seated with nme := { seated.nme with
          subs := (List.range 64).map (fun i => { src := 4, fold := i, table := 0, tag := 0, part := none, pieces := [], started := false }) } }
       subRoom 3 0 0 (rxAccept 0 (cmdTo 11 1) s).2 = none) := by decide

theorem witness_SeatAnswers :
    (let s : State := { withBnd { stale := [tx 7] } up with lnk := { up.lnk with txns := [{ tag := 9, dst := 3, what := .subcmd 40 }] } }
     (txnOf s 9).isSome = true ∧ staleOf s 40 = some (tx 7) ∧ (dirEntry s 0 20).epoch ≠ 1)
    ∧ (tx 7).count ≥ 7 ∧ (tx 6).count < 7 ∧ (tx 6).rest = []
    ∧ (let s : State := { withBnd { stale := [tx 6] } up with tables := [(0, { tbl with dir := [(20, { epoch := 1 })] })] }
       staleOf s 40 = some (tx 6) ∧ (dirEntry s 0 20).epoch = 1 ∧ cmdFar s (tx 6) (dirEntry s 0 20) = true)
    ∧ (let s : State := { withBnd { stale := [tx 1] } up with nme := { up.nme with busyResend := [(40, 6000000)] } }
       resendDue s 40 = true ∧ (tx 1).waiting = true ∧ ({ tx 1 with waiting := false } : StaleTx).waiting = false)
    ∧ (let v := got 5 (withBnd { stale := [{ tx 1 with resolving := true }] } far)
       entryDue v 0 20 farTbl = true ∧ (v.bnd.stale.filter (fun x => x.table = 0 && x.seat = 20 && x.resolving)) ≠ [])
    ∧ entryDue (got 5 { far with tables := [(0, { farTbl with dirDue := 1 })] }) 0 20 { farTbl with dirDue := 1 } = true
    ∧ slotOfGlobal up 7 = some 0 ∧ 5 ∈ membersOf farTbl ∧ up.bnd.stale = [] := by decide

-- near-memory engines ---------------------------------------------------------------------------------------------------

/-- Slab 0 of stack 0 is bound to table 0, and one TLB entry maps the first 2 MiB of the table's addresses to it, with every permission. -/
def mapped : State :=
  { up with
    bnd := { seats := [(120, { epoch := 1, seat := 10, table := 0, state := .bound }), (1144, { epoch := 1, seat := 11, table := 0, state := .bound })] }
    trn := { tlb := [{ table := 0, base := 0, level := 2, group := false, leaf := 121, pteAddr := 0, ac := [false], dirty := [false] }] } }

/-- An engine task of table 0, and a hub with engine 0 in a state of the engine. -/
def task (b : NmeBody) : NmeTask := { table := 0, share := 0, cmd := ⟨0, 5, b⟩, ref := none, srcNode := 0, step := 0, retried := false, ended := false }
def eng (x : Engine) (s : State) : State := { s with nme := { s.nme with engines := [(0, x)] } }
def running_ (b : NmeBody) : State := eng { running := some (task b), state := .running } mapped
def good : NmeBody := .gather 0 0x1000 0x2000 64 64 64 1 1

def hold2 : List AnteHeld := [⟨2, 0, false, anteUnits 2, 0⟩]

theorem witness_EnginesAndSelfTest :
    (let x : Engine := { queue := [task good] }
     let s := eng x mapped
     engineFree (engineOf s 0) = true ∧ (engineOf s 0).drainFor = none ∧ shareTurn s 0 (engineOf s 0) = some (0, 1)
       ∧ shareHead (engineOf s 0) 0 = some (task good))
    ∧ (let s := withSys (fun x => { x with anteHeld := hold2 }) (eng { selected := some (task good), state := .waitAnte } mapped)
       (engineOf s 0).selected = some (task good) ∧ anteHas s 2 0 = true ∧ (engineOf s 0).drainFor = none ∧ anteHas (eng { selected := some (task good) } mapped) 2 0 = false)
    ∧ (engineOf (eng { state := .failed } up) 0).state = .failed ∧ testing { state := .draining, drainFor := some none } = true ∧ up.nme.testQ = [] ∧ (∀ x ∈ up.nme.engines, testing x.2 = false)
    ∧ (let s := withSys (fun x => { x with anteHeld := hold2, time := 10000000 }) (eng { state := .draining, drainFor := some none } up)
       s.sys.time ≥ (engineOf s 0).drainAt + 10000000 ∧ atBoundary (engineOf s 0) = true ∧ anteHas s 2 0 = true)
    ∧ (let s := eng { state := .selftest, drainFor := some (some 0) } up
       (engineOf s 0).state = .selftest ∧ (engineOf s 0).drainFor = some (some 0)) := by decide

/-- A pool of one head of 64 BF16 elements at 0x3000, and an append of one token to the block of the entry at 0x3040. -/
def poolBytes : List Byte :=
  leBytes 1 3 ++ leBytes 1 0 ++ leBytes 2 1 ++ leBytes 2 64 ++ leBytes 2 64 ++ leBytes 4 16 ++ leBytes 4 4096 ++ List.replicate 16 (0 : Byte)
def kv : NmeBody := .kvAppend 0x3000 0x3040 0x4000 0 1 3
def kvHub : State := devWrite 0 0x3000 poolBytes (running_ kv)
def dirty (s : State) : State := engineMod 0 (fun x => { x with dirtyTask := true }) s
def pass (b : NmeBody) (s : State) : Except Halt PassEnd × State := runPass (nmePass (taskAccessor s 0 (task b)) 0 (task b).cmd) s

/-- Reads the end of a pass. -/
def passIs (r : Except Halt PassEnd) (h : Halt) : Bool := match r with
  | .error e => e = h
  | .ok _ => false
def passLast (r : Except Halt PassEnd) : Option (Status × Option (Nat × List Byte × Nat)) := match r with
  | .ok x => some x
  | .error _ => none

/-- A command that ends with nothing more to do; one with a bad index; and one whose slab is suspended. -/
theorem witness_EngineCommandsRun :
    (engineOf (running_ good) 0).running = some (task good) ∧ nmeOpcode (task good).cmd.body = 0x05
    ∧ passLast (pass good (dirty (running_ good))).1 = some (.ok, none)
    ∧ accEnd (runningSet 0 { task good with effect := some .ok, last := none } (pass good (dirty (running_ good))).2) (.engine 0) = some .ok
    ∧ passIs (pass (.gather 0 0x1000 0x2000 64 64 64 1 0) (dirty (running_ (.gather 0 0x1000 0x2000 64 64 64 1 0)))).1 (.status .range) = true
    ∧ (let s := withBnd { seats := [(120, { table := 0, state := .suspended })] } (dirty (running_ good))
       passIs (pass good s).1 .wait = true) := by decide +kernel

/-- KV_APPEND leaves its last access for the end; its other accesses are answered then, and so is the last one. -/
theorem witness_EngineCommandsRun_last :
    (let r := pass kv (dirty kvHub)
     let l : Option (Nat × List Byte × Nat) := some (0x304C, leBytes 4 1, 5)
     let s := runningSet 0 { task kv with effect := some .ok, last := l } r.2
     passLast r.1 = some (.ok, l) ∧ accEnd s (.engine 0) = some .ok
       ∧ accEnd (runPass (accAtomic (taskAccessor s 0 { task kv with effect := some .ok, last := l }) 0x304C 5 (leBytes 4 1)) s).2 (.engine 0)
         = some .ok)
    ∧ nmeOpcode (task kv).cmd.body = 0x02 := by decide +kernel

theorem witness_TopkSelection : [((1 : Nat), 5), (2, 4)].Perm [((2 : Nat), 4), (1, 5)] ∧ ([((1 : Nat), 5), (2, 4)].map (fun c => c.2)).Nodup := by
  decide

theorem witness_RecordsCombine : numIsNan (f32Num headNaN.toNat) = true ∧ numIsNan (f32Num (0 : BitVec 32).toNat) = false
    ∧ (headEmpty : BitVec 32) = headEmpty := by decide

-- trick counters --------------------------------------------------------------------------------------------------------

/-- Counter 2 of table 0 is live with value 100; cluster 3 is bound to the table, and window 0 of page 0 shows the counter. -/
def ctr : State :=
  { seated with
    obj := { slots := [(slotKey 5 0, liveSlot), (slotKey 6 2, liveSlot)], pages := [(0, 0)] }
    tck := { counters := [(2, { state := .live, value := 100 })], windows := [(0, 2)] } }

/-- A request of core 1 of cluster 3 for that counter. -/
def creq (v : Nat) : CtrReq := ⟨3, 1, false, 8, mkHandle 6 1 2, v⟩

theorem witness_CoreCounterOperations :
    (bindAt ctr 3).state = .bound ∧ (creq 1).counter / 2 ^ 32 = ctr.sys.nodeId ∧ (creq 1).counter < 2 ^ 44 ∧ coreRerun ctr (creq 1) = false
    ∧ counterCheck ctr (some ((tenantOf ctr 0).getD 0)) ((creq 1).counter % 2 ^ 32) = .ok
    ∧ (counterOf ctr (hIdx ((creq 1).counter % 2 ^ 32))).state = .live ∧ (counterOf ctr 2).value + 65535 < 2 ^ 64 - 1
    ∧ (100 : Nat) ≤ (counterOf ctr 2).value ∧ (counterOf ctr 2).value < 100 + 2 ^ 62 ∧ ctr.tck.waiters.length < 16384
    ∧ waitersOf ctr 0 < tbl.quota ∧ tableAt ctr (bindAt ctr 3).table = some tbl ∧ (bindAt up 3).state ≠ .bound := by decide

/-- A mirror of counter 2 in the host's memory, and a hub whose table 0 reaches the host by port 0. -/
def mir : Mirror :=
  { counter := 2, table := 0, event := 0, addr := 4096, cookie := 0, threshold := 100, armed := true, inFlight := false, due := true, heldEvent := false }
def hosted : State := { ctr with hif := { ctr.hif with tbl := [(0, { att0 := true })] }, tck := { ctr.tck with mirrors := [(0, mir)] } }

theorem witness_SignalsWindowsMirrors :
    (let p : Packet := { src := 3, tenant := 1, type := 0x40, hasSig := true, addr := mkHandle 6 1 2, len := 1, sig := .add 1 }
     (rxAccept 0 p ctr).1 = .fresh ∧ p.addr < 2 ^ 44 ∧ p.addr / 2 ^ 32 = (rxAccept 0 p ctr).2.sys.nodeId
       ∧ (2 ^ 32 + p.addr) / 2 ^ 32 ≠ (rxAccept 0 p ctr).2.sys.nodeId)
    ∧ (let s : State := { ctr with lnk := { ctr.lnk with txns := [⟨9, 3, .signal none (some (3, 1, 8))⟩] } }
       txnOf s 9 = some ⟨9, 3, .signal none (some (3, 1, 8))⟩)
    ∧ (let h : HeldSignal := { id := 1, op := .add 1, node := 0, counter := 0, table := 0, source := .firmware, rerun := false, cmd := none,
                               core := none, guards := [.txn 7] }
       h.guards.any (guardStands ctr) = false
       ∧ h.guards.any (guardStands { ctr with lnk := { ctr.lnk with txns := [⟨7, 3, .other⟩] } }) = true)
    ∧ windowCounter ctr 0 0 = some (0, 2) ∧ windowCounter ctr 0 1 = none ∧ counterCheck ctr (tenantOf ctr 0) (liveHandle ctr 6 2) = .ok
    ∧ hIdx (liveHandle ctr 6 2) = 2
    ∧ mapGet hosted.tck.mirrors 0 = some mir
    ∧ (hostWrite 0 4096 (leBytes 8 (counterShown hosted 2)) (fenceKey (tableKey hosted 0) hosted)).isSome = true := by decide

theorem witness_WakesMisdealsReneges :
    (let s := withSys (fun x => { x with anteHeld := [⟨9, 0, false, anteUnits 9, 0⟩], time := 6000003 }) up
     s.sys.time / 8 * 8 = 6000000 ∧ s.tck.windowAt < 6000000 ∧ anteHas s 9 0 = true ∧ s.tck.ramp = []
     ∧ (let v : State := { s with tck := { s.tck with ramp := [⟨3, 2 ^ 64 - 1, 0, []⟩] } }
        let w := (v.tck.ramp.filter (fun e => e.since < 6000000)).take 8
        w ≠ [] ∧ (pwrAskWindow ((w.map (fun e => maskCount e.mask)).sum)
          { v with tck := { v.tck with windowAt := 6000000, rampActive := true } }).pwr.windowGranted = true))
    ∧ up.sys.time / 128 * 128 = 6000000 ∧ up.tck.scanAt < 6000000
    ∧ (let s := withSys (fun x => { x with fabricHeld := [⟨0, 1, 0, 0⟩, ⟨1, 0, 0, 0⟩] }) up
       chainFrom s 64 0 [] = some ([0, 1], 7) ∧ blockedAt s 0 = some ⟨0, 1, 0, 0⟩ ∧ mapGet s.sys.escape 1 = none)
    ∧ (let tb : Table := { farTbl with renegeTicks := 1000000000 }
       let s := withBnd { seats := [(3, { table := 0, state := .suspended })] } { far with tables := [(0, tb)] }
       tableAt s 0 = some tb ∧ pendingWork s 0 = true ∧ tb.renegeTicks ≥ tb.renegeMs * 1000000 ∧ tb.step.isOpen = false
       ∧ tb.renegedOnce = false ∧ farTbl.lead ≠ s.sys.nodeId)
    ∧ (let v := got 5 (leading [])
       slotOfGlobal v 7 = some 0 ∧ tableAt v 0 = some leadTbl ∧ 5 ∈ membersOf leadTbl ∧ leadTbl.lead = v.sys.nodeId)
    ∧ (let c := mkHandle 1 1 0
       let x : Ctx := { table := 0, saveObj := 0, saveOff := 0, state := .parked, wasParked := false, saved := [], created := 0 }
       let s : State := { ctr with obj := { ctr.obj with slots := [(slotKey 1 0, liveSlot)], ctxs := [(0, x)] },
                                   tck := { ctr.tck with waiters := [⟨2, 1, 200, .copyEngine 0, c, 0, 0⟩] } }
       ctxOf s c = some x ∧ liveHandle s 1 (hIdx c) = c ∧ ∃ w ∈ s.tck.waiters, w.ctx = c) := by decide

-- translation, faults and migration -------------------------------------------------------------------------------------

/-- An active context, a descriptor and a queue entry of a body, and a queue with entries. -/
def cx : Ctx := { table := 0, saveObj := mkHandle 3 1 0, saveOff := 0, state := .active, wasParked := false, saved := [], created := 0 }
def desc (b : QBody) : Desc :=
  { phase := true, fencePrev := false, notify := false, step := false, seq := 0, cls := 0, op := 0, sigOp := 0, sigNode := 0, waitCtr := 0,
    sigCtr := 0, waitValue := 0, sigValue := 0, headerClean := true, body := b }
def entry (st : EntryState) (b : QBody) : QEntry :=
  { pos := 0, d := desc b, names := none, state := st, events := [], sigFail := false, result := 0, cause := 0, flushed := false }
def que (es : List QEntry) : Queue :=
  { ctx := mkHandle 1 1 0, table := 0, size := 16, ringObj := mkHandle 3 1 0, ringOff := 0, cplObj := mkHandle 3 1 0, cplOff := 4096, dbPage := 0,
    dbSlot := 0, event := 0, cookie := 0, state := .active, err := 0, fetchPos := 0, tail := 0, retire := 0, entries := es, outcomes := [],
    namesPend := none, rereads := 0, rereadAt := none, rewind := none, sawStep := false, retryAt := none, abortedAt := [], created := 0 }

/-- A device memory object of 2 MiB at the start of slab 0, and an object of host memory. -/
def memObj : MemObj := { table := 0, kind := .device, extents := [(0, 2 ^ 21)], state := .live, hb := none, created := 0 }

/-- The mapped hub with table 0's context 0, queue 0 and memory object 0. -/
def objs (es : List QEntry) : State :=
  { mapped with obj := { slots := [(slotKey 1 0, liveSlot), (slotKey 2 0, liveSlot), (slotKey 3 0, liveSlot), (slotKey 4 0, liveSlot),
                                   (slotKey 5 0, liveSlot)],
                         ctxs := [(0, cx)], queues := [(0, que es)], mems := [(0, memObj)] } }
def q0 : Handle := mkHandle 2 1 0
def r0 : CmdRef := ⟨q0, 0⟩

theorem witness_PiecesStayInTheirTable :
    (match mapped.trn.tlb with
     | e :: _ => checkPiece mapped 0 2 false e 0x1234 64
     | [] => .waits) = .go .device 0x1234 ∧ localDevice mapped 0x1234 = true ∧ granulesOf 0xFFF0 64 = [0xFFF0, 0x10000] := by decide

/-- A tile descriptor of one row. -/
def row (va len : Nat) : TileDesc := { va := va, rowBytes := len, rows := 1, pitch := 0, op := 1, flags := 0, tag := 6, atom := 0 }

theorem witness_TilesRun : tileBad (row (2 ^ 57) 64) = true ∧ tileBad (row (2 ^ 57 - 64) 64) = false ∧ (bindAt up 3).state ≠ .bound
    ∧ (bindAt seated 3).state = .bound ∧ tileOf seated (.cf 3 1) 6 = none ∧ tlbHit seated 0 0 = none ∧ seated.trn.missQ.length < 1024
    ∧ (let p : Piece := { idx := 0, pos := 0, va := 0, len := 64, pa := 0, target := .device, open_ := 1, data := List.replicate 64 7 }
       let t : TileRec := { src := .cf 3 1, table := 0, d := row 0 64, data := [], issued := [p], row := 1 }
       let s : State := { seated with trn := { tiles := [t] } }
       tileOf s (.cf 3 1) 6 = some t ∧ t.allChecked = true ∧ p.open_ = 1 ∧ p.data ≠ [] ∧ s.nme.pieces = [] ∧ s.obj.doneWaits = []
       ∧ ∀ k ∈ rangeStacks s p.pa p.len, pllOn s (k / 4) = true)
    ∧ (let c : Channel := { ctx := 0, table := 0, kind := .hostIn, port := .hp0, engine := 0, jobs := [], destroying := false, created := 0 }
       let s : State := { up with hif := { up.hif with ce := [(0, { busy := some (mkHandle 7 1 0) })] }, obj := { up.obj with channels := [(0, c)] } }
       sourceTable s (.copyEngine 0) 0 6 = some 0) := by decide

/-- Table 0 with its root at address 4096 of slab 0, whose first entry points to 8192. -/
def rooted : State :=
  devWrite 0 4096 (leBytes 8 (2 * 4096 + 1)) { mapped with tables := [(0, { tbl with root := some (1, false) })] }
def aWalk (level pa : Nat) (d : Bool) : Walk := { table := 0, page := 0, level := level, tablePa := pa, discard := d }

theorem witness_WalksRun :
    (let s := trnMod (fun r => { r with missQ := [(0, 5)] }) rooted
     missTable s = some 0 ∧ groupFor s = some 0 ∧ s.trn.missQ.find? (fun m => m.1 = 0) = some (0, 5)
       ∧ groupFree s 0 = [0, 1, 2, 3, 4, 5, 6, 7]
       ∧ (walkBegin (anteRequest 6 0 false (trnMod (fun r => { r with missQ := [], lastTable := 0 }) s)) 0 5).isSome = true)
    ∧ (let s := withSys (fun x => { x with anteHeld := [⟨6, 0, false, anteUnits 6, 0⟩] }) rooted
       anteHas s 6 0 = true ∧ s.sys.time ≥ mapGetD s.trn.groupIdle 0 0 + 256 ∧ (∀ w ∈ s.trn.walks, w.1 / 8 ≠ 0))
    ∧ walkBegin rooted 0 0 = some (aWalk 5 4096 false) := by decide

/-- A read of the root goes a level down; one of an empty table is a fault, and one of a leaf ends; the page's slab may have moved to
another hub. -/
theorem witness_WalksRun_steps :
    walkFar rooted (aWalk 5 4096 false) = none
    ∧ (blocksTake (if walkAllowed rooted (aWalk 5 4096 false) then rangeStacks rooted 4096 128 else []) rooted).1 = none
    ∧ (match walkStep rooted (aWalk 5 4096 false) (walkBlock rooted (aWalk 5 4096 false)) with
       | .more w => w == aWalk 4 8192 false
       | _ => false) = true
    ∧ (match walkStep rooted (aWalk 4 8192 false) (walkBlock rooted (aWalk 4 8192 false)) with
       | .fault k a b c => k == .notValid && a == 0 && b == 4 && c == 0
       | _ => false) = true
    ∧ (let s := devWrite 0 8192 (leBytes 8 121) rooted
       (match walkStep s (aWalk 1 8192 false) (walkBlock s (aWalk 1 8192 false)) with
        | .leaf e l p es => e == 121 && l == 1 && p == 8192 && (match walkLeaf 0 0 e l p es s with | .ok _ => true | .error _ => false)
        | _ => false) = true)
    ∧ (let s : State := { rooted with bnd := { rooted.bnd with
          moves := [{ old := 120, table := 0, seat := 10, node := 5, new := 121, t := 0, running := true, granules := 100, done := false }] } }
       (walkFar s (aWalk 5 4096 false)).isSome = true) := by decide +kernel

def shootOf (who : ShootFor) (cs : List Nat) (drain : Bool) : Shootdown := ⟨0, 0, 0, 1, cs, drain, who, 5900000⟩
def shooting (x : Shootdown) : State := trnMod (fun r => { r with shoot := [x] }) mapped

theorem witness_ShootdownsRun :
    up.trn.shoot.length < 16 ∧ up.trn.shootQ = [] ∧ (2 ^ 57 - 4096) % 4096 = 0
    ∧ (let s := trnMod (fun r => { r with shoot := List.replicate 16 (shootOf .internal [] true), shootQ := List.replicate 256 (shootOf .internal [] true) }) up
       s.trn.shoot.length ≥ 16 ∧ s.trn.shootQ.length ≥ 256)
    ∧ entryOf (objs [entry .dispatched (.invalidate 4096 1)]) r0 = some (entry .dispatched (.invalidate 4096 1))
    ∧ (let s := trnMod (fun r => { r with shootQ := [shootOf .internal [] true] }) up
       s.trn.shootQ = shootOf .internal [] true :: [] ∧ s.trn.shoot.length < 16)
    ∧ (shooting (shootOf (.mailbox 4) [3] false)).trn.shoot.find? (fun x => x.id = 0) = some (shootOf (.mailbox 4) [3] false)
    ∧ (∀ k ∈ (shootOf (.mailbox 4) [3] false).clusters, k = 3) ∧ drainOpen (shooting (shootOf (.mailbox 4) [] true)) (shootOf (.mailbox 4) [] true) = false
    ∧ up.sys.time ≥ (shootOf (.mailbox 4) [3] true).started + 100000
    ∧ localDevice mapped 4096 = true ∧ slabOwner mapped 4096 = some 0 ∧ slabOwner mapped (2 ^ 34) ≠ some 0 := by decide +kernel

/-- A fault of queue 0's context at page 0x200000. -/
def flt : FaultReq := ⟨.queue q0, 0, mkHandle 1 1 0, none, 0, 0x200000, 0, 0, 2, .notValid, 1⟩
def faulting : State :=
  { objs [] with
    tables := [(0, { tbl with ring := some (mkHandle 3 1 0, mkHandle 4 1 0, 0) })]
    trn := { faultQ := [flt], cam := [(5, ⟨0, 0x400000, some 9, { flt with va := 0x400000 }, false, false, false, 0, [], false, none⟩)] } }

theorem witness_FaultsReachTheDriver :
    flt ∈ faulting.trn.faultQ ∧ faultFirst faulting flt = true ∧ isWindow flt = false ∧ inHostback faulting 0 flt.va = false
    ∧ modelAt faulting 0 flt.va = none ∧ (∀ e ∈ faulting.trn.cam, ¬ (e.2.table = flt.table ∧ e.2.page = flt.va / 4096 * 4096))
    ∧ mapFree faulting.trn.cam 512 = some 0 ∧ ctxOf faulting flt.ctx = some cx ∧ cx.state = .active
    ∧ recordEntry faulting 0 (9 * 512 + 5) = some 5 ∧ recordEntry faulting 0 (8 * 512 + 5) = none
    ∧ regionStatus faulting 0 (mkHandle 3 1 0) 4096 32768 = .ok ∧ checkOwned faulting ((tenantOf faulting 0).getD 0) 0 4 (mkHandle 4 1 0) = .ok
    ∧ liveHandle faulting 1 (hIdx (mkHandle 1 1 0)) = mkHandle 1 1 0 := by decide +kernel

/-- A host-backed range of two blocks, kept on the device, whose blocks come from object 0. -/
def hbBody : HostbackBody := ⟨0x10000000, 131072, 0x40000, mkHandle 3 1 0, true, true, false, []⟩
def hbk : Hostback := { b := hbBody, home := 2, shareReads := false, blocks := [] }
def hbObj : MemObj := { table := 0, kind := .hostback, extents := [], state := .live, hb := some hbk, created := 0 }
def bm (run : Bool) : BlockMove := ⟨1, 0, .device, .host, 65536, run, none, none, none⟩
def backed (es : List QEntry) (ms : List BlockMove) : State :=
  let s := objs es
  { s with
    obj := { s.obj with slots := [(slotKey 2 0, liveSlot), (slotKey 3 0, liveSlot), (slotKey 3 1, liveSlot), (slotKey 5 0, liveSlot)],
                        mems := [(0, memObj), (1, hbObj)] }
    trn := { s.trn with moves := ms }
    hif := { s.hif with tbl := [(0, { att0 := true })] } }
def hb1 : Handle := mkHandle 3 1 1

/-- Table 0 with tables of every level above 1 for the range's addresses. -/
def paged : State :=
  devWrite 0 (16384 + 1024) (leBytes 8 (20480 + 1)) (devWrite 0 12288 (leBytes 8 (16384 + 1)) (devWrite 0 8192 (leBytes 8 (12288 + 1))
    (devWrite 0 4096 (leBytes 8 (8192 + 1)) { objs [] with tables := [(0, { tbl with root := some (1, false) })] })))

theorem witness_HostBackedRanges_set : OnTable paged own 0 ∧ Takes paged 4 .t
    ∧ (match (effHostbackSet hbBody 0 (taken 0x205 4 paged)).reply with
       | some a => decide (a.st = .ok)
       | none => false) = true := by
  unfold OnTable Takes CoreServes
  decide +kernel

theorem witness_HostBackedRanges :
    (let s := objs []
     checkOwned s ((tenantOf s 0).getD 0) 0 3 hbBody.pool = .ok ∧ memOf s hbBody.pool = some memObj ∧ memObj.state = .live ∧ memObj.kind = .device)
    ∧ checkOwned (backed [] []) ((tenantOf (backed [] []) 0).getD 0) 0 3 hb1 = .ok ∧ mapGet (backed [] []).obj.mems (hIdx hb1) = some hbObj
    ∧ hbMoving (backed [] [bm true]) (hIdx hb1) = true ∧ hbMoving (backed [] []) (hIdx hb1) = false
    ∧ (hbRange (backed [] []) 0 0x10000000 131072).isSome = true ∧ tableAt (backed [] []) 0 = some tbl
    ∧ atTarget (blockOf hbk 1).state .device = false
    ∧ (List.range (hbk.b.length / 65536)).find? (fun k => (policyOf hbk k).home = 2 && (blockOf hbk k).state = .host
        && !(backed [] []).trn.moves.any (fun m => m.object = hIdx hb1 && m.block = k)) = some 0
    ∧ moveReady [] [bm false] = some (bm false) ∧ moveWillCopy (backed [] [bm false]) (bm false) = true
    ∧ (copyTake (blockInst (bm false)) false (backed [] [bm false])).1 = true
    ∧ (let s := withSys (fun x => { x with anteLimit := 214 }) (backed [] [bm false])
       (copyTake (blockInst (bm false)) false s).1 = false)
    ∧ moveOf (backed [] [bm true]) (hIdx hb1) 0 = some (bm true) ∧ moveCopies (bm true) = true ∧ (bm true).guard = none
    ∧ (primaryOf (backed [] []) 0).isSome = true ∧ shootAll (backed [] [bm true]) = []
    ∧ (hostbackAt (got 5 (backed [] [])) 0 0x10010000).isSome = true ∧ hostbackAt (got 5 (backed [] [])) 0 0 = none
    ∧ slotOfGlobal (got 5 (backed [] [])) 7 = some 0 := by decide

-- device memory ---------------------------------------------------------------------------------------------------------

theorem witness_WriteThenRead : Memory.wf up.mem.cells = true ∧ mapWf 0 up.mem.keyOf = true ∧ mapWf false up.mem.poison = true
    ∧ (stackOf up 0).merge = [] ∧ 1020 % 1024 + [1, 2, 3, 4].length ≤ 1024 ∧ poisoned up 0 0 = false := by decide

theorem witness_MemoryKeepsItsForm : MemOk up := by unfold MemOk; decide

def mreq (pa len : Nat) : MemReq := ⟨some 0, pa, len, 7⟩
def ment : MergeEntry := { codeblock := 0, key := 0, bytes := [(0, 1)], created := 5998000 }
def merging : State := stackMod 0 (fun x => { x with merge := [ment] }) mapped

theorem witness_ChannelBlocksRun :
    stackWorks up (placeOf up (mreq 0 64).pa).stack = true
    ∧ (placeOf up (mreq 1008 16).pa).local_ % 1024 = 1008 ∧ 1008 % 1024 + 16 ≤ 1024
    ∧ slabTable up (placeOf up 0).stack ((placeOf up 0).local_ / 1024 / 2 ^ 20) = none ∧ (blockTake 0 up).1 = true
    ∧ (blockTake 0 (withSys (fun x => { x with pllOut := 1 }) up)).1 = false ∧ remoteOf up (placeOf up 0) = none
    ∧ devRead up 0 0 (atomSpan 1 4) = (.ok, List.replicate (atomSpan 1 4) 0)
    ∧ stackWorks (stackMod 0 (fun x => { x with state := .failed }) up) 0 = false
    ∧ atomBad 1 3 = true ∧ atomBad 1 4 = false ∧ mergeOf merging 0 0 = some ment ∧ ment.created + 2000 ≤ merging.sys.time
    ∧ poisoned { merging with mem := { merging.mem with poison := [(0, true)] } } 0 0 = true
    ∧ (let s := stackMod 0 (fun x => { x with lastRefresh := now up, lastRetrain := now up }) up
       refreshDue up 0 false = true ∧ refreshDue up 0 true = true ∧ refreshDue s 0 false = false ∧ trainDue up 0 = true ∧ trainDue s 0 = false)
    ∧ (stackOf (stackMod 0 (fun x => { x with retrainFor := [0], trainFails := 2 }) up) 0).retrainFor = [0] := by decide

def scr : Scrub :=
  { mbx := 0, seq := 0, b := ⟨1, 0, 1, 500, false⟩, started := none, lastEnd := 0, next := 0, read := 0, corrected := 0, rewritten := 0,
    uncorrectable := 0, poisoned := 0, skipped := 0, maxSymbols := 0, firstUe := none, aborted := false }

theorem witness_MemoryUpkeep :
    (stackOf up 0).state = .working ∧ rowFree up 0 = true ∧ rowFree mapped 0 = false ∧ rowOneClass up 0 = true
    ∧ (let s : State := { up with mem := { up.mem with stk := [(0, { state := .working, chkSlabs := 4, slabs := [(0, { cls := 1 })] }),
                                                               (1, { state := .working, chkSlabs := 4 })] } }
       rowOneClass s 0 = false)
    ∧ (let s : State := { up with mem := { up.mem with rowLocal := 1, stk := [(0, { state := .working, chkSlabs := 4, slabs := [(0, { data := true })] })] } }
       s.mem.rowLocal.getLsbD 0 = true ∧ (slabCfg s 0 0).data = true ∧ (unitRun (stackOf s 0) 0 1).isSome = true
         ∧ (bindAt s (slabIndex 0 0)).state = .free)
    ∧ scrubWaiting [] up.mem.scrubs < 8 ∧ 16 + 1 ≤ 48 - (stackOf up 0).chkSlabs
    ∧ (let s : State := { up with mem := { up.mem with scrubs := [scr] } }
       now s / 500 ≠ scr.lastEnd / 500 ∧ (scrubStacks scr).all (fun k => anteHas s 8 k) = false
         ∧ (scrubStacks scr).all (fun k => anteHas (withSys (fun x => { x with anteHeld := [⟨8, 0, false, 1, 0⟩] }) s) 8 k) = true)
    ∧ (copyTake (spareInst 0) true up).1 = true ∧ mapGet (stackOf up 0).spares 9 = none
    ∧ (List.range 4096).find? (fun e => !(stackOf up 0).spares.any (fun x => x.2 = e)) = some 0
    ∧ (let s := withBnd { seats := [(120, { state := .refill })] } (stackMod 0 (fun x => { x with refills := [.slab 0] }) up)
       (stackOf s 0).refills = .slab 0 :: [] ∧ stackWorks s 0 = true ∧ mapGet s.mem.refillHold (slabIndex 0 0) = none ∧ slabListed s 0 0 = false ∧ mapWf ({} : Binding) s.bnd.seats = true)
    ∧ (let s := withBnd { seats := [(120, { state := .refill })] } { up with mem := { up.mem with refillHold := [(120, 6000000)] } }
       mapGet s.mem.refillHold (slabIndex 0 0) = some 6000000 ∧ 6000000 ≤ now s ∧ Refill.slab 0 ∉ (stackOf s 0).refills ∧ s.mem.keys = []
       ∧ (bindAt s (slabIndex 0 0)).state = .refill)
    ∧ mapGet ({ up with mem := { up.mem with keys := [(3, { state := .erasing })] } } : State).mem.keys 3 = some { state := .erasing }
    ∧ (let s := objs []
       let v : State := { s with obj := { s.obj with mems := [(0, { memObj with state := .refill })] } }
       mapGet v.obj.mems 0 = some { memObj with state := .refill } ∧ objectTurn v 0 = true ∧ liveHandle v 3 0 = mkHandle 3 1 0)
    := by decide +kernel

-- attention -------------------------------------------------------------------------------------------------------------

/-- An ATTN_DECODE of one head over one block, in a hub whose directory names engine 0's seat; and the same with SCALE zero. -/
def attn (scale : Nat) : AttnBody := ⟨0x3000, 0x3800, 0x4000, 0x5000, 0, 0, 0, scale, 1, 1, 3, 0, 3⟩
def attnCmd (scale : Nat) : NmeCmd := ⟨0, 5, .attnDecode 0x3000 0x3800 0x4000 0x5000 0 0 0 scale 1 1 3 0 3⟩
def seatDir : FMap SeatEntry := [(11, { epoch := 1, node := 0, binding := 1144, kind := .nme, state := .bound })]
def attnHub (scale : Nat) : State :=
  devWrite 0 0x3800 (leBytes 8 0x6000 ++ leBytes 8 0x100000000) (devWrite 0 0x3000 poolBytes
    { objs [entry .dispatched (.nme (attnCmd scale) [])] with tables := [(0, { tbl with dir := seatDir })] })
def attnAcc (s : State) : Accessor := { src := cmdSource r0, table := 0, rerun := inStep s r0, host := true }

/-- Reads the bytes of a pass, and says whether it ended with them. -/
def passBytes (r : Except Halt (List Byte)) : List Byte := match r with
  | .ok b => b
  | .error _ => []
def passOk (r : Except Halt (List Byte)) : Bool := match r with
  | .ok _ => true
  | .error _ => false

theorem witness_AttentionCommands_start :
    (let s := attnHub 0x3F800000
     let b := attn 0x3F800000
     let a1 := runPass (accRead (attnAcc s) b.poolVa 32) s
     let a2 := runPass (accRead (attnAcc s) b.splitVa (16 * min b.splitCount 4096)) a1.2
     let pool := poolOf (passBytes a1.1)
     let es := (chunks 16 (min b.splitCount 4096) (passBytes a2.1)).map splitOf
     let a3 := runPass (accRead (attnAcc s) b.qVa (if attnPoolBad b pool then 64 else queryLen pool b.qHeads)) a2.2
     entryOf s r0 = some (entry .dispatched (.nme (attnCmd 0x3F800000) [])) ∧ ctxOf s (que []).ctx = some cx
       ∧ passOk a1.1 = true ∧ passOk a2.1 = true ∧ passOk a3.1 = true ∧ attnFieldsBad b = false ∧ attnPoolBad b pool = false
       ∧ attnSplitBad a3.2 0 es = false ∧ (List.range 16).any (fun e => (shareOf a3.2 e 0).isSome) = true)
    ∧ attnFieldsBad (attn 0) = true
    ∧ passOk (runPass (accRead (attnAcc (attnHub 0)) 0x3000 32) (attnHub 0)).1 = true := by decide +kernel

/-- An engine task with its status, a piece at a fold port, and a PARTIAL for an open fold and for one that is not open. -/
def aPool : PoolDesc := poolOf poolBytes
def attnTask : NmeTask := { task (.attnTask 1 true aPool [] 0 0 0 1 3 0 []) with effect := some .ok }
def aFold : Fold := { gen := 1, isOpen := true, engine := 0, table := 0, await := [1] }
def folding : State := { mapped with nme := { mapped.nme with folds := [(0, aFold)], portQ := [⟨1, 1, 1024, 0, 0, []⟩] } }
def partialPkt (fold : Nat) : Packet := { src := 3, tenant := 1, type := 0x12, addr := fold * 2 ^ 48, payload := [1] }

theorem witness_AttentionCommands :
    (let s := eng { running := some attnTask, state := .running } mapped
     (engineOf s 0).running = some attnTask ∧ attnTask.ended = false ∧ attnTask.effect = some .ok ∧ poolHeads aPool ≥ 1 ∧ groupSize aPool 1 ≥ 1)
    ∧ (⟨1, 1, 1024, 0, 0, []⟩ : PortPiece) ∈ folding.nme.portQ
    ∧ (let a := rxAccept 0 (partialPkt 1024) folding
       (a.1 = .fresh) ∧ foldNamed a.2 1024 = some 0 ∧ (foldOf a.2 0).await.getD 0 0 > 0 ∧ tenantOf a.2 (foldOf a.2 0).table = some 1
         ∧ foldNamed a.2 2048 = none) := by decide +kernel

-- links -----------------------------------------------------------------------------------------------------------------

/-- The serving hub with another port 0. -/
def lp (x : LinkPort) : State := { up with lnk := { up.lnk with ports := [(0, x)] } }
def aFlit : Flit :=
  { tenant := 1, vc := 0, slots := 1, dst := 5, src := 0, hops := 15, shared := false, cont := false, lseq := 0, ack := 0, nak := false,
    ackValid := true, cred0 := (0, 0), cred1 := (0, 0), crcOk := true, type := 1 }

/-- Each state of a port; silence for exactly 1,000 ticks and an ECHO for 100,000. -/
theorem witness_LinksTrain :
    linksOn (lp {}) = true ∧ (lnkPort (lp { state := .training }) 0).state = .training
    ∧ (let s := lp { state := .negotiate, helloSent := true, helloAt := 5999000 }
       (lnkPort s 0).state = .negotiate ∧ (lnkPort s 0).helloGot = false ∧ (lnkPort s 0).helloSent = true
         ∧ (lnkPort s 0).helloAt + 1000 ≤ now s ∧ bitsOf 8 3 3 = 1 ∧ bitsOf 4 3 3 = 0)
    ∧ now up < (lnkPort (lp { state := .negotiate, helloAt := 5999001 }) 0).helloAt + 1000
    ∧ (let s := lp { state := .negotiate, helloSent := true, helloGot := true, echoSeq := 1 }
       (lnkPort s 0).helloGot = true ∧ (lnkPort s 0).kept = [] ∧ (lnkPort s 0).nextLseq = 0 ∧ linkTalks (lnkPort s 0) = true
         ∧ (lnkPort s 0).echoSeq = 1)
    ∧ (let s := withSys (fun x => { x with anteHeld := [⟨3, 0, false, anteUnits 3, 0⟩] }) (lp { state := .up, credShared := 1, echoDue := [4] })
       creditFor (lnkPort s 0) 5 = some true ∧ anteHas s 3 0 = true ∧ (lnkPort s 0).echoDue = 4 :: [])
    ∧ (let s := lp { state := .up, echoAt := 5900000, lastGood := 5999000 }
       (lnkPort s 0).state = .up ∧ (lnkPort s 0).echoAt + 100000 ≤ now s ∧ (lnkPort s 0).lastGood + 1000 ≤ now s
         ∧ now s < (lnkPort (lp { state := .up, lastGood := 5999001 }) 0).lastGood + 1000)
    ∧ (let s := lp { state := .down, cause := .silence, downAt := 5000000 }
       (lnkPort s 0).state = .down ∧ (lnkPort s 0).cause ≠ .disabled ∧ linkPllOk s 0 = true ∧ (lnkPort s 0).downAt + 1000000 ≤ now s)
    ∧ (lnkPort (lp { state := .failed, cause := .version }) 0).state = .failed
    ∧ 4095 + [({} : RouteEntry)].length ≤ 4096 ∧ 4096 + [({} : RouteEntry)].length > 4096 ∧ mapWf ({} : RouteEntry) up.lnk.routes = true
    ∧ linkPllOk up 0 = true ∧ 255 ≤ 255 ∧ 500 ≤ 500 ∧ 256 > 255 ∧ 501 > 500 := by decide

def sending (draw : Bool) : State :=
  let s := lp { state := .up, credShared := 1, txQ := [{ f := aFlit, since := 5950000 }] }
  if draw then withSys (fun x => { x with anteHeld := [⟨3, 0, false, anteUnits 3, 0⟩] }) s else s

theorem witness_FlitsMove :
    sendable (lp { state := .up }) 0 = none ∧ (sendable (sending true) 0).isSome = true ∧ (lnkPort (sending true) 0).echoDue = []
    ∧ anteHas (sending false) 3 0 = false ∧ anteHas (sending true) 3 0 = true
    ∧ (let s := lp { state := .up, credShared := 1, echoDue := [4] }
       (lnkPort s 0).echoDue ≠ [] ∧ (creditFor (lnkPort s 0) 5).isSome = true)
    ∧ (let s := withBnd { seats := [(linkIndex 0 0, { table := 0, state := .bound })] } (sending true)
       shareTenant s 0 (lnkPort s 0).turn = some 1 ∧ ∃ y ∈ flitsReady (lnkPort s 0), y.from_ = 16 ∧ y.f.tenant = 1)
    ∧ { aFlit with crcOk := false }.crcOk = false
    ∧ (aFlit.crcOk = true ∧ aFlit.vc ≠ 7 ∧ aFlit.nak = false ∧ aFlit.lseq = (lnkPort up 0).expectLseq ∧ aFlit.dst ≠ up.sys.nodeId
       ∧ oneHop aFlit = false ∧ 15 ≤ aFlit.hops ∧ flitUnlisted aFlit [{ src := 0, tenant := 1, type := 1 }] = false
       ∧ aFlit.vc < 6 ∧ (aFlit.tenant = 0 ↔ aFlit.vc = 5))
    ∧ { aFlit with lseq := 1 }.lseq ≠ (lnkPort up 0).expectLseq ∧ { aFlit with hops := 14 }.hops < 15 ∧ { aFlit with dst := 0 }.dst = up.sys.nodeId
    ∧ (let s := lp { state := .up, kept := [⟨{ aFlit with lseq := 1 }, 15⟩] }
       ∀ k ∈ (lnkPort s 0).kept, lseqCovered 0 k.f.lseq = false ∧ k.resent < 16)
    ∧ (let s := lp { state := .up, kept := [⟨{ aFlit with lseq := 1 }, 16⟩] }
       ∃ k ∈ (lnkPort s 0).kept, lseqCovered 0 k.f.lseq = false ∧ 16 ≤ k.resent)
    ∧ (let s := lp { state := .up, nakOut := true, nakAt := 5999900 }
       linkTalks (lnkPort s 0) = true ∧ (lnkPort s 0).nakAt + 100 ≤ now s)
    ∧ now up < (lnkPort (lp { state := .up, nakOut := true, nakAt := 5999901 }) 0).nakAt + 100 ∧ up.lnk.dropCnt < 2 ^ 64
    ∧ (let s := lp { state := .up, lastBusy := 5999000 }
       (lnkPort s 0).lastBusy + 1000 ≤ now up ∧ (lnkPort s 0).txQ = [] ∧ (lnkPort s 0).echoDue = [])
    ∧ lnkUp (lp { state := .down }) 0 = false ∧ now up < (lnkPort (lp { state := .up, lastBusy := 5999001 }) 0).lastBusy + 1000 := by decide

def aPkt : Packet := { src := 0, tenant := 1, type := 0x10, eseq := 7, tag := 9, payload := [1] }
def keptPkt : KeptPacket := { eseq := 7, p := aPkt, port := 0, first := 5900000, last := 5980000, wait := 20000 }
def ends : State :=
  withSys (fun x => { x with time := 200000000 })
    { up with lnk := { up.lnk with tx := [(3, { next := 8, kept := [keptPkt] })], rx := [(3, { low := 4, unacked := 1, firstUnacked := 5999000 })],
                                   txns := [⟨9, 3, .signal none (some (3, 1, 8))⟩] } }

theorem witness_EndToEndDelivery :
    linksOn ends = true ∧ mapGet ends.lnk.tx 3 = some { next := 8, kept := [keptPkt] } ∧ keptPkt.dropped = false
    ∧ 0 < (rxOf ends 3).unacked ∧ (rxOf ends 3).firstUnacked + 1000 ≤ now ends
    ∧ now (withSys (fun x => { x with time := 5999999 }) ends) < (rxOf ends 3).firstUnacked + 1000
    ∧ (8195 + 1 + 2 ^ 32 - (rxOf ends 3).low) % 2 ^ 32 ≤ 8192 ∧ (rxOf ends 3).above = []
    ∧ 2 ^ 31 ≤ (2 + 1 + 2 ^ 32 - (rxOf ends 3).low) % 2 ^ 32
    ∧ keptPkt.first + ends.lnk.giveup * 1000000 ≤ now ends ∧ now up < keptPkt.first + up.lnk.giveup * 1000000
    ∧ txnOf ends 9 = some ⟨9, 3, .signal none (some (3, 1, 8))⟩ ∧ typeAsks aPkt.type = true
    ∧ (let s : State := { up with lnk := { up.lnk with rx := [(3, { heldSig := [(0, { aPkt with type := 0x12, eseq := 0 })] })] } }
       (rxOf s 3).heldSig = [(0, { aPkt with type := 0x12, eseq := 0 })] ∧ sigWaits s 3 0 = false)
    ∧ (let s : State := { up with lnk := { up.lnk with rx := [(3, { low := 2, heldSig := [(0, { aPkt with eseq := 5 })] })] } }
       (rxOf s 3).heldSig = [(0, { aPkt with eseq := 5 })] ∧ sigWaits s 3 5 = true) := by decide

/-- Requests of node 3 for slab 0 of this hub, a member of table 0. -/
def meets (st : BindState) : State :=
  { mapped with
    tables := [(0, { tbl with members := [0, 3] })]
    bnd := { seats := [(120, { epoch := 1, seat := 10, table := 0, state := st })] } }
def rqst (type len tenant : Nat) (bs : List Byte) : Packet := { src := 3, tenant := tenant, type := type, len := len, tag := 4, epoch := 1, payload := bs }
def arrives (p : Packet) : Arrival × State := rxAccept 0 p (meets .bound)
def chkIs (r : SlabCheck) (t : Nat) : Bool := match r with
  | .table k => k = t
  | _ => false
def chkStatus (r : SlabCheck) : Option Status := match r with
  | .refused st => some st
  | _ => none
def chkWaits (r : SlabCheck) : Bool := match r with
  | .waits => true
  | _ => false

theorem witness_RemoteRequestsRun :
    (let a := arrives (rqst 0x01 64 1 [])
     let l := settleLoc a.2 4 (locate a.2 0)
     a.1 = .fresh ∧ chkIs (packetCheck a.2 (rqst 0x01 64 1 [])) 0 = true ∧ remoteOf a.2 l = none ∧ (∀ r ∈ a.2.lnk.relays, r.id ≠ a.2.lnk.nextRelay)
         ∧ (blocksTake (packetBlocks a.2 (rqst 0x01 64 1 [])) a.2).1 = none ∧ (txOf a.2 3).kept.length < 4096 ∧ (txOf a.2 3).waiting = [])
    ∧ (let a := rxAccept 0 (rqst 0x01 64 1 []) (withSys (fun x => { x with pllOut := 1 }) (meets .bound))
       a.1 = .fresh ∧ (blocksTake (packetBlocks a.2 (rqst 0x01 64 1 [])) a.2).1 = some 0)
    ∧ (let a := arrives (rqst 0x10 0 1 [1])
       let l := settleLoc a.2 4 (locate a.2 0)
       a.1 = .fresh ∧ chkIs (packetCheck a.2 (rqst 0x10 0 1 [1])) 0 = true ∧ remoteOf a.2 l = none ∧ stackWorks a.2 l.stack = true)
    ∧ (let a := arrives (rqst 0x02 0 1 (leBytes 4 1))
       a.1 = .fresh ∧ chkIs (packetCheck a.2 (rqst 0x02 0 1 (leBytes 4 1))) 0 = true ∧ atomBad 1 4 = false ∧ atomBad 0 3 = true)
    ∧ (rxAccept 0 (rqst 0x01 64 1 []) (arrives (rqst 0x01 64 1 [])).2).1 = .duplicate
    ∧ chkWaits (packetCheck (meets .suspended) (rqst 0x01 64 1 [])) = true
    ∧ chkStatus (packetCheck (meets .bound) (rqst 0x01 64 9 [])) = some .denied
    ∧ chkStatus (packetCheck (meets .failed) (rqst 0x01 64 1 [])) = some .fault
    ∧ (let s : State := { up with lnk := { up.lnk with txns := [⟨4, 3, .other⟩] } }
       (rxAccept 0 (rqst 0x20 0 0 []) s).1 = .fresh ∧ txnOf (rxAccept 0 (rqst 0x20 0 0 []) s).2 4 = some ⟨4, 3, .other⟩ ∧ txnOf s 5 = none)
    ∧ ({ tag := 4, dst := 5, what := .other } : Txn).dst ≠ (rqst 0x20 0 0 []).src
    ∧ (let v := got 3 up
       coreAnswers v = true ∧ slotOfGlobal v 7 = some 0 ∧ tableAt v 0 = some tbl ∧ tbl.lead = v.sys.nodeId ∧ tbl.destroying = false
       ∧ 3 ∉ membersOf tbl ∧ (membersOf tbl).length < 4096)
    ∧ slotOfGlobal (got 5 (leading [])) 7 = some 0 ∧ 5 ∈ membersOf leadTbl
    ∧ (let s := withSys (fun x => { x with phase := .release }) up
       linksOn s = true ∧ s.sys.phase ≠ .released) := by decide +kernel

-- coherence -------------------------------------------------------------------------------------------------------------

def msg (a : Nat) : CohMsg := { agent := a, line := 0 }
def drawn7 (s : State) : State := withSys (fun x => { x with anteHeld := [⟨7, 0, false, anteUnits 7, 0⟩] }) s
def dirE (st : LineState) (ps : List Nat) : DirEntry := { state := st, owner := 3, presence := ps, busy := true }
def withCoh (d : FMap DirEntry) (t : FMap LineTxn) (s : State) : State := { s with coh := { s.coh with dir := d, txns := t } }
def lineTxn (type : Nat) (ws : List Nat) : LineTxn :=
  { type := type, m := msg 5, waiting := ws, snooped := 3, needAck := false, newState := .m, newOwner := 5, newPresence := [5], got := none,
    gotDirty := false, wbSeen := false, wbpSeen := false, forwarded := false, dataDue := false, opened := 5900000 }

theorem witness_HomeRequests : CohQuiet mapped ∧ (msg 3).link = none ∧ cohHome mapped 0 = true ∧ (lineTable mapped 0).isSome = true
    ∧ cohTxn mapped 0 = none ∧ anteHas (drawn7 mapped) 7 (lineSlice 0) = true ∧ anteHas mapped 7 (lineSlice 0) = false
    ∧ lineStack (drawn7 mapped) 0 = some 0 ∧ blockReady (drawn7 mapped) 0 = true
    ∧ blockReady (withSys (fun x => { x with pllOut := 1 }) (drawn7 mapped)) 0 = false
    ∧ sliceOpen mapped (lineSlice 0) < 1024 ∧ (setEntries mapped 0).length < 16 ∧ mapGet mapped.coh.dir 0 = none
    ∧ (lineRead (drawn7 mapped) 0).1 = .ok ∧ CohQuiet (drawn7 mapped)
    ∧ ((withCoh [(0, dirE .m [3])] [] mapped).coh.dir.map (fun x => x.1)).Pairwise (· < ·) := by
  unfold CohQuiet
  decide +kernel

/-- A message of node 0 on link port 0 about its line, at hub 2. -/
def away : State := withSys (fun x => { x with nodeId := 2 }) mapped
def linked (a : Nat) : CohMsg := { msg a with link := some { lp := 0, node := 0, eseq := 0, tenant := 1 }, state := .s }
def cohIn (type : Nat) (s : State) : Arrival × State := rxAccept 0 { src := 0, tenant := 1, type := type, eseq := 0, addr := 0 } s

theorem witness_SnoopsAndGrants : CohQuiet away ∧ cohHome away 0 = false
    ∧ (let a := cohIn 0x39 away
       a.1 = .fresh ∧ cohTxn a.2 0 = none ∧ (dirAt a.2 0).presence = [] ∧ (txOf a.2 0).kept.length < 4096 ∧ (txOf a.2 0).waiting = [])
    ∧ (let a := cohIn 0x39 (withCoh [(0, dirE .s [3, 119])] [] away)
       a.1 = .fresh ∧ (dirAt a.2 0).presence ≠ [] ∧ ∀ x ∈ (dirAt a.2 0).presence, x < 120)
    ∧ (let s := withCoh [(0, dirE .m [3])] [(0, lineTxn 0x31 [3, 4])] mapped
       CohQuiet s ∧ cohTxn s 0 = some (lineTxn 0x31 [3, 4]) ∧ [3, 4].erase 3 ≠ [])
    ∧ (let x := lineTxn 0x31 [3]
       x.waiting = [3] ∧ x.type = 0x31 ∧ x.snooped = 3 ∧ x.wbSeen = false ∧ x.dataDue = false ∧ x.needAck = false ∧ x.got = none ∧ x.m.agent < 120)
    ∧ (let s := withCoh [(0, dirE .m [5])] [(0, { lineTxn 0x31 [] with needAck := true })] mapped
       cohTxn s 0 = some { lineTxn 0x31 [] with needAck := true } ∧ (msg 5).agent = 5 ∧ (dirAt s 0).presence ≠ [] ∧ (dirAt s 0).state ≠ .i
         ∧ (s.coh.txns.map (fun y => y.1)).Pairwise (· < ·))
    ∧ 0 ∈ ({ away with coh := { away.coh with wbBuffers := [0] } } : State).coh.wbBuffers ∧ 0 ∉ away.coh.wbBuffers
    ∧ cohTxn mapped 0 = none ∧ wantsData (lineTxn 0x30 [3]) = true
    ∧ (let a := cohIn 0x3D (withCoh [] [(0, lineTxn 0x30 [])] away)
       a.1 = .fresh ∧ cohTxn a.2 0 = some (lineTxn 0x30 []) ∧ (linked 5).status = .ok ∧ (linked 5).noCache = false ∧ (linked 5).state ≠ .i)
    ∧ (lineTxn 0x31 [3]).opened + 100000 ≤ now mapped ∧ mapped.coh.toValid = false
    ∧ now mapped < { lineTxn 0x31 [3] with opened := 5900001 }.opened + 100000
    ∧ sliceOpen (drawn7 mapped) 0 = 0 ∧ mapGetD (drawn7 mapped).coh.sliceIdle 0 0 + 256 ≤ now (drawn7 mapped)
    ∧ now mapped < mapGetD [(0, 5999745)] 0 0 + 256
    ∧ (portOf (withPort (fun h => { h with cxl := true }) up) 0).cxl = true := by
  unfold CohQuiet
  decide +kernel

-- objects ---------------------------------------------------------------------------------------------------------------

/-- A hub with a context, a memory object of 2 MiB, an event, a counter and a doorbell page of table 0. -/
def anEvent : Event :=
  { table := 0, ringObj := mkHandle 3 1 0, ringOff := 8192, size := 16, vector := 5, moderation := 1, dbPage := 0, dbSlot := 1, prod := 3, cons := 1,
    errRange := false, dropped := 0, ring := [], heldFrom := 3, lastMsg := none, msgDue := true, destroying := false, created := 0 }
def chan : Channel := { ctx := mkHandle 1 1 0, table := 0, kind := .device, port := .hp0, engine := 32, jobs := [], destroying := false, created := 0 }
def store (es : List QEntry) : State :=
  let s := objs es
  { s with
    obj := { s.obj with slots := [(slotKey 1 0, liveSlot), (slotKey 2 0, liveSlot), (slotKey 3 0, liveSlot), (slotKey 4 0, liveSlot),
                                  (slotKey 5 0, liveSlot), (slotKey 6 2, liveSlot), (slotKey 7 0, liveSlot)],
                        events := [(0, anEvent)], channels := [(0, chan)], pages := [(0, 0)], dbSlots := [(0, q0), (1, mkHandle 4 1 0)] }
    mem := { s.mem with rowLocal := 1 }
    tck := { s.tck with counters := [(2, { state := .live, value := 100, ctx := mkHandle 1 1 0 })] } }
def c2 : Handle := mkHandle 6 1 2
def e0 : Handle := mkHandle 4 1 0
def m0 : Handle := mkHandle 3 1 0
def x0 : Handle := mkHandle 1 1 0

theorem witness_ObjectsAreMade :
    regionStatus (store []) 0 m0 0 (2 ^ 20) = .ok ∧ regionStatus (store []) 0 m0 4096 (2 ^ 20) = .ok ∧ memOf (store []) m0 = some memObj
    ∧ memObj.kind = .device
    ∧ (∀ k ∈ [1, 2, 3, 4, 6, 7], (takeSlot (store []) k ((tenantOf (store []) 0).getD 0) 0).isSome = true)
    ∧ ctxStatus (store []) 0 x0 = .ok ∧ ringStatus (store []) 0 m0 65536 (64 * 128) = .ok ∧ ringStatus (store []) 0 m0 131072 (64 * 16) = .ok
    ∧ eventStatus (store []) 0 e0 = .ok ∧ dbStatus (store []) 0 0 2 = .ok ∧ ringSize 64 = true
    ∧ ((store []).obj.queues.filter (fun x => x.2.ctx = x0)).length < 1024
    ∧ (2 ^ 64 - 4096) % 4096 = 0 ∧ 2 ^ 64 - 4096 + 4096 ≤ 2 ^ 64
    ∧ deviceStatus (store []) 0 [(2 ^ 21, 2 ^ 21)] = .ok ∧ ringStatus (store []) 0 m0 131072 (64 * 32) = .ok
    ∧ 2 ^ 64 - 1 ≥ 2 ^ 64 - 1 ∧ 2 ^ 64 - 2 < 2 ^ 64 - 1 ∧ (4, ChanKind.device) ∈ [(1, ChanKind.hostIn), (2, .hostOut), (3, .peer), (4, .device)]
    := by decide +kernel

theorem rangeMap_get (v : SlotInfo) (i : Nat) : ∀ (n b : Nat), i < n → mapGet ((List.range' b n).map (fun k => (k, v))) (b + i) = some v := by
  induction i with
  | zero => intro n b h; cases n with
    | zero => omega
    | succ n => simp [List.range'_succ, mapGet]
  | succ i ih => intro n b h; cases n with
    | zero => omega
    | succ n =>
      have := ih n (b + 1) (by omega)
      rw [show b + 1 + i = b + (i + 1) by omega] at this
      simp [List.range'_succ, mapGet, this]

/-- A hub with the first n slots of contexts taken. -/
def taking (n : Nat) : State := { up with obj := { up.obj with slots := (List.range' (slotKey 1 0) n).map (fun i => (i, liveSlot)) } }

theorem taking_live (n i : Nat) (h : i < n) : (slotOf (taking n) 1 i).live = true := by
  have g := rangeMap_get liveSlot i n (slotKey 1 0) h
  rw [show slotKey 1 0 + i = slotKey 1 i by simp only [slotKey]; omega] at g
  unfold slotOf mapGetD taking
  simp only [g]
  rfl

theorem takeSlot_full (s : State) (k ten t : Nat) (h : ∀ i, i < kindLimit k → (slotOf s k i).live = true) : takeSlot s k ten t = none := by
  unfold takeSlot
  have e : (List.range (kindLimit k)).find? (fun i => (slotOf s k i).live = false) = none := by
    rw [List.find?_eq_none]
    intro i hi
    simp [h i (List.mem_range.mp hi)]
  rw [e]

/-- Creation with every slot of a kind taken. -/
theorem witness_ObjectsAreMade_full : takeSlot (taking (kindLimit 1)) 1 1 0 = none :=
  takeSlot_full _ _ _ _ (fun i h => taking_live _ i h)

theorem witness_ObjectsAreUsedAndEnd :
    up.bnd.asked.any (fun a => a.code = 0x80A && a.globalId = 9) = false ∧ globalOk 0 = false ∧ globalOk 9 = true ∧ slotOfGlobal up 9 = none
    ∧ (tableFill 9 2 0 0 up).isSome = true ∧ (tableFill 9 2 1 4095 up).isSome = true ∧ (slotOfGlobal up 7).isSome = true
    ∧ mapGet up.obj.pages 4095 = none ∧ mapGet (store []).obj.pages 0 = some 0 ∧ pageBound (store []) 0 = true
    ∧ mapGet (withBnd {} { up with obj := { up.obj with pages := [(0, 1)] } }).obj.pages 0 = some 1
    ∧ (let s : State := { up with obj := { up.obj with pages := [(0, 0)] } }
       mapGet s.obj.pages 0 = some 0 ∧ pageBound s 0 = false ∧ (s.obj.pages.map (fun x => x.1)).Pairwise (· < ·))
    ∧ ownedStatus (store []) 0 6 c2 = .ok ∧ mapGet (store []).tck.windows (0 * 128 + 127) = none ∧ ownedStatus (store []) 0 4 e0 = .ok
    ∧ (counterOf (store []) 2).state = .live ∧ (counterOf (store []) 2).mirror = none ∧ mapFree (store []).tck.mirrors 4096 = some 0
    ∧ (counterOf (store []) 2).value < 101 ∧ eventStatus (store []) 0 e0 = .ok
    ∧ (let s := store []
       let t : State := { s with tck := { s.tck with counters := [(2, { state := .live, mirror := some 0 })] } }
       ownedStatus t 0 6 c2 = .ok ∧ (counterOf t 2).mirror = some 0 ∧ (t.tck.mirrors.map (fun x => x.1)).Pairwise (· < ·))
    ∧ (∀ e ∈ [entry (.decided true .ok) .nop, entry (.decided false .aborted) .nop, entry .fetched .nop, entry .running .nop],
       let q := { que [e] with tail := 1 }
       let s : State := { store [] with obj := { (store []).obj with queues := [(0, q)] } }
       ownedStatus s 0 2 q0 = .ok ∧ queueOf s q0 = some q ∧ q.entries = [e] ∧ e.pos = 0 ∧ posMod / 2 ≤ posDist e.pos q.tail)
    ∧ anyHandle own (store []) x0 = .ok ∧ anyHandle op (store []) (mkHandle 5 1 0) = .ok ∧ hKind (mkHandle 5 1 0) = 5
    ∧ isOperator 4 = false ∧ isOperator 0 = true
    ∧ destroyReady (store []) e0 = true ∧ coreAnswers (store []) = true
    ∧ coreAnswers { store [] with mbx := { (store []).mbx with core := .restarting } } = false
    ∧ (let s := store [entry .running .nop]
       destroyReady { s with obj := { s.obj with queues := [(0, { que [entry .running .nop] with state := .destroying })] } } q0 = false)
    ∧ mapGet (store []).obj.events (hIdx e0) = some anEvent ∧ ((store []).obj.events.map (fun x => x.1)).Pairwise (· < ·) := by decide +kernel

-- queues ----------------------------------------------------------------------------------------------------------------

/-- A posted write of the host through window 0 that has not ended. -/
def hostTile : TileRec := { src := .hostWindow 0, table := 0, d := { row 0 64 with tag := 2 ^ 47, op := 2 }, data := [] }
def posting (s : State) : State := trnMod (fun r => { r with tiles := [hostTile] }) s

/-- A doorbell with position 1, one with a position of 17, and a consumer write of 3 and of 4. -/
theorem witness_QueuesFetchAndDispatch :
    (let s := store []
     barOpen s 0 = true ∧ postedGuards s 0 = [] ∧ ringFar s (que []) = none ∧ (que []).state ≠ .destroying
       ∧ barOpen (posting s) 0 = true ∧ postedGuards (posting s) 0 ≠ [] ∧ mapGet s.obj.pages 0 = some 0 ∧ mapGet s.obj.dbSlots 0 = some q0 ∧ queueOf s q0 = some (que []) ∧ hKind q0 = 2
       ∧ ringHost s (que []) = false ∧ bitsOf (0x80000001 : BitVec 32).toNat 30 17 = 0
       ∧ bitsOf (0x80000001 : BitVec 32).toNat 31 31 = b2n (phaseAt ((1 + posMod - 1) % posMod) 16) ∧ posDist 1 0 ≤ 16 ∧ 16 < posDist 17 0
       ∧ hKind e0 = 4 ∧ eventOf s e0 = some anEvent ∧ mapGet s.obj.dbSlots 1 = some e0 ∧ posDist 3 anEvent.cons ≤ posDist anEvent.prod anEvent.cons
       ∧ posDist anEvent.prod anEvent.cons < posDist 4 anEvent.cons ∧ mapGet s.obj.dbSlots 127 = none ∧ mapGet s.obj.pages 4095 = none
       ∧ fetchDue (que []) = false ∧ queueNow s q0 = true ∧ eventLive s e0 = true
       ∧ (que []).fetchPos < posMod ∧ (que []).retire < posMod ∧ (que []).err < 256 ∧ anEvent.prod < posMod)
    ∧ (let q := { que [] with tail := 1 }
       let s := store []
       let t : State := { s with obj := { s.obj with queues := [(0, q)] } }
       queueOf t q0 = some q ∧ queueNow t q0 = true ∧ fetchDue q = true)
    ∧ (let e := entry .fetched .nop
       let s := store [e]
       queueOf s q0 = some (que [e]) ∧ queueNow s q0 = true ∧ (que [e]).state = .active ∧ (que [e]).retryAt = none ∧ dispatchHeld s (que [e]) e = false
         ∧ e.d.waitCtr = 0 ∧ e.events = [] ∧ ringFar s (que [e]) = none)
    ∧ (let s := store [entry .fetched .nop]
       counterCheck s (some ((tenantOf s 0).getD 0)) c2 = .ok ∧ (counterOf s 2).value < 101 ∧ 101 ≤ (counterOf s 2).value + 2 ^ 62
         ∧ (waiterTake { counter := 2, gen := 1, target := 101, kind := .queue r0, ctx := x0, table := 0, registered := now s } s).isSome = true)
    := by decide +kernel

/-- Descriptors that a read of the ring gives: one with the phase bit and position of the queue, one with neither. -/
def fetching (b : List Byte) : State :=
  let s := store []
  devWrite 0 0 b { s with obj := { s.obj with queues := [(0, { que [] with tail := 1 })] } }
def fq : Queue := { que [] with tail := 1 }
def ringBytesOf (r : FetchRead) : List Byte := match r with
  | .bytes b => b
  | _ => []

theorem witness_QueuesFetchAndDispatch_fetch :
    (let s := fetching (leBytes 8 0x1040001)
     let b := ringBytesOf (ringRead s fq (.bytes []))
     b.length = 128 ∧ descMatches fq (descOf b) = true ∧ descNames (descOf b) = false ∧ fetchStatus s fq (descOf b) = .ok ∧ (descOf b).step = false
       ∧ ringFar s { fq with fetchPos := 1 } = none)
    ∧ (let s := fetching []
       let b := ringBytesOf (ringRead s fq (.bytes []))
       b.length = 128 ∧ descMatches fq (descOf b) = false) := by decide +kernel

def cpy : CopyBody := ⟨0x10000, 0x20000, 0, 0, 4096, 1, mkHandle 7 1 0, 0⟩
def seatC : FMap SeatEntry := [(10, { epoch := 1, node := 0, binding := 3, kind := .cluster, state := .bound })]
def launching (es : List QEntry) : State :=
  let s := store es
  { s with tables := [(0, { tbl with dir := seatC })], bnd := { s.bnd with seats := [(3, { epoch := 1, seat := 10, table := 0, state := .bound }),
      (120, { epoch := 1, seat := 11, table := 0, state := .bound })] }
           pwr := { s.pwr with cores := [(3, 3)] } }
def launchE (mask : Nat) : QEntry := entry .dispatched (.launch 10 mask 0x400 [])
def ran : Launched := ⟨4, 3, 0, 1, some r0, none, false, .launch 1 0x400 [], false⟩

theorem witness_CommandsRunAndRetire :
    (let e := entry .dispatched .nop
     queueOf (store [e]) r0.queue = some (que [e]) ∧ entryOf (store [e]) r0 = some e)
    ∧ (let s := store [entry .dispatched (.copy cpy)]
       checkOwned s ((tenantOf s 0).getD 0) 0 7 cpy.channel = .ok ∧ copyBad cpy = false ∧ chanOf s cpy.channel = some chan ∧ chan.destroying = false)
    ∧ (let s := launching [launchE 3]
       (dirEntry s 0 10).kind = .cluster ∧ (dirEntry s 0 10).epoch ≠ 0 ∧ (dirEntry s 0 10).state ≠ .free ∧ 0x400 % 4 = 0
         ∧ (dirEntry s 0 10).node = s.sys.nodeId ∧ seatTake s ((tenantOf s 0).getD 0) 10 (dirEntry s 0 10).epoch true = .takes 3
         ∧ (bindAt s 3).state = .bound
         ∧ (3 : Nat) &&& coresOn s 3 = 3 ∧ (∀ x ∈ s.obj.launched, x.tag ≠ s.obj.nextLaunch))
    ∧ ({ entry .running .nop with events := [.commit] }).isDecided = false
    ∧ (let e := entry (.decided true .ok) .nop
       let s := store [e]
       recordReady s (que [e]) r0 e = true ∧ objReachable s 0 (que [e]).cplObj = true)
    ∧ (let e := entry .running .nop
       recordReady (store [e]) (que [e]) r0 e = false)
    ∧ (let e := entry (.decided true .ok) .nop
       let s := store [e]
       let t : State := { s with obj := { s.obj with mems := [(0, { memObj with kind := .host, extents := [(0, 2 ^ 21)] })] } }
       objReachable t 0 (que [e]).cplObj = false ∧ recordReady t (que [e]) r0 e = true ∧ (que [e]).state = .active)
    ∧ (let s := store [entry .running .nop]
       let t : State := { s with obj := { s.obj with launched := [ran, { ran with tag := 5, ref := none, replyTo := some (3, 9) }] } }
       t.obj.launched.find? (fun l => l.tag = 4 && l.cluster = 3 && !l.waitCore) = some ran ∧ (entry .running .nop).isDecided = false
         ∧ t.obj.launched.find? (fun l => l.tag = 5 && l.cluster = 3 && !l.waitCore) = some { ran with tag := 5, ref := none, replyTo := some (3, 9) }
         ∧ (entry .running .nop).events = [] ∧ t.obj.doneWaits = [] ∧ (coresGuards t 3 ran.mask).any (guardStands t) = false
         ∧ (txOf t 3).kept.length < 4096 ∧ (txOf t 3).waiting = []
         ∧ (let w := trnMod (fun r => { r with tiles := [{ hostTile with src := .cf 3 0 }] }) t
            (coresGuards w 3 ran.mask).any (guardStands w) = true))
    := by decide +kernel

-- the host --------------------------------------------------------------------------------------------------------------

def hif (f : HifSt → HifSt) (s : State) : State := { s with hif := f s.hif }
def win0 (w : Bool) : State := hif (fun h => { h with win := [(1, { valid := true, write := w, va := 0, table := 0 })] }) mapped
def cxlHub : State := hif (fun h => { h with hdm := [(0, { valid := true, va := 0, table := 0 })] }) (withPort (fun h => { h with cxl := true })
  (trnMod (fun r => { r with tlb := r.tlb.map (fun e => { e with leaf := 633 }) }) mapped))
def cpyJob : CopyJob := ⟨r0, cpy, false, false, 0, 0, 0, false, false⟩
def copying (busy : Option Handle) (moved : Bool) : State :=
  let s := store [entry .running (.copy cpy)]
  hif (fun h => { h with ce := [(32, { busy := busy, moved := moved })] })
    { s with obj := { s.obj with channels := [(0, { chan with jobs := [cpyJob] })] } }
def drawn5 (s : State) : State := withSys (fun x => { x with anteHeld := [⟨5, 32, false, anteUnits 5, 0⟩] }) s

theorem witness_HostAccessesAndCopies :
    (let e := mapGetD (win0 true).hif.win ((0x1000FC0 : BitVec 30).toNat / 2 ^ 24) {}
     (portOf (win0 true) 0).state = .up ∧ (portOf (win0 true) 0).mse = true ∧ (0x1000FC0 : BitVec 30).toNat % 4096 + 64 ≤ 4096
       ∧ e.valid = true ∧ e.write = true)
    ∧ (mapGetD (win0 false).hif.win ((0x1000000 : BitVec 30).toNat / 2 ^ 24) {}).write = false
    ∧ (mapGetD up.hif.win ((0x3FFFFFC0 : BitVec 30).toNat / 2 ^ 24) {}).valid = false ∧ up.hif.errValid = false
    ∧ barOpen cxlHub 0 = true ∧ (portOf cxlHub 0).cxl = true ∧ (mapGetD cxlHub.hif.hdm 0 {}).valid = true ∧ (mapGetD up.hif.hdm 0 {}).valid = false
    ∧ (let t : TileRec := { hostTile with hdm := some .memRdAny }
       t.src = .hostWindow 0 ∧ t.hdm = some .memRdAny)
    ∧ portLinked up 0 = true ∧ (ceOf (copying none false) 32).busy = none
    ∧ chansTurn (copying none false) 32 = [(0, { chan with jobs := [cpyJob] })] ∧ chanHost { chan with jobs := [cpyJob] } = false
    ∧ anteHas (copying none false) 5 32 = false ∧ anteHas (drawn5 (copying none false)) 5 32 = true
    ∧ (let c : Channel := { chan with jobs := [cpyJob] }
       let s := drawn5 (copying none false)
       let w := ceMod 32 (fun x => { x with turn := 0, waitPort := false }) s
       copySuits (copyAccessor s 32 c cpyJob) c.kind cpyJob (2 * (copyTotal cpyJob.b / 4096 + 2) + cpyJob.b.rows) 0 w = true
         ∧ (match (burstSegs (copyAccessor s 32 c cpyJob) c.kind cpyJob 0 (min 65536 (copyTotal cpyJob.b)) w).1 with
            | .ok gs => segsLen gs == 4096
            | .error _ => false) = true)
    ∧ (ceOf (copying (some (mkHandle 7 1 0)) true) 32).busy = some (mkHandle 7 1 0)
    ∧ chanOf (copying (some (mkHandle 7 1 0)) true) (mkHandle 7 1 0) = some { chan with jobs := [cpyJob] }
    ∧ (ceOf (copying (some (mkHandle 7 1 0)) true) 32).moved = true
    ∧ accEnd (copying (some (mkHandle 7 1 0)) true) (.copyEngine 32) = some .ok
    ∧ (let s := copying (some (mkHandle 7 1 0)) true
       let t : State := { s with nme := { s.nme with pieces := [⟨.copyEngine 32, 1, 0, 0, 64, none⟩] } }
       accEnd t (.copyEngine 32) = none) := by decide +kernel

def flushRead : HostRead := ⟨9, 0, 0x7000, .flush, 1⟩
def ported (f : HostPort → HostPort) : State := withPort f mapped

theorem witness_PortsAndTranslations :
    mapped.trn.moves = [] ∧ mapped.obj.doneWaits = [] ∧ mapped.trn.unitWalks = [] ∧ readOf mapped 0 9 = none ∧ readOf (ported (fun h => { h with reads := [flushRead] })) 0 9 = some flushRead ∧ flushRead.what = .flush
    ∧ (let s := ported (fun h => { h with atsWait := [(5, .hostRead 0 0 0x5010 64 9)], priEnable := true })
       (portOf s 0).atsWait = [(5, .hostRead 0 0 0x5010 64 9)] ∧ 5 ∉ (portOf s 0).pageReqs ∧ (portOf s 0).priEnable = true
         ∧ (portOf s 0).pageReqs.length < 512 ∧ 5 ∉ (portOf s 0).pageWait ∧ portCarries s 0 = true)
    ∧ (let s := ported (fun h => { h with atsWait := [(5, .hostRead 0 0 0x5010 64 9)], priEnable := true, pageReqs := List.range' 6 512 })
       (portOf s 0).pageReqs.length = 512 ∧ 5 ∉ (portOf s 0).pageReqs ∧ 5 ∉ (portOf s 0).pageWait)
    ∧ 5 ∈ (portOf (ported (fun h => { h with pageReqs := [5] })) 0).pageReqs ∧ (portOf mapped 0).pageWait = []
    ∧ (portOf (ported (fun h => { h with atsEnable := true })) 0).atsEnable = true
    ∧ (let s := ported (fun h => { h with unconfirmed := [.write 0 0x7000 [1]] })
       (portOf s 0).unconfirmed.getLast? = some (.write 0 0x7000 [1]) ∧ portCarries s 0 = true ∧ (∀ r ∈ (portOf s 0).reads, r.what ≠ .flush))
    ∧ (portOf mapped 0).unconfirmed = []
    ∧ portCarries (portMod 0 (fun h => { h with mse := false, bme := false }) mapped) 0 = false
    ∧ (portOf (ported (fun h => { h with state := .d3hot })) 0).state = .d3hot ∧ (portOf mapped 0).state ≠ .down ∧ CohQuiet mapped
    ∧ mapped.coh.dir = [] ∧ mapped.trn.tiles = [] ∧ (portOf mapped 0).reads = []
    ∧ portTrains mapped (portOf (ported (fun h => { h with state := .training })) 0) = true
    ∧ portTrains mapped { portOf mapped 0 with state := .resetting, resetAt := 5999000 } = true
    ∧ portTrains mapped { portOf mapped 0 with state := .resetting, resetAt := 5999001 } = false ∧ 16 ∈ [1, 2, 4, 8, 16]
    ∧ 2 ^ 20 - 1 < 2 ^ 20 ∧ 2 ^ 20 ≥ 2 ^ 20
    ∧ (let s := ported (fun h => { h with state := .down })
       portCarries s 0 = false ∧ portCarries s 1 = false ∧ attachedTo s 0 0 = false)
    ∧ (let s := hif (fun h => { h with tbl := [(0, { att0 := true })] }) (ported (fun h => { h with state := .down }))
       attachedTo s 0 0 = true ∧ portCarries s 0 = false ∧ portCarries s 1 = false)
    ∧ winBusy mapped 63 = false ∧ (2 ^ 57 - 2 ^ 24) % 2 ^ 24 = 0 ∧ (2 ^ 57 - 2 ^ 30) % 2 ^ 30 = 0 := by
  unfold CohQuiet
  decide +kernel

def spdm (n : Nat) (ss : List (Nat × Bool)) : State :=
  { ported (fun h => { h with spdmStage := n, sessions := ss, ideKeyed := 1 }) with tables := [(0, { tbl with keyTenant := true })] }

theorem witness_SecureSessions :
    portLinked mapped 0 = true ∧ coreAnswers { mapped with mbx := { mapped.mbx with core := .restarting } } = false
    ∧ coreAnswers (withSys (fun x => { x with pllOut := 0x800 }) mapped) = false ∧ coreAnswers mapped = true
    ∧ 3 ≤ (portOf (spdm 3 []) 0).spdmStage ∧ (portOf (spdm 2 []) 0).spdmStage < 3
    ∧ (portOf (spdm 3 [(1, true), (2, true), (3, true)]) 0).sessions.length < 4
    ∧ 4 ≤ (portOf (spdm 3 [(1, true), (2, true), (3, true), (4, true)]) 0).sessions.length
    ∧ (1, false) ∈ (portOf (spdm 3 [(1, false)]) 0).sessions ∧ sessionUp (spdm 3 [(1, true)]) 0 1 = true ∧ sessionUp (spdm 3 [(1, false)]) 0 1 = false
    ∧ slotOfGlobal (spdm 3 []) 7 = some 0 ∧ tenantKeyStatus (spdm 3 [(1, true)]) 0 (some 1) 7 1 2 = .ok
    ∧ tenantKeyStatus (spdm 3 [(1, true)]) 0 (some 1) 7 1 1 = .range
    ∧ (portOf (spdm 3 []) 0).ideKeyed.getLsbD 0 = true := by decide +kernel

-- mailboxes and the control core ------------------------------------------------------------------------------------------

/-- LENGTH 31 and 1,793, a header LENGTH that does not fit, and one that just fits. -/
def area (seq len : Nat) : State :=
  { up with mbx := { up.mbx with area := [(0x104, BitVec.ofNat 8 seq), (0x108, BitVec.ofNat 8 len)] } }

theorem witness_GoOutOfRange : barOpen up 0 = true ∧ bitsOf (0x8000001F : BitVec 32).toNat 31 31 = 1 ∧ (boxOf up 0).busy = false
    ∧ bitsOf (0x8000001F : BitVec 32).toNat 10 0 < 32 ∧ 1792 < bitsOf (0x80000701 : BitVec 32).toNat 10 0
    ∧ bitsOf (0x80000020 : BitVec 32).toNat 10 0 < 32 + areaField (goArea (area 1 1) 0) 8 4
    ∧ postedGuards up 0 = [] := by decide +kernel

def req (op ver seq : Nat) : List Byte := leBytes 2 op ++ leBytes 1 ver ++ leBytes 1 0 ++ leBytes 4 seq ++ leBytes 4 0 ++ leBytes 4 0 ++ leBytes 16 0
def boxed (b : Mailbox) : State := { up with mbx := { up.mbx with boxes := [(0, { b with version := 4, busy := true, lastSeq := 5 })] } }

theorem witness_MailboxRequests :
    bitsOf (0x80000700 : BitVec 32).toNat 30 11 = 0 ∧ bitsOf (0x80000700 : BitVec 32).toNat 31 31 = 1
    ∧ bitsOf (0x80000700 : BitVec 32).toNat 10 0 ≤ 1792 ∧ 32 + areaField (goArea (area 1 1) 0) 8 4 ≤ bitsOf (0x80000021 : BitVec 32).toNat 10 0
    ∧ barOpen (posting up) 0 = true ∧ postedGuards (posting up) 0 ≠ [] ∧ coreRuns (boxed {}) = true ∧ (boxOf (boxed {}) 0).executing = false ∧ (boxOf (boxed {}) 0).early = false
    ∧ (let r := req 0x704 4 6
       fieldAt r 4 4 = 6 ∧ fieldAt r 0 2 ≠ 1 ∧ fieldAt r 2 1 = 4 ∧ (reqDecode (fieldAt r 0 2) ((r.drop 32).take (fieldAt r 8 4))).isSome = true)
    ∧ reqDecode (fieldAt (req 0x7FF 4 6) 0 2) (((req 0x7FF 4 6).drop 32).take 0) = none ∧ letterOk (boxed {}) 0 .ot = true
    ∧ (boxOf (boxed { stored := some ⟨0x704, .ok, 0, 5, 0, 0, []⟩ }) 0).stored = some ⟨0x704, .ok, 0, 5, 0, 0, []⟩
    ∧ fieldAt (req 0x704 4 7) 4 4 ≠ 5 ∧ fieldAt (req 0x704 4 7) 4 4 ≠ (5 + 1) % 2 ^ 32
    ∧ 0x10 / 16 % 2 = 1 ∧ 0x8 / 16 % 2 = 0 ∧ letterOk up 5 .ot = false ∧ letterOk up 0 .ot = true
    ∧ (boxOf up 5).version ≠ 4 ∧ (boxOf up 4).version = 4 ∧ letterOk up 4 .o = false
    ∧ 15 < 16 ∧ 16 ≤ 16 ∧ queryOwner op 0 (taken 0x002 0 up) = .ok
    ∧ checkHandle up none 5 (mkHandle 5 1 0) = .ok ∧ (boxOf up 63).busy = false
    ∧ (boxOf ({ up with mbx := { up.mbx with boxes := [(0, { version := 4 }), (4, { busy := true })] } } : State) 4).busy = true := by decide +kernel

def core (c : CoreState) (a : Option (Fin 64)) : State := { up with mbx := { up.mbx with core := c, activating := a, since := 0 } }
def dmp : Dump := ⟨1, 3, 0, 0, 0, 0, [1], 4096⟩

theorem witness_FirmwareAndDumps :
    [(1 : Byte)] ≠ [] ∧ (0 = 0 ∨ 0 = up.mbx.staged.length) ∧ 3 * 2 ^ 20 - 1 + [(1 : Byte)].length ≤ 3 * 2 ^ 20
    ∧ 3 * 2 ^ 20 < 3 * 2 ^ 20 + [(1 : Byte)].length ∧ (5 ≠ 0 ∧ 5 ≠ up.mbx.staged.length)
    ∧ (let b := leBytes 4 1 ++ leBytes 4 512 ++ leBytes 4 0 ++ leBytes 2 3 ++ List.replicate 498 0
       512 ≤ b.length ∧ fieldAt b 4 4 = b.length ∧ fieldAt b 0 4 = 1 ∧ up.sys.fuse.minSvn ≤ fieldAt b 12 2)
    ∧ CoreServes up ∧ Serving (core .handover none) ∧ (core .handover none).mbx.core = .handover
    ∧ (withSys (fun x => { x with time := 50000000 }) (core .handover none)).mbx.since + 50000000
        ≤ now (withSys (fun x => { x with time := 50000000 }) (core .handover none))
    ∧ now (core .handover none) < (core .handover none).mbx.since + 50000000 ∧ coreExecutes (core .restarting none) = true
    ∧ coreBooting { cold .controlCore with mbx := { up.mbx with core := .romBoot } } = true ∧ pllOn (cold .controlCore) 11 = true
    ∧ now (withSys (fun x => { x with time := 50000000 }) (core .handover (some 4))) ≤ (core .handover (some 4)).mbx.since + 50000000
    ∧ (core .handover (some 4)).mbx.since + 50000000 < now (withSys (fun x => { x with time := 50000001 }) (core .handover (some 4)))
    ∧ pllOn up 11 = true ∧ (∀ x ∈ (core .restarting none).mbx.boxes, x.2.owed = none)
    ∧ (core .restarting none).mbx.core = .restarting ∧ ((core .restarting none).irq.tgts.map (fun x => x.1)).Pairwise (· < ·)
    ∧ (core .handover (some 4)).mbx.activating = some 4
    ∧ mapGet up.mbx.dumps 3 = none
    ∧ (let s : State := { up with mbx := { up.mbx with dumps := [(3, dmp)] } }
       mapGet s.mbx.dumps 3 = some dmp ∧ 4095 + 1 ≤ dmp.length ∧ dmp.length < 4096 + 1 ∧ (s.mbx.dumps.map (fun x => x.1)).Pairwise (· < ·))
    ∧ 60000 ≤ 60000 ∧ 60000 < 60001 ∧ 16384 ≤ 16384 ∧ 96 ≤ 96 ∧ 96 < 97 := by
  unfold CoreServes Serving
  decide +kernel

-- serving steps, the hand and power ---------------------------------------------------------------------------------------

def stepping (x : StepPart) (lead : Nat) : State :=
  { mapped with tables := [(0, { tbl with step := x, lead := lead, members := [0, 3] })] }
def opened : StepPart := { last := 4, isOpen := true, state := .open_ }
def parkedCx : Ctx := { cx with state := .parked }
def hbHub : State :=
  let s := backed [] []
  { s with tables := [(0, tbl)] }

/-- A step 5 to open at the lead hub with a counter below its value, and at a member; kills of step 4, of a committed one and of another. -/
theorem witness_StepsRun :
    (let s := store []
     let b : StepBody := ⟨1, c2, 101, []⟩
     tableAt s 0 = some tbl ∧ tbl.lead = s.sys.nodeId ∧ b.commitCtr ≠ 0 ∧ checkOwned s tbl.tenant 0 6 b.commitCtr = .ok
       ∧ counterCheck s (some tbl.tenant) b.commitCtr ≠ .lost ∧ (counterOf s (hIdx b.commitCtr)).value < b.commitValue
       ∧ b.step = tbl.step.last + 1 ∧ tbl.step.onHold = false ∧ 2 ≠ tbl.step.last + 1)
    ∧ (tableAt (stepping { last := 4, onHold := true } 3) 0).map (fun tb => (decide (tb.lead ≠ 0), tb.step.last + 1, tb.step.onHold)) = some (true, 5, true)
    ∧ killStatus { tbl with step := opened } 4 = .ok ∧ killStatus { tbl with step := { opened with state := .committed } } 4 = .alreadyComplete
    ∧ killStatus { tbl with step := opened } 3 = .gone ∧ OnTable (stepping opened 3) own 0 ∧ Takes (stepping opened 3) 4 .ot
    ∧ slotOfGlobal (stepping opened 3) 9 = none ∧ slotOfGlobal (stepping opened 3) 7 = some 0
    ∧ ((tableAt (stepping opened 3) 0).map (fun tb => (decide (3 ∈ membersOf tb), decide (5 ∈ membersOf tb)))) = some (true, false)
    ∧ (got 5 (stepping opened 3)).tables = (stepping opened 3).tables
    ∧ (tableAt (got 3 (stepping opened 3)) 0).map (fun tb => (decide (tb.lead = 0), tb.step.last, tb.step.isOpen)) = some (false, 4, true)
    ∧ (tableAt (got 3 (stepping opened 0)) 0).map (fun tb => decide (tb.lead = 0)) = some true
    ∧ ctxsOfTable up 0 = [] ∧ hasLost up 0 = false
    ∧ hasLost ({ objs [] with obj := { (objs []).obj with ctxs := [(0, { cx with state := .lost })] } }) 0 = true
    ∧ (tableAt (stepping { opened with onHold := true } 0) 0).map (fun tb => (tb.step.onHold, membersOf tb)) = some (true, [0, 3])
    ∧ (∀ n ∈ membersOf tbl, n = up.sys.nodeId)
    ∧ ctxOf ({ objs [] with obj := { (objs []).obj with ctxs := [(0, parkedCx)] } }) x0 = some parkedCx ∧ parkedCx.state = .parked
    ∧ (hbRange hbHub 0 0x10000000 131072).isSome = true ∧ hbRange hbHub 0 0x10000000 196608 = none
    ∧ (hbHub.obj.mems.map (fun x => x.1)).Pairwise (· < ·) ∧ Takes hbHub 4 .t ∧ OnTable hbHub own 0 := by
  unfold OnTable Takes CoreServes
  decide +kernel

def body : ModelBody := ⟨0x40000000, 2 ^ 21, 1, mkHandle 3 1 2, 0⟩
def model (st : ModelState) (pins : Nat) : Model :=
  { table := 0, b := body, state := st, blocks := [], pins := pins, lastUse := 0, loadFor := [4], again := false, discardFor := [], destroying := false,
    created := 0 }

/-- Table 0 with a hand of one block, a model, and level-2 tables for the model's addresses. -/
def dealt (ms : FMap Model) : State :=
  let s := store []
  devWrite 0 12288 (leBytes 8 (16384 + 1)) (devWrite 0 (12288 + 8) (leBytes 8 (16384 + 1)) (devWrite 0 8192 (leBytes 8 (12288 + 1))
    (devWrite 0 4096 (leBytes 8 (8192 + 1))
      { s with
        tables := [(0, { tbl with root := some (1, false), hand := m0 })]
        obj := { s.obj with slots := s.obj.slots ++ [(slotKey 8 0, liveSlot)], models := ms,
                            mems := [(0, memObj), (2, { memObj with kind := .host, extents := [(0, 2 ^ 22)] })] } })))
def dealt3 (ms : FMap Model) : State :=
  let s := dealt ms
  { s with obj := { s.obj with slots := mapPut s.obj.slots (slotKey 3 2) liveSlot } }
def d0 : Handle := mkHandle 8 1 0
def checkGives (r : Except Status Nat) (i : Nat) : Bool := match r with
  | .ok k => k = i
  | .error _ => false
def checkFails (r : Except Status Nat) : Option Status := match r with
  | .ok _ => none
  | .error st => some st

theorem witness_HandRuns :
    checkOwned (store []) tbl.tenant 0 3 m0 = .ok ∧ memOf (store []) m0 = some memObj ∧ memObj.state = .live ∧ memObj.kind = .device
    ∧ (∀ x ∈ memObj.extents, x.1 % 2 ^ 21 = 0 ∧ x.2 % 2 ^ 21 = 0) ∧ checkOwned (store []) tbl.tenant 0 3 (mkHandle 3 1 9) ≠ .ok
    ∧ memOf (dealt3 []) (mkHandle 3 1 2) = some { memObj with kind := .host, extents := [(0, 2 ^ 22)] }
    ∧ backingStatus (dealt3 []) 0 body = .ok ∧ body.va % 2 ^ 21 = 0 ∧ body.va + body.size ≤ 2 ^ 57 ∧ (∀ x ∈ (dealt3 []).obj.mems, x.2.hb = none)
    ∧ (∀ x ∈ (dealt3 []).obj.models, x.2.table ≠ 0) ∧ (levelTwo (dealt3 []) 0 (1 * 2 ^ 30)).isSome = true
    ∧ (takeSlot (dealt3 []) 8 ((tenantOf (dealt3 []) 0).getD 0) 0).isSome = true
    ∧ checkFails (modelCheck up 0 d0) = some .gone
    ∧ (∀ st ∈ [ModelState.resident, .loading, .discarding, .discarded], checkGives (modelCheck (dealt3 [(0, model st 0)]) 0 d0) 0 = true)
    ∧ (let s := dealt3 [(0, model .discarded 0)]
       (model .discarded 0).b.size / 2 ^ 21 ≤ (handFree s 0).length ∧ (s.obj.models.map (fun x => x.1)).Pairwise (· < ·)
         ∧ ∀ x ∈ s.obj.models, modelWaits x.2 = false)
    ∧ modelVictim (dealt3 []) 0 (model .resident 0) = true ∧ modelVictim (dealt3 []) 0 (model .resident 1) = false
    ∧ (model .resident 254).pins < 255 ∧ 255 ≤ (model .resident 255).pins
    ∧ (let m := { model .loading 0 with blocks := [0] }
       let s := dealt3 [(0, m)]
       mapGet s.obj.models (hIdx d0) = some m ∧ modelHandle s (hIdx d0) = d0 ∧ m.blocks ≠ [] ∧ (∀ x ∈ s.obj.models, modelWaits x.2 = false)
         ∧ modelEntries s m = [] ∧ coreAnswers s = true ∧ (copyTake (modelInst (hIdx d0)) false s).1 = true
         ∧ (copyTake (modelInst (hIdx d0)) false (withSys (fun x => { x with anteWait := [⟨1, 0, false, 9999, 0⟩] }) s)).1 = false)
    ∧ modelVictim (dealt3 []) 0 (model .discarding 0) = false := by decide +kernel

/-- Data of a model's size. -/
theorem witness_HandRuns_data : (List.replicate (2 ^ 21) (0 : Byte)).length = body.size := by
  rw [List.length_replicate]
  rfl

def pwr (f : PwrSt → PwrSt) (s : State) : State := { s with pwr := f s.pwr }

theorem witness_PowerRuns :
    400 ≤ 400 ∧ 2000 ≤ 2000 ∧ 10000 ≤ 10000 ∧ (up.pwr.sensors.map (fun z => z.1)).Pairwise (· < ·) ∧ 4095 ≤ 4095 ∧ 1023 ≤ 1023
    ∧ up.pwr.lastWindow / 10000 < now up / 10000 ∧ now up / 10000 ≤ (pwr (fun p => { p with lastWindow := 6000000 }) up).pwr.lastWindow / 10000
    ∧ pwrConfigured up = false
    ∧ (let s := pwr (fun p => { p with compute := 1, allowance := 0, rate := 0 }) up
       s.pwr.compute > s.pwr.allowance ∧ s.pwr.rate = 0 ∧ s.pwr.distrust = false ∧ s.pwr.mode = false)
    ∧ (let s := withSys (fun x => { x with anteLimit := 380 }) (pwr (fun p => { p with cap := 16000, lowWindows := 3, rate := 3 }) up)
       s.pwr.compute ≤ s.pwr.allowance ∧ 0 * 100 < 95 * s.pwr.cap ∧ 3 ≤ s.pwr.lowWindows ∧ s.sys.anteLimit < 1520 ∧ s.pwr.rate < 15)
    ∧ 1520 ≤ up.sys.anteLimit ∧ 95 * up.pwr.cap ≤ 15200 * 100
    ∧ (let s := pwr (fun p => { p with mode := true, phaseNow := 5, sensors := [(0, { cls := .compute })] }) up
       s.pwr.mode = true ∧ phaseOf s (now s) ≠ s.pwr.phaseNow ∧ pwrConfigured s = true)
    ∧ (let s := pwr (fun p => { p with onAsked := [(3, 1)] }) seated
       (bindAt s 3).state = .bound ∧ (1 : BitVec 64).toNat = mapGetD s.pwr.onAsked 3 0 ∧ mapGetD s.pwr.onGranted 3 0 = 0 ∧ s.pwr.deferred = []
         ∧ pwrAdmits s 1 = true)
    ∧ (let s := pwr (fun p => { p with onGranted := [(3, 1)] }) up
       mapGetD s.pwr.onGranted 3 0 ≠ 0 ∧ (∀ l ∈ s.obj.launched, l.cluster ≠ 3 ∨ l.waitCore = false)
         ∧ (s.pwr.onGranted.map (fun x => x.1)).Pairwise (· < ·))
    ∧ coreIdleDue up 3 0 = false
    ∧ (let s := pwr (fun p => { p with cores := [(3, 1)], idleSince := [(192, 5990000)] }) up
       coreIdleDue s 3 0 = true ∧ (s.pwr.cores.map (fun x => x.1)).Pairwise (· < ·)) := by decide +kernel

/-- PWR defers a core where sensors are configured, 512 cores are on and nothing is left of the allowance. -/
theorem witness_PowerRuns_deferral :
    (let s := pwr (fun p => { p with onAsked := [(3, 1)], sensors := [(0, { cls := .compute })],
                                     cores := (List.range 8).map (fun k => (k + 10, 2 ^ 64 - 1)) }) seated
     pwrAdmits s 1 = false ∧ (bindAt s 3).state = .bound) := by decide +kernel

-- worked examples of the spec -------------------------------------------------------------------------------------------

/-- Chapter 5, "decoding one address": PA 0x08_1234_5678 lies on stack 4 at stack-local 0x8123_5678, the next granule on stack 5, and in
STACK_LOCAL mode on stack 0 at 0x1234_5678. -/
theorem test_decode_address :
    locate up 0x0812345678 = ⟨4, 2, 0x1235678⟩ ∧ locate up 0x0812355678 = ⟨5, 2, 0x1235678⟩
    ∧ locate { up with mem := { up.mem with rowLocal := 4 } } 0x0812345678 = ⟨0, 2, 0x12345678⟩ := by decide +kernel

/-- R227 with the tweak of the example of R186: node 5, stack 4, slab 2, codeblock 0x48D5. -/
theorem test_forward_location : fwdAddr 5 4 2 0x1235678 % 2 ^ 42 = 0x1502048D5 := by decide +kernel

/-- Chapter 8, "appending a token": one group of MXFP8 E4M3 with amax 3.25; the scale byte is 0x78, and a tie of no element matters. -/
theorem test_append_group :
    (let g := quantGroup 0x11 ((([0x4050, 0xBDCD, 0x3A83, 0x3728] : List Nat).map (elemNum 4)) ++ List.replicate 28 (elemNum 4 0))
     g.1 = 0x78 ∧ g.2.take 4 = [0x7D, 0xD5, 0x20, 0x01]) := by decide +kernel

/-- Chapter 8, "top-3 over two shards", shard A: the NaN is dropped, and of equal values the lower index comes first. -/
def shardA : List Byte :=
  ((([0x3FC00000, 0xC0000000, 0x40880000, 0x7FC00000, 0x40880000, 0, 0x40400000, 0xFF800000, 0x40300000, 0x80000000] : List Nat).map
    (leBytes 4)).flatten)
theorem test_topk_shard :
    candTop 3 (rowCandidates 5 10 0x10000 shardA) = [(0x40880000, 0x10002), (0x40880000, 0x10004), (0x40400000, 0x10006)] := by decide +kernel

/-- The second row of the same example: three values tie at 4.25 and the lowest indices win, whichever shard is listed first. -/
theorem test_topk_shards :
    (let a : List Candidate := [(0x40880000, 0x10002), (0x40880000, 0x10004), (0x40400000, 0x10006)]
     let b : List Candidate := [(0x40A00000, 0x100), (0x40880000, 7), (0x3F800000, 9)]
     candTop 3 (a ++ b) = [(0x40A00000, 0x100), (0x40880000, 7), (0x40880000, 0x10002)] ∧ candTop 3 (b ++ a) = candTop 3 (a ++ b)) := by
  decide +kernel

/-- Chapter 3, the worked tile: 6,144-byte rows from 0x800 into a page split into 2 KiB and a full page. -/
theorem test_tile_index : vaIndex 0x4020E800 3 = 1 ∧ vaIndex 0x4020E800 2 = 1 ∧ vaIndex 0x4020E800 1 = 14 ∧ vaIndex 0x4020E800 5 = 0 := by
  decide +kernel

/-- Chapter 14, "a cap and a burst": a core's power in microwatts at codes 15, 14, 13 and 12, in sixty-fourths. -/
theorem test_core_power :
    140000 * rateShare 15 = 140000 * 64 ∧ 140000 * rateShare 14 = 133437500 / 1000 * 64 + 32 ∧ 140000 * rateShare 13 = 126875 * 64 := by
  decide

/-- Chapter 15, "a lost raise and a spurious claim": a claim gives the source and disarms; with the source's bit cleared it gives 1,023. -/
theorem test_claim : (claim 1 (pend 1)).1 = 48 ∧ (claim 1 { up with irq := { tgts := [(1, { valid := true, armed := true })] } }).1 = 1023
    ∧ (irqTgtOf (claim 1 { up with irq := { tgts := [(1, { valid := true, armed := true })] } }).2 1).armed = false := by decide +kernel

/-- R463: each capability leads to the next one of its list, the lists end at 0x090 and 0x460, and no structure reaches into another; the
Jendoza DVSEC fills its 0x18 bytes from 0x3D0 with its header of 10. -/
theorem test_capability_lists :
    (∀ x ∈ capabilities.zip (capabilities.drop 1), (x.1.next = x.2.offset ∨ (x.1.next = 0 ∧ x.1.offset = 0x090 ∧ x.2.offset = 0x100))
      ∧ x.1.offset + x.1.size ≤ x.2.offset)
    ∧ capabilities.getLast?.map (fun c => (c.offset, c.next)) = some (0x460, 0) ∧ (dvsecBytes up 1).length + 10 = 0x18
    ∧ (dvsecBytes up 1).take 2 = [1, 0] := by decide +kernel

-- one step each ---------------------------------------------------------------------------------------------------------

/-- The state after a command. -/
def after (r : Result) : State := match r with
  | .next t => t
  | _ => {}

/-- R592, R593: the control core's phase takes the node ID from the fuses. -/
theorem test_node_id : (after (exec .controlCorePhase { cold .controlCore with sys := { phase := .controlCore, fuse := { nodeId := 5 } } })).sys.nodeId = 5 := by
  decide +kernel

/-- R355: a SIGNAL_ADD of 1 takes a counter from 11 to 12; at its largest value a sum saturates or fails by the rule of R333. -/
theorem test_signal_add :
    (counterOf (after (exec (.signalAdd (creq 1)) ctr)) 2).value = 101
    ∧ (counterOf (after (exec (.signalMax (creq 7)) ctr)) 2).value = 100 := by decide +kernel

/-- R518, R519: HELLO agrees version 4 in a mailbox of the operator, and its answer is OK. -/
theorem test_hello : (boxOf (after (exec (.gararnHello op 0x10) { up with mbx := { up.mbx with boxes := [(0, {})] } })) 0).version = 4 := by
  decide +kernel

/-- R529: POWER_CAP in watts becomes the cap of the next window, in units of 0.125 W. -/
theorem test_power_cap : (after (exec (.powerCap op 1500) up)).pwr.capNext = 12000 ∧ (after (exec (.powerCap op 1500) up)).pwr.cap = 16000 := by
  decide +kernel

/-- R194, R198: what a write puts into a codeblock a read of it gives, the mask in the merge buffer and all. -/
theorem test_write_read :
    (let s := after (exec (.memoryWrite (mreq 4 2) [1, 2]) up)
     (devRead s 0 3 4) = (.ok, [0, 1, 2, 0])) := by decide +kernel

/-- R24: a pulse of 99 ns changes nothing and one of 100 ns starts the cold-start sequence. -/
theorem test_cold_reset : (after (exec (.coldReset 99) up)).sys.phase = .released ∧ (after (exec (.coldReset 100) up)).sys.phase = .fuses := by
  decide +kernel

/-- The front of the queue is what a step runs, and the queue keeps its order. -/
theorem test_queue : (after (step { up with pending := [.coldReset 1, .anteGrant, .release] })).pending = [.anteGrant, .release] := by
  decide +kernel

-- terms that no sender can spell ----------------------------------------------------------------------------------------

/-- Records with one field outside its width. -/
def badCaller : Caller := ⟨0, 2 ^ 32⟩
def badRef : CmdRef := ⟨2 ^ 32, 0⟩
def badPkt : Packet := { src := 4096, tenant := 0, type := 0 }
def badMsg : CohMsg := { agent := 256, line := 0 }
def badReseat : ReseatBody := ⟨0, 0, 4, 0, 0, 0, 0⟩
def okReseat : ReseatBody := ⟨0, 0, 1, 0, 0, 0, 0⟩

theorem test_wf_records :
    FuseWords.wf { chkSlabs := 32 } = false ∧ Caller.wf badCaller = false ∧ TileDesc.wf (row (2 ^ 64) 64) = false ∧ CmdRef.wf badRef = false
    ∧ ReseatBody.wf badReseat = false ∧ SeatEntry.wf { epoch := 65536 } = false ∧ Packet.wf badPkt = false
    ∧ Flit.wf { aFlit with slots := 15 } = false ∧ CohMsg.wf badMsg = false ∧ CtrReq.wf (creq (2 ^ 64)) = false
    ∧ MemReq.wf (mreq 0 4097) = false ∧ MemReq.wf ⟨some 256, 0, 1, 0⟩ = false ∧ MemReq.wf ⟨none, 2 ^ 40, 1, 0⟩ = false
    ∧ SubCmd.wf (.attnPart 65536 0 aPool 0 0 0 0 0 0 []) = false ∧ SubCmd.wf (.queryPiece 0 65536 []) = false
    ∧ SubCmd.wf (.attnCancel 0 (2 ^ 32)) = false ∧ SubCmd.wf (.launch (2 ^ 64) 0 []) = false ∧ Decoded.wf (.corrected 48 1) = false
    ∧ Decoded.wf (.corrected 0 97) = false ∧ CtrlFrom.wf (from_ 4096) = false ∧ CtrlFrom.wf ⟨0, 2 ^ 32⟩ = false := by decide

theorem test_wf_hub :
    [Instr.fusesPhase { chkSlabs := 32 }, .stacksPhase 0 0 [⟨16, 0⟩], .stacksPhase 0 0 [⟨0, 2 ^ 26⟩], .bar0BadAccess 0 0 65536 false, .time 0 (2 ^ 64) .free,
     .anteDrawRequest 0 0 false, .anteRelease 10 0, .anteWithdraw 0 0, .fabricAdmit 256 0 0 true].all (fun i => !i.wellFormed) = true := by decide

theorem test_wf_seats :
    [Instr.reseat badCaller okReseat, .reseat op badReseat, .reseatFwd (from_ 4096) okReseat, .prepare (from_ 0) ⟨badReseat, 0, {}, 0⟩,
     .prepareAnswer (from_ 0) 0 ⟨65536, 0⟩ .ok, .prepareAnswer (from_ 0) 0 ⟨0, 65536⟩ .ok, .reseatDecisionDeadline (2 ^ 32) 0,
     .decision (from_ 4096) 0 ⟨0, 0⟩ true, .decision (from_ 0) 0 ⟨0, 65536⟩ true, .status (from_ 0) 0 ⟨65536, 0⟩, .switched (from_ 0) 0 0 0 65536,
     .cmd 0 badPkt (.attnCancel 0 0), .staleAnswer (2 ^ 32), .staleResendDelay (2 ^ 32), .resolve (.ask (from_ 4096) 0 ⟨0, 0⟩),
     .resolve (.answer (from_ 0) 0 0 { epoch := 65536 }), .granuleCopy 65536 [], .granuleCopy 0 [(64, .clean)],
     .granuleCopy 0 [(0, .corrected 48 1)], .aliasRelease op 65536].all (fun i => !i.wellFormed) = true := by decide

theorem test_wf_translation :
    [Instr.tile (.cf 0 0) 0 (row (2 ^ 64) 64) [], .pieceComplete (.cf 0 0) (2 ^ 32) 0 .ok [], .invalidate badRef, .gararnInvalidate op (2 ^ 64) 0,
     .microTlbAck (2 ^ 32) 0, .shootdownDrainEnd (2 ^ 32), .shootdownAckTimeout (2 ^ 32) 0, .setRoot op (2 ^ 64) false,
     .faultCamLookup { flt with va := 2 ^ 57 }, .faultRingSet op (2 ^ 32) 0 0, .faultResolve op (2 ^ 64), .faultFail op (2 ^ 64),
     .waitRestoreRetry (2 ^ 32), .hostbackSet op { hbBody with readers := List.replicate 9 0 }, .hostbackClear op (2 ^ 32), .advise badRef,
     .backgroundAction (2 ^ 32), .prefetch badRef, .blockMoveCopyDone (2 ^ 32) 0 .ok [], .faultForward (from_ 4096) 0 0].all
       (fun i => !i.wellFormed) = true := by decide

theorem test_wf_memory :
    [Instr.retrain op 256 0, .rowMode op 256 0, .slabClass op 0 256 0, .memoryRead (mreq 0 4097) .clean, .memoryWrite (mreq 0 2) [1],
     .memoryAtomic (mreq 0 8) 256 [], .mergeEntryTimeout 0 (2 ^ 36) .clean, .mergeFlush 0 0 (.corrected 48 1),
     .scrub op ⟨1, 65536, 1, 500, false⟩, .scrubSlice [(0, .corrected 48 1)], .softSpare 0 (2 ^ 26) [], .softSpare 0 0 [.corrected 48 1],
     .keyEraseEnd 1024].all
       (fun i => !i.wellFormed) = true := by decide

theorem test_wf_links :
    [Instr.hello 0 ⟨65536, false, 0, 0, 0⟩, .echo 0 (2 ^ 31), .echoReply 0 (2 ^ 31), .flitReceive 0 { aFlit with slots := 15 } [], .rd 0 badPkt,
     .atomic 0 badPkt, .wr 0 badPkt, .rdData badPkt, .cmpl badPkt, .e2eAck 4096 0, .e2eAckTimer 4096, .e2eReplayTimeout 4096, .e2eGiveup 0 (2 ^ 32),
     .e2eSkip 0 (2 ^ 32), .sigApplyHeld 4096, .ctrl 0 (from_ 4096) 0 0 0 .ok 0, .ctrl 0 (from_ 0) 0 0 0 .ok (2 ^ 32), .join (from_ 4096) 0 0, .routeSet op 0 [{ port := 16 }], .linkDisable op 256 false,
     .linkEnable op 256 false, .linkRetrain op 256 false, .e2eCfg op (2 ^ 32) 1].all (fun i => !i.wellFormed) = true := by decide

theorem test_wf_engines :
    [Instr.attnDecode badRef, .attnPart 0 badPkt (.attnCancel 0 0), .queryPiece 0 badPkt (.attnCancel 0 0), .attnCancel 0 badPkt (.attnCancel 0 0),
     .subcmdResend (2 ^ 32), .foldPiece ⟨65536, 0, 0⟩, .partial_ 0 badPkt, .nmeSelftest op 256].all (fun i => !i.wellFormed) = true := by decide

theorem test_wf_counters :
    [Instr.signalAdd (creq (2 ^ 64)), .signalMax (creq (2 ^ 64)), .read (creq (2 ^ 64)), .waitGe (creq (2 ^ 64)), .queueWaitRetry (2 ^ 32),
     .sigAdd 0 badPkt, .sigMax 0 badPkt, .sigRead 0 badPkt, .sigAns aPkt (2 ^ 64), .mirrorWrite 4096, .contextSave (2 ^ 32),
     .renegeReport (from_ 4096) 0].all (fun i => !i.wellFormed) = true := by decide

theorem test_wf_coherence :
    [Instr.rdShared badMsg, .rdOwn badMsg, .upgrade badMsg, .rdNa badMsg, .wb badMsg, .evictClean badMsg, .wrNa badMsg, .atomH badMsg, .snpData badMsg,
     .snpInv badMsg, .snpCur badMsg, .snpRsp 256 (msg 0), .data badMsg, .grant badMsg, .ack badMsg, .wbAck badMsg,
     .hdmDbMessage 0 (2 ^ 30) .memRdAny 0, .snoopTimeout 0 256, .hostSnoop 0 (2 ^ 57)].all (fun i => !i.wellFormed) = true := by decide

theorem test_wf_objects :
    [Instr.tableCreate op (2 ^ 32) 0 0 0, .ctxCreate op (2 ^ 32) 0, .queueCreate op ⟨0, 64, 0, 0, 0, 0, 65536, 0, 0, 0⟩, .memCreate op 256 [],
     .eventCreate op ⟨0, 64, 0, 65536, 0, 0, 0⟩, .counterCreate op 0 (2 ^ 64), .channelCreate op 0 256 0, .destroy op (2 ^ 32),
     .destroyComplete (2 ^ 32), .objInfo op (2 ^ 32), .cmdAbort op 0 0 65536, .dbPage op 65536, .dbPageRelease op 65536, .dbCounter op 0 65536 0,
     .mirrorSet op ⟨0, 0, 2 ^ 64, 0, 0⟩, .mirrorDetach op (2 ^ 32), .tableEventSet op 0 256, .descriptorFetch 0 (.bytes []),
     .descriptorReread 0 (.bytes []), .dispatch (2 ^ 32), .nop badRef, .copy badRef, .fill badRef, .launch badRef, .done 0 .ok (2 ^ 32) 0,
     .commandCommit badRef, .completionWrite badRef, .msixModerationExpiry (2 ^ 32)].all (fun i => !i.wellFormed) = true := by decide

theorem test_wf_host :
    [Instr.bar2Request 0 0 true 4 [] false 0, .hdmRequest 0 0 false [] 65536, .hostReadCompletion 0 65536 .ur, .completionTimeout 0 65536,
     .translationCompletion 0 (2 ^ 52) .deniedAccess, .pageRequestResponse 0 (2 ^ 52) .success, .atsInvalidate 0 0 0 32, .ideKm 0 (2 ^ 32) 0,
     .getCertificate 0 256, .finish 0 (2 ^ 32), .keyUpdate 0 (2 ^ 32), .heartbeat 0 (2 ^ 32), .endSession 0 (2 ^ 32), .tenantKey 0 none (2 ^ 32) 0 0,
     .attach op 0 (2 ^ 20), .hostPort op 256, .windowSet op 65536 false false 0, .hdmSet op 256 false false 0, .portCfg op 0 256 0,
     .hostLinkUp 0 false 16 0, .memoryObjectRefillEnd (2 ^ 32), .doeDiscovery 0 256].all (fun i => !i.wellFormed) = true := by decide

theorem test_wf_control :
    [Instr.gararnHello op 65536, .query op 65536 0, .mbxAssign op 256 0, .fwStage op (2 ^ 32) [], .fwActivate badCaller true true true,
     .dumpRead op 256 0 1, .dumpClear op 256, .dumpTake op 256, .renegeSet op (2 ^ 32), .waitQuota op (2 ^ 32), .walkLimit op (2 ^ 32),
     .coreRestart true [256] [], .coreRestart true [] [64]].all (fun i => !i.wellFormed) = true := by decide

theorem test_wf_serving :
    [Instr.stepOpen op ⟨2 ^ 32, 0, 0, []⟩, .stepKill op 0 256, .stepAbort (from_ 4096) 0 0 0, .stepStatus op (2 ^ 64), .preempt badCaller, .resume badCaller,
     .publish op 0 0 256, .handSet op (2 ^ 32), .modelCreate op { body with backingKind := 256 }, .modelLoad op (2 ^ 32), .modelLoadDone (2 ^ 32) true [],
     .modelDiscard op (2 ^ 32), .modelPin op (2 ^ 32), .modelUnpin op (2 ^ 32), .powerCap op (2 ^ 32), .powerMode op 256 0, .powerClear badCaller,
     .sensorCfg op 256 0 0 0, .powerCore op (2 ^ 32) 0].all (fun i => !i.wellFormed) = true := by decide

/-- A hub whose directory has one holder of line 3. -/
def heldHub : State := { State.reset with coh := { State.reset.coh with dir := [(3, { presence := [5], state := .s })] } }

/-- A non-coherent write of a line that a cache holds leaves that line free, and of one that no cache holds none (R379). -/
theorem test_held_line_loosened :
    heldLines heldHub 700 69 = [3] ∧ heldLines heldHub 512 256 = [] ∧ heldLines heldHub 1024 1 = [] := by decide

end Sys2Proof.Tests
end

section
/-! SUPPORT. The hub's fixed identity word and its cold reset. -/

namespace Sys2Proof.Machine

-- the identity word (R49) -----------------------------------------------------------------------------------------------

/-- SYS_ID is the register that covers offset 0, and its lower half is the word there. -/
theorem regAt_zero : regAt 0 = some ⟨⟨.sysId, 0x0, 0x2000000, 1, 0x2000000, 1, false, 0⟩, 0, 0, 0⟩ := rfl

/-- Of the blocks of the register map only SYS shows SYS_ID, and it shows no state. -/
@[simp] theorem regValue_sysId (j i : Nat) (s : State) : regValue .sysId j i s = sysIdValue := by
  have hsys : valSys .sysId j i s = sysIdValue := rfl
  have hirq : valIrq .sysId i s = 0 := rfl
  have htrn : valTrn .sysId j i s = 0 := rfl
  have hnme : valNme .sysId j i s = 0 := rfl
  have hhif : valHif .sysId j i s = 0 := rfl
  have htck : valTck .sysId i s = 0 := rfl
  simp only [regValue, hsys, hirq, htrn, hnme, hhif, htck, Nat.add_zero]

/-- The word at offset 0 is the whole of SYS_ID, which fits in 32 bits. -/
theorem wordShown_zero (s : State) : wordShown 0 s = sysIdValue := by
  have hfits : sysIdValue / 2 ^ (32 * 0) % 2 ^ 32 = sysIdValue := by decide
  simp only [wordShown, regAt_zero, regValue_sysId, hfits, Nat.ofNat_pos, if_true]

/-- Settles O2: offset 0 shows SYS_ID, whose value is a constant other than all ones. -/
theorem sysIdReads : Obligations.SysIdReads := by
  intro s
  rw [wordShown_zero]
  exact ⟨rfl, by decide⟩

-- the cold reset (R24) --------------------------------------------------------------------------------------------------

/-- The state after a cold reset: the reset state with the always-on record (R604), and with what is the model's own: the record of
what has been sent, the counter of free values and the commands that wait. -/
def coldResetState (s : State) : State :=
  { State.reset with
    sys := { State.reset.sys with aonValid := s.sys.aonValid, aonCause := s.sys.aonCause, aonTime := s.sys.aonTime }
    out := s.out
    fresh := s.fresh
    pending := s.pending }

theorem exec_coldReset (n : Nat) (s : State) : exec (.coldReset n) s = execColdReset n s := rfl

theorem exec_coldReset_of_short {n : Nat} (h : n < 100) (s : State) : exec (.coldReset n) s = .next s := by
  rw [exec_coldReset, execColdReset, if_pos h]

theorem exec_coldReset_of_long {n : Nat} (h : 100 ≤ n) (s : State) : exec (.coldReset n) s = .next (coldResetState s) := by
  rw [exec_coldReset, execColdReset, if_neg h.not_gt, coldResetState]

@[simp] theorem coldResetState_sys (s : State) : (coldResetState s).sys =
    { State.reset.sys with aonValid := s.sys.aonValid, aonCause := s.sys.aonCause, aonTime := s.sys.aonTime } := rfl

/-- Nothing but SYS, the record of what has been sent and the counter of free values differs from the reset state. -/
theorem coldResetState_same (s : State) {p : Part} (hp : p ∉ [Part.sys, .out, .fresh]) : p.same State.reset (coldResetState s) := by
  cases p with
  | sys | out | fresh => simp at hp
  | _ => simp [Part.same, coldResetState]

/-- Settles O5: the length of the pulse decides between no effect and the state after a cold reset. -/
theorem coldResetPulse : Obligations.ColdResetPulse :=
  ⟨fun s _ hshort => exec_coldReset_of_short hshort s,
   fun s _ hlong => ⟨coldResetState s, exec_coldReset_of_long hlong s, rfl, rfl, coldResetState_sys s, fun _ => coldResetState_same s⟩⟩

end Sys2Proof.Machine
end

section
/-! SUPPORT. A write of MBX_DOOR whose LENGTH does not fit (R542). -/

namespace Sys2Proof.Machine

-- what the operations of a GO leave (R50, R513, R575) -------------------------------------------------------------------

theorem swErrSet_same (b o : Nat) (s : State) : SameBut (.sys :: tells) s (swErrSet b o s) :=
  ⟨rfl, fun p hp => by cases p <;> simp_all [Part.same, tells, swErrSet]⟩

theorem irqSrcMod_same (i : Nat) (f : IrqSrc → IrqSrc) (s : State) : SameBut tells s (irqSrcMod i f s) :=
  ⟨rfl, fun p hp => by cases p <;> simp_all [Part.same, tells, irqSrcMod]⟩

theorem boxMod_same (m : Nat) (f : Mailbox → Mailbox) (s : State) : SameBut [.mbx] s (boxMod m f s) :=
  ⟨rfl, fun p hp => by cases p <;> simp_all [Part.same, boxMod]⟩

@[simp] theorem boxOf_boxMod_same (m : Nat) (f : Mailbox → Mailbox) (s : State) : boxOf (boxMod m f s) m = f (boxOf s m) := by
  simp only [boxOf, boxMod, mapGetD_mapUp_same]

/-- A mailbox depends on MBX alone. -/
theorem boxOf_congr {s t : State} (h : t.mbx = s.mbx) (m : Nat) : boxOf t m = boxOf s m := by simp only [boxOf, h]

@[simp] theorem boxOf_irqSettle (s : State) (m : Nat) : boxOf (irqSettle s) m = boxOf s m := boxOf_congr (irqSettle_mbx s) m

-- the write of MBX_DOOR (R486, R513, R542) ------------------------------------------------------------------------------

theorem exec_mbxGo (p : Fin 2) (m : Fin 64) (v : BitVec 32) (s : State) : exec (.mbxGo p m v) s = execMbxGo p m v s := rfl

/-- A write that no posted write of its port precedes is applied at once (R486). -/
theorem pageTake_unguarded {p : Nat} {s : State} (h : postedGuards s p = []) (w : PageWrite) : pageTake p w s = pageWrite w s := by
  simp only [pageTake, h, List.isEmpty_nil, if_true]

/-- A GO that no posted write of its port precedes writes the doorbell with the request area as it stands. -/
theorem exec_mbxGo_unguarded {s : State} {p : Fin 2} (hopen : barOpen s p.val = true) (hguards : postedGuards s p.val = [])
    (m : Fin 64) (v : BitVec 32) :
    exec (.mbxGo p m v) s = .next (irqSettle (goWrite m.val v.toNat (goArea s m.val) s)) := by
  rw [exec_mbxGo, execMbxGo, bar_open hopen, pageTake_unguarded hguards]
  rfl

/-- The state in which a GO to an idle mailbox finds the hub: its reserved bits noted in SYS_SW_ERR (R50), and the latch of the mailbox's
answer source cleared (R575). -/
def goNoted (m v : Nat) (s : State) : State :=
  irqSrcMod (96 + m) (fun i => { i with latch := false }) (if bitsOf v 30 11 ≠ 0 then swErrSet 0 (0x110000 + 0x1000 * m) s else s)

@[simp] theorem goNoted_mbx (m v : Nat) (s : State) : (goNoted m v s).mbx = s.mbx := by
  unfold goNoted
  split <;> rfl

@[simp] theorem boxOf_goNoted (m v k : Nat) (s : State) : boxOf (goNoted m v s) k = boxOf s k := boxOf_congr (goNoted_mbx m v s) k

theorem goNoted_same (m v : Nat) (s : State) : SameBut (.sys :: tells) s (goNoted m v s) := by
  have hlatch (u : State) : SameBut (.sys :: tells) u (irqSrcMod (96 + m) (fun i => { i with latch := false }) u) :=
    (irqSrcMod_same _ _ u).mono (fun _ hp => List.mem_cons_of_mem _ hp)
  unfold goNoted
  split
  · exact (swErrSet_same _ _ s).trans (hlatch _)
  · exact hlatch s

/-- What MBX_DOOR requires of a LENGTH fails: it is out of bounds, or the header's LENGTH does not fit in it (R542). -/
def GoMisfits (v : Nat) (area : List Byte) : Prop :=
  bitsOf v 10 0 < 32 ∨ 1792 < bitsOf v 10 0 ∨ bitsOf v 10 0 < 32 + areaField area 8 4

/-- A GO to an idle mailbox whose LENGTH does not fit gets the RANGE response. -/
theorem goWrite_misfit {m v : Nat} {area : List Byte} {s : State} (hgo : bitsOf v 31 31 = 1) (hidle : (boxOf s m).busy = false)
    (hlen : GoMisfits v area) : goWrite m v area s = goRange m area (goNoted m v s) := by
  have hnoted : boxOf (if bitsOf v 30 11 ≠ 0 then swErrSet 0 (0x110000 + 0x1000 * m) s else s) m = boxOf s m := by
    split <;> rfl
  have htaken : ¬ (bitsOf v 31 31 = 0 ∨ (boxOf s m).busy = true) := by simp [hgo, hidle]
  unfold goWrite
  simp only [hnoted]
  rw [if_neg htaken]
  exact if_pos hlen

/-- The response to a GO that starts no request. -/
def rangeResponse (area : List Byte) (s : State) : Response := ⟨areaField area 0 2, .range, 0, areaField area 4 4, 0, now s, []⟩

@[simp] theorem rangeResponse_status (area : List Byte) (s : State) : (rangeResponse area s).status = .range := rfl
@[simp] theorem rangeResponse_seq (area : List Byte) (s : State) : (rangeResponse area s).seq = areaField area 4 4 := rfl

/-- Of the mailbox only the response and STATE change. -/
theorem boxOf_goRange (m : Nat) (area : List Byte) (s : State) :
    boxOf (goRange m area s) m = { boxOf s m with done := true, resp := some (rangeResponse area s) } :=
  boxOf_boxMod_same m _ s

theorem goRange_same (m : Nat) (area : List Byte) (s : State) : SameBut (.mbx :: tells) s (goRange m area s) :=
  ((boxMod_same m _ s).mono (by decide)).trans ((irqRaise_same _ _).mono (by decide))

/-- A GO whose LENGTH does not fit changes nothing but MBX, SYS_SW_ERR and what telling the host changes. -/
theorem goMisfit_same (m v : Nat) (area : List Byte) (s : State) :
    SameBut (([.mbx, .sys] : List Part) ++ tells) s (irqSettle (goRange m area (goNoted m v s))) :=
  (((goNoted_same m v s).mono (by decide)).trans ((goRange_same m area _).mono (by decide))).trans ((irqSettle_same _).mono (by decide))

/-- Settles O55: the doorbell's write comes down to the RANGE response, which changes nothing of the mailbox but its response and STATE. -/
theorem goOutOfRange : Obligations.GoOutOfRange := by
  intro s p m v hopen hguards hgo hidle hlen
  have hexec := exec_mbxGo_unguarded hopen hguards m v
  rw [goWrite_misfit hgo hidle hlen] at hexec
  refine ⟨_, hexec, ?_⟩
  rw [boxOf_irqSettle, boxOf_goRange, boxOf_goNoted]
  exact ⟨hidle, rfl, rfl, rfl, ⟨_, rfl, rangeResponse_status _ _, rangeResponse_seq _ _⟩, rfl, goMisfit_same m.val v.toNat _ s⟩

end Sys2Proof.Machine
end
